-- ==== Sys2Proof/Word.lean ====
section
/-! DEFINITION. The word types of the HXY-9740: registers and command words of 64 bits, instruction words of 32 bits,
tile rows of 256 bytes with a 40-byte scale sideband (spec 02 R44, 03 R59, 03 R75). -/

namespace Sys2Proof

/-- A scalar register, a command word, an address (03 R75). -/
abbrev W64 := BitVec 64

/-- An instruction word (03 R59). -/
abbrev W32 := BitVec 32

/-- One byte of memory (00 R4). -/
abbrev Byte := BitVec 8

/-- The data of a tile row: 256 bytes, byte 0 in bits 7-0 (06 R158). -/
abbrev RowData := BitVec 2048

/-- The scale sideband of a tile row: 40 bytes (02 R44). -/
abbrev Sideband := BitVec 320

end Sys2Proof
end

