-- ==== Sys2Proof/Machine/Codes.lean ====
section
/-! DEFINITION. Fault and event codes (00 R14), streams (03 R64), scopes and engine identifiers (01 R18, 04 R103). -/

namespace Sys2Proof.Machine

/-- A fault or event code of 00 R14. -/
abbrev Code := BitVec 16

def fltIllegal : Code := 0x1001
def fltWrongStream : Code := 0x1002
def fltBadScope : Code := 0x1003
def fltRep : Code := 0x1004
def fltPriv : Code := 0x1005
def fltXlate : Code := 0x2001
def fltAccess : Code := 0x2002
def fltAlign : Code := 0x2003
def fltRemote : Code := 0x2004
def fltBadCmd : Code := 0x3002
def fltCmdBound : Code := 0x3003
def fltBankConflict : Code := 0x4001
def fltUncorr : Code := 0x5001
def fltKat : Code := 0x5002
def fltTaskPoison : Code := 0x6001
def fltScoreboard : Code := 0x6002
def evtSlip : Code := 0x6003
def fltForkDepth : Code := 0x7001
def fltBlockFree : Code := 0x7002
def fltLength : Code := 0x7003
def fltNoToken : Code := 0x8001
def fltStage : Code := 0x8002
def fltNodePool : Code := 0x9001
def fltPathDepth : Code := 0x9002
def fltReadRetry : Code := 0xA001
def fltSeal : Code := 0xA002
def fltHostUr : Code := 0xB001
def fltHostCa : Code := 0xB002
def fltWithdrawn : Code := 0xB003
def evtLane : Code := 0xB004
def fltMustSave : Code := 0xC001
def fltImagePlace : Code := 0xC002
def fltSignature : Code := 0xD001

/-- The fault codes of 00 R14, its events and the sampler's status apart, and 0. -/
def faultCodes : List Code :=
  [0, fltIllegal, fltWrongStream, fltBadScope, fltRep, fltPriv, fltXlate, fltAccess, fltAlign, fltRemote, fltBadCmd, fltCmdBound,
    fltBankConflict, fltUncorr, fltKat, fltTaskPoison, fltScoreboard, fltForkDepth, fltBlockFree, fltLength, fltStage,
    fltNodePool, fltPathDepth, fltReadRetry, fltSeal, fltHostUr, fltHostCa, fltWithdrawn, fltMustSave, fltImagePlace, fltSignature]

/-- The two instruction streams of a thread (05, 06). -/
inductive Stream where
  | a | e
  deriving DecidableEq, Repr

/-- Engine identifiers (01 R18). -/
def engMat : Nat := 0
def engLdc : Nat := 1
def engStc : Nat := 2
def engAtt : Nat := 3
def engChk : Nat := 4
def engSmp : Nat := 5
def engTre : Nat := 6
def engQmg : Nat := 7
def engCtx : Nat := 8
def engSch : Nat := 9
def engXfr : Nat := 10
def engLnk : Nat := 11

/-- 04 R103: the scope codes that exist. -/
def scopeValid (s : Nat) : Bool := decide (s ≤ 10)

/-- 01 R27: the scope codes that name a level with a barrier. -/
def levelValid (s : Nat) : Bool := s == 0 || s == 2 || s == 3 || s == 4 || s == 5 || s == 9

end Sys2Proof.Machine
end

