-- ==== Sys2Proof/Config.lean ====
section
/-! DEFINITION. What the spec leaves open and the model does not choose: free values (assumption log 2). Each is an opaque
function of the state's counter of free values taken, so nothing in Lean evaluates one or proves a value of it. -/

namespace Sys2Proof.Config

/-- An undefined 64-bit value (00 R10): the n-th free value taken. -/
opaque freeWord : Nat → W64

/-- The undefined data of a tile row (03 R70, 06 R159). -/
opaque freeRow : Nat → RowData

/-- The undefined sideband of a tile row (02 R44, 05 R143). -/
opaque freeSideband : Nat → Sideband

/-- An undefined byte of memory (04 R87). -/
opaque freeByte : Nat → Byte

/-- An open choice among alternatives, reduced by its user modulo their number (which entry a cache replaces). -/
opaque freeChoice : Nat → Nat

/-- The scale of a block whose amax / emax passes the largest scale (02 R45), from emax and amax = m × 2^e. -/
opaque wideScale (emax m : Nat) (e : Int) : BitVec 20

/-- Byte i of the thread and core sections of the n-th image: the spec gives them no layout (17 R457; log 9). -/
opaque imageByte : Nat → Nat → Byte

end Sys2Proof.Config
end

