-- ==== Sys2Proof/Machine/Numbers.lean ====
section
/-! DEFINITION. Number formats, exact values, rounding, the correctly rounded functions, block formats and sum orders
(spec 02 R38-R58). Values are exact: sign, natural mantissa and binary exponent; nothing is rounded before `roundTo`. -/

namespace Sys2Proof.Machine

/-- The formats of 02 R38, in code order. -/
inductive Fmt where
  | fp32 | bf16 | fp16 | e4m3 | e5m2 | e2m1 | int32 | int16 | int8 | int4 | uint8 | bx8 | bx4 | bxi8
  deriving DecidableEq, Repr

/-- 02 R38: the format a code names; 14 and 15 are reserved. -/
def Fmt.ofCode : Nat → Option Fmt
  | 0 => some .fp32 | 1 => some .bf16 | 2 => some .fp16 | 3 => some .e4m3 | 4 => some .e5m2 | 5 => some .e2m1
  | 6 => some .int32 | 7 => some .int16 | 8 => some .int8 | 9 => some .int4 | 10 => some .uint8
  | 11 => some .bx8 | 12 => some .bx4 | 13 => some .bxi8 | _ => none

/-- 02 R38: the width of an element in bits. -/
def Fmt.bits : Fmt → Nat
  | .fp32 | .int32 => 32
  | .bf16 | .fp16 | .int16 => 16
  | .e4m3 | .e5m2 | .int8 | .uint8 | .bx8 | .bxi8 => 8
  | .e2m1 | .int4 | .bx4 => 4

/-- 02 R38: elements of a 256-byte row. -/
def Fmt.lanes (f : Fmt) : Nat := 2048 / f.bits

/-- 02 R38: a float format (no block format). -/
def Fmt.isFloat : Fmt → Bool
  | .fp32 | .bf16 | .fp16 | .e4m3 | .e5m2 | .e2m1 => true
  | _ => false

/-- 02 R38: an integer format. -/
def Fmt.isInt : Fmt → Bool
  | .int32 | .int16 | .int8 | .int4 | .uint8 => true
  | _ => false

/-- 02 R43: a block format. -/
def Fmt.isBlock : Fmt → Bool
  | .bx8 | .bx4 | .bxi8 => true
  | _ => false

/-- 02 R43: the format of a block format's elements; any other format is its own. -/
def Fmt.elem : Fmt → Fmt
  | .bx8 => .e4m3 | .bx4 => .e2m1 | .bxi8 => .int8 | f => f

/-- A float format's layout (02 R39): fraction bits, bias, width, largest finite magnitude, infinity, canonical NaN. -/
structure FSpec where
  frac : Nat
  bias : Nat
  width : Nat
  maxMag : Nat
  inf : Option Nat
  nan : Option Nat
  deriving DecidableEq, Repr

/-- 02 R39. (For a format that is no float the FP32 layout stands; no operation asks for it.) -/
def Fmt.spec : Fmt → FSpec
  | .bf16 => ⟨7, 127, 16, 0x7F7F, some 0x7F80, some 0x7FC0⟩
  | .fp16 => ⟨10, 15, 16, 0x7BFF, some 0x7C00, some 0x7E00⟩
  | .e4m3 | .bx8 => ⟨3, 7, 8, 0x7E, none, some 0x7F⟩
  | .e5m2 => ⟨2, 15, 8, 0x7B, some 0x7C, some 0x7E⟩
  | .e2m1 | .bx4 => ⟨1, 1, 4, 0x7, none, none⟩
  | _ => ⟨23, 127, 32, 0x7F7FFFFF, some 0x7F800000, some 0x7FC00000⟩

/-- 02 R41: the range of an integer format. -/
def Fmt.intRange : Fmt → Int × Int
  | .int16 => (-32768, 32767)
  | .int8 | .bxi8 => (-128, 127)
  | .int4 => (-8, 7)
  | .uint8 => (0, 255)
  | _ => (-2147483648, 2147483647)

/-- The six sticky conditions of ctl.fpmode (02 R51), bit 0 NV, 1 DZ, 2 OF, 3 UF, 4 NX, 5 SAT. -/
abbrev FFlags := BitVec 6

def FFlags.nv : FFlags := 1#6
def FFlags.dz : FFlags := 2#6
def FFlags.ovf : FFlags := 4#6
def FFlags.uf : FFlags := 8#6
def FFlags.nx : FFlags := 16#6
def FFlags.sat : FFlags := 32#6

/-- A rounding code (02 R46); code 5 carries the 16 random bits of 02 R47. -/
inductive Rnd where
  | rne | rtz | rdn | rup | rna
  | sto (r : Nat)
  deriving DecidableEq, Repr

/-- 02 R46: rounding codes 0 to 5; `r` is the random value code 5 uses. -/
def Rnd.ofCode (r : Nat) : Nat → Option Rnd
  | 0 => some .rne | 1 => some .rtz | 2 => some .rdn | 3 => some .rup | 4 => some .rna | 5 => some (.sto r) | _ => none

/-- An exact value: NaN, an infinity, or (−1)^neg × m × 2^e; with `st` the magnitude lies strictly between m and m + 1
units of 2^e (a quotient or a function value that is not a dyadic number). -/
inductive Fl where
  | nan
  | inf (neg : Bool)
  | fin (neg : Bool) (m : Nat) (e : Int) (st : Bool)
  deriving DecidableEq, Repr

def Fl.zero (neg : Bool := false) : Fl := .fin neg 0 0 false

/-- The exact value of an integer. -/
def Fl.ofInt (i : Int) : Fl := .fin (decide (i < 0)) i.natAbs 0 false

def Fl.isNan : Fl → Bool
  | .nan => true | _ => false

def Fl.isInf : Fl → Bool
  | .inf _ => true | _ => false

def Fl.isZero : Fl → Bool
  | .fin _ 0 _ false => true | _ => false

/-- The sign bit of a value that is no NaN. -/
def Fl.sign : Fl → Bool
  | .nan => false | .inf n => n | .fin n _ _ _ => n

def Fl.neg : Fl → Fl
  | .nan => .nan | .inf n => .inf (!n) | .fin n m e s => .fin (!n) m e s

def Fl.abs : Fl → Fl
  | .nan => .nan | .inf _ => .inf false | .fin _ m e s => .fin false m e s

/-- 02 R40: the value of a float encoding. -/
def Fmt.decodeFloat (f : Fmt) (code : Nat) : Fl :=
  let s := f.spec
  let neg := code.testBit (s.width - 1)
  let mag := code % 2 ^ (s.width - 1)
  if mag > s.maxMag then
    if s.inf = some mag then .inf neg else .nan
  else
    let ex := mag / 2 ^ s.frac
    let fr := mag % 2 ^ s.frac
    if ex = 0 then .fin neg fr (1 - s.bias - s.frac : Int) false
    else .fin neg (fr + 2 ^ s.frac) (ex - s.bias - s.frac : Int) false

/-- 02 R41: the value of an integer encoding. -/
def Fmt.decodeInt (f : Fmt) (code : Nat) : Int :=
  let c := code % 2 ^ f.bits
  if f = .uint8 then c else if c.testBit (f.bits - 1) then (c : Int) - 2 ^ f.bits else c

/-- 02 R40, R41: the exact value of an element's code, blocks without their scale. -/
def Fmt.decode (f : Fmt) (code : Nat) : Fl :=
  let g := f.elem
  if g.isFloat then g.decodeFloat code else .ofInt (g.decodeInt code)

/-- A magnitude (m, with st) × 2^e in units of 2^q: the integer below it, whether it is inexact, and its rest compared
with a half (lt, eq, gt). -/
def splitAt (m : Nat) (e : Int) (st : Bool) (q : Int) : Nat × Bool × Ordering :=
  let e' := min e (q - 2)
  let m' := m <<< (e - e').toNat
  let r := (q - e').toNat
  let n := m' >>> r
  let rem := m' % 2 ^ r
  (n, rem != 0 || st, if 2 * rem < 2 ^ r then .lt else if 2 * rem = 2 ^ r && !st then .eq else .gt)

/-- 02 R46: the magnitude rounded to a multiple of 2^q (codes 0 to 4; stochastic rounding truncates here, its random part
having been added before). -/
def roundMag (mode : Rnd) (neg : Bool) (m : Nat) (e : Int) (st : Bool) (q : Int) : Nat × Bool :=
  let (n, inex, half) := splitAt m e st q
  let up := inex && match mode with
    | .rne => half = .gt || (half = .eq && n % 2 = 1)
    | .rna => half = .gt || half = .eq
    | .rdn => neg
    | .rup => !neg
    | .rtz | .sto _ => false
  (if up then n + 1 else n, inex)

/-- The exponent of a magnitude's leading bit. -/
def leadExp (m : Nat) (e : Int) : Int := (Nat.log2 m : Int) + e

/-- The quantum of a magnitude in a format: that of its binade, or of the subnormals (02 R40). -/
def FSpec.quantum (s : FSpec) (m : Nat) (e : Int) : Int :=
  max (leadExp m e - s.frac) (1 - s.bias - s.frac : Int)

/-- The magnitude's encoding bits (exponent field and fraction, unbounded above) of n × 2^q, n at most 2^(frac + 1). -/
def FSpec.magBits (s : FSpec) (n : Nat) (q : Int) : Nat :=
  if n < 2 ^ s.frac then n
  else ((q + s.frac + s.bias - 1) * 2 ^ s.frac + n).toNat

/-- 02 R47: a + r × g / 65,536, g the spacing of the format at a with unbounded exponent (log 17). -/
def addRandom (s : FSpec) (r : Nat) (m : Nat) (e : Int) : Nat × Int :=
  let gq := leadExp m e - s.frac - 16
  let e' := min e gq
  (m <<< (e - e').toNat + (r % 65536) <<< (gq - e').toNat, e')

/-- 02 R48: the default of the saturation choice. -/
def Fmt.satDefault (f : Fmt) : Bool :=
  match f with
  | .e4m3 | .e2m1 | .bx8 | .bx4 => true
  | _ => false

/-- 02 R48: what an overflow becomes. -/
def FSpec.overflow (s : FSpec) (mode : Rnd) (sat neg : Bool) : Nat × FFlags :=
  let sb := if neg then 2 ^ (s.width - 1) else 0
  if sat then (s.maxMag + sb, FFlags.ovf ||| FFlags.nx ||| FFlags.sat)
  else match s.inf with
    | none => (s.nan.getD s.maxMag, FFlags.ovf ||| FFlags.nx)
    | some i =>
      let toMax := match mode with
        | .rtz => true
        | .rdn => !neg
        | .rup => neg
        | _ => false
      (sb + (if toMax then s.maxMag else i), FFlags.ovf ||| FFlags.nx)

/-- 02 R46-R49: an exact value rounded once into a float format. Tininess is detected before rounding (R49). -/
def roundFloat (f : Fmt) (mode : Rnd) (sat : Bool) (x : Fl) : Nat × FFlags :=
  let s := f.spec
  match x with
  | .nan => match s.nan with
    | some c => (c, 0)
    | none => (0, FFlags.nv)
  | .inf neg =>
    let sb := if neg then 2 ^ (s.width - 1) else 0
    match s.inf with
    | some i => (sb + i, 0)
    | none => if sat then (sb + s.maxMag, FFlags.sat) else (s.nan.getD 0, FFlags.nv)
  | .fin neg m e st =>
    let sb := if neg then 2 ^ (s.width - 1) else 0
    if m = 0 ∧ st = false then (sb, 0)
    else
      let (n0, inex) := roundMag (match mode with | .sto _ => .rtz | md => md) neg m e st (s.quantum m e)
      let mag0 := s.magBits n0 (s.quantum m e)
      let tiny := decide (leadExp m e < 1 - s.bias)
      let fl : FFlags := (if inex then FFlags.nx else 0) ||| (if inex && tiny then FFlags.uf else 0)
      match mode with
      | .sto r =>
        if mag0 > s.maxMag ∨ (mag0 = s.maxMag ∧ inex = true) then
          let mag := s.magBits (roundMag .rne neg m e st (s.quantum m e)).1 (s.quantum m e)
          if mag > s.maxMag then s.overflow .rne sat neg else (sb + mag, fl)
        else
          let (m2, e2) := addRandom s r m e
          let (n, _) := roundMag .rtz neg m2 e2 st (s.quantum m2 e2)
          (sb + s.magBits n (s.quantum m2 e2), fl)
      | _ => if mag0 > s.maxMag then s.overflow mode sat neg else (sb + mag0, fl)

/-- 02 R47: a magnitude rounded stochastically to an integer; one past the format's end `top` rounds as under RNE. -/
def roundMagSto (r : Nat) (neg : Bool) (m : Nat) (e : Int) (st : Bool) (top : Nat) : Nat × Bool :=
  let (n, inex, _) := splitAt m e st 0
  if top < n ∨ (n = top ∧ inex = true) then roundMag .rne neg m e st 0
  else
    let e' := min e (-16)
    ((m <<< (e - e').toNat + (if inex then (r % 65536) <<< (-16 - e').toNat else 0)) >>> (-e').toNat, inex)

/-- 02 R42: an exact value rounded into an integer format; a finite one past its range is an overflow, which sets OF and NX
beside the SAT of its clamp (R48; log 42). -/
def roundInt (f : Fmt) (mode : Rnd) (x : Fl) : Nat × FFlags :=
  let (lo, hi) := f.intRange
  let enc := fun (i : Int) => (i % (2 ^ f.bits : Int)).toNat
  let clamp : FFlags := FFlags.ovf ||| FFlags.nx ||| FFlags.sat
  match x with
  | .nan => (0, FFlags.nv)
  | .inf neg => (enc (if neg then lo else hi), FFlags.sat)
  | .fin neg m e st =>
    let (n, inex) := match mode with
      | .sto r => roundMagSto r neg m e st (if neg then lo.natAbs else hi.natAbs)
      | md => roundMag md neg m e st 0
    let i : Int := if neg then -(n : Int) else n
    if i < lo then (enc lo, clamp) else if i > hi then (enc hi, clamp) else (enc i, if inex then FFlags.nx else 0)

/-- round(x, fmt, mode) of 00 R11 with its flags; a block format rounds as its element format. -/
def roundTo (f : Fmt) (mode : Rnd) (sat : Bool) (x : Fl) : Nat × FFlags :=
  let g := f.elem
  if g.isFloat then roundFloat g mode sat x else roundInt g mode x

/-- The magnitude comparison key: two finite values over one exponent. -/
def alignPair (a : Int) (ea : Int) (b : Int) (eb : Int) : Int × Int × Int :=
  let e := min ea eb
  (a * 2 ^ (ea - e).toNat, b * 2 ^ (eb - e).toNat, e)

/-- The signed mantissa of a finite value. -/
def signedM (neg : Bool) (m : Nat) : Int := if neg then -(m : Int) else m

/-- A value from its signed mantissa; a zero takes the sign given. -/
def Fl.ofSigned (i : Int) (e : Int) (zneg : Bool := false) : Fl :=
  if i = 0 then .fin zneg 0 0 false else .fin (decide (i < 0)) i.natAbs e false

/-- IEEE addition of exact values (02 R49): NaN with NV for ∞ − ∞; an exact zero sum is −0 only of two negative zeros, or
under RDN of unlike signs. -/
def Fl.add (mode : Rnd) : Fl → Fl → Fl × FFlags
  | .nan, _ => (.nan, 0)
  | _, .nan => (.nan, 0)
  | .inf a, .inf b => if a = b then (.inf a, 0) else (.nan, FFlags.nv)
  | .inf a, _ => (.inf a, 0)
  | _, .inf b => (.inf b, 0)
  | .fin na ma ea _, .fin nb mb eb _ =>
    let (x, y, e) := alignPair (signedM na ma) ea (signedM nb mb) eb
    (Fl.ofSigned (x + y) e (if na = nb then na else mode = .rdn), 0)

/-- IEEE multiplication of exact values (02 R49): NaN with NV for 0 × ∞. -/
def Fl.mul : Fl → Fl → Fl × FFlags
  | .nan, _ => (.nan, 0)
  | _, .nan => (.nan, 0)
  | .inf a, .inf b => (.inf (a != b), 0)
  | .inf a, .fin b m _ s => if m = 0 ∧ s = false then (.nan, FFlags.nv) else (.inf (a != b), 0)
  | .fin a m _ s, .inf b => if m = 0 ∧ s = false then (.nan, FFlags.nv) else (.inf (a != b), 0)
  | .fin na ma ea _, .fin nb mb eb _ => (.fin (na != nb) (ma * mb) (ea + eb) false, 0)

/-- A quotient of magnitudes to at least 80 bits, with its rest sticky. -/
def quotient (ma : Nat) (ea : Int) (mb : Nat) (eb : Int) : Nat × Int × Bool :=
  let k := 80 + Nat.log2 mb
  (ma <<< k / mb, ea - eb - k, ma <<< k % mb != 0)

/-- 02 R53: division of exact values with its special cases. -/
def Fl.div : Fl → Fl → Fl × FFlags
  | .nan, _ => (.nan, 0)
  | _, .nan => (.nan, 0)
  | .inf _, .inf _ => (.nan, FFlags.nv)
  | .inf a, .fin b _ _ _ => (.inf (a != b), 0)
  | .fin a _ _ _, .inf b => (.fin (a != b) 0 0 false, 0)
  | .fin na ma ea _, .fin nb mb eb _ =>
    if mb = 0 then (if ma = 0 then (.nan, FFlags.nv) else (.inf (na != nb), FFlags.dz))
    else if ma = 0 then (.fin (na != nb) 0 0 false, 0)
    else
      let (q, e, st) := quotient ma ea mb eb
      (.fin (na != nb) q e st, 0)

/-- Integer square root by bits, from bit `k` down: the largest r with r × r ≤ n that extends `r`. -/
def isqrtGo (n : Nat) : Nat → Nat → Nat
  | 0, r => r
  | k + 1, r => isqrtGo n k (if (r + 2 ^ k) * (r + 2 ^ k) ≤ n then r + 2 ^ k else r)

/-- The integer square root. -/
def isqrt (n : Nat) : Nat := isqrtGo n (Nat.log2 n / 2 + 1) 0

/-- The square root of a positive magnitude, at least 80 bits, with its rest sticky. -/
def sqrtMag (m : Nat) (e : Int) : Nat × Int × Bool :=
  let k : Nat := if e % 2 = 0 then 200 else 201
  let n := m <<< k
  let r := isqrt n
  (r, (e - k) / 2, r * r != n)

/-- 02 R53: FSQRT. -/
def Fl.sqrt : Fl → Fl × FFlags
  | .nan => (.nan, 0)
  | .inf neg => if neg then (.nan, FFlags.nv) else (.inf false, 0)
  | .fin neg m e _ =>
    if m = 0 then (.fin neg 0 0 false, 0)
    else if neg then (.nan, FFlags.nv)
    else
      let (r, e', st) := sqrtMag m e
      (.fin false r e' st, 0)

/-- 02 R53: FRCP. -/
def Fl.rcp (x : Fl) : Fl × FFlags :=
  match x with
  | .fin neg 0 _ false => (.inf neg, FFlags.dz)
  | _ => Fl.div (.fin false 1 0 false) x

/-- 02 R53: FRSQ, the reciprocal of the square root, from the exact quotient 2^k / m. -/
def Fl.rsq : Fl → Fl × FFlags
  | .nan => (.nan, 0)
  | .inf neg => if neg then (.nan, FFlags.nv) else (.fin false 0 0 false, 0)
  | .fin neg m e _ =>
    if m = 0 then (.inf neg, FFlags.dz)
    else if neg then (.nan, FFlags.nv)
    else
      -- 1 / (m × 2^e) as q × 2^f with f even and a sticky rest, and its root
      let k : Nat := 240 + Nat.log2 m + (if (e + Nat.log2 m) % 2 = 0 then 0 else 1)
      let q := 2 ^ k / m
      let r := isqrt q
      (.fin false r ((-e - k) / 2) (r * r != q || 2 ^ k % m != 0), 0)

/-- Fixed-point precision of the transcendental functions (log 15). -/
def fixP : Nat := 320

/-- ln 2 in units of 2^-340. -/
def ln2Fix : Nat := 0xb17217f7d1cf79abc9e3b39803f2f6af40f343267298b62d8a0d175b8baafa2be7b876206debac9855955

/-- π in units of 2^-340. -/
def piFix : Nat := 0x3243f6a8885a308d313198a2e03707344a4093822299f31d0082efa98ec4e6c89452821e638d01377be546

/-- The exponential series from term k on: sum + term × (y/k) × (1 + (y/(k+1)) × …), n terms. -/
def expSeries (y : Nat) : Nat → Nat → Nat → Nat → Nat
  | 0, _, _, sum => sum
  | n + 1, k, term, sum =>
    let t := (term * y) >>> fixP / k
    expSeries y n (k + 1) t (sum + t)

/-- 2^(f / 2^fixP) for f below 2^fixP, in units of 2^-fixP. -/
def exp2Fix (f : Nat) : Nat :=
  expSeries ((f * (ln2Fix >>> 20)) >>> fixP) 90 1 (2 ^ fixP) (2 ^ fixP)

/-- 02 R53: FEXP2; also the powers of R57. -/
def Fl.exp2 : Fl → Fl × FFlags
  | .nan => (.nan, 0)
  | .inf neg => if neg then (.fin false 0 0 false, 0) else (.inf false, 0)
  | .fin neg m e _ =>
    if m = 0 then (.fin false 1 0 false, 0)
    else if leadExp m e > 20 then (.fin false 1 (if neg then -2000000 else 2000000) true, 0)
    else
      let i : Int := if e ≥ 0 then signedM neg m * 2 ^ e.toNat else signedM neg m / 2 ^ (-e).toNat
      let fr : Nat := if e ≥ 0 then 0 else (signedM neg m % 2 ^ (-e).toNat).toNat
      if fr = 0 then (.fin false 1 i false, 0)
      else
        let f := if (-e).toNat ≤ fixP then fr <<< (fixP - (-e).toNat) else fr >>> ((-e).toNat - fixP)
        (.fin false (exp2Fix f) (i - fixP) true, 0)

/-- z + z³/3 + z⁵/5 + …, in units of 2^-fixP: n terms from the odd number k on; `p` is z^k, `z2` is z². -/
def atanhSeries (z2 : Nat) : Nat → Nat → Nat → Nat → Nat
  | 0, _, _, sum => sum
  | n + 1, k, p, sum => atanhSeries z2 n (k + 2) ((p * z2) >>> fixP) (sum + p / k)

/-- log2 of m / 2^(log2 m), a value in [1, 2), in units of 2^-fixP. -/
def log2Fix (m : Nat) : Nat :=
  let b := 2 ^ Nat.log2 m
  let z := ((m - b) <<< fixP) / (m + b)
  ((2 * atanhSeries ((z * z) >>> fixP) 110 1 z 0) <<< fixP) / (ln2Fix >>> 20)

/-- 02 R53: FLOG2. -/
def Fl.log2 : Fl → Fl × FFlags
  | .nan => (.nan, 0)
  | .inf neg => if neg then (.nan, FFlags.nv) else (.inf false, 0)
  | .fin neg m e _ =>
    if m = 0 then (.inf true, FFlags.dz)
    else if neg then (.nan, FFlags.nv)
    else
      let ex : Int := leadExp m e
      if m = 2 ^ Nat.log2 m then (Fl.ofSigned ex 0, 0)
      else
        let v : Int := ex * 2 ^ fixP + log2Fix m
        (if v < 0 then .fin true (v.natAbs - 1) (-(fixP : Int)) true else .fin false v.natAbs (-(fixP : Int)) true, 0)

/-- The alternating series of sine (k from 2) or cosine (k from 1): terms t × y²/(k(k+1)), in units of 2^-fixP. -/
def trigSeries (y2 : Nat) : Nat → Nat → Bool → Nat → Int → Int
  | 0, _, _, _, sum => sum
  | n + 1, k, minus, term, sum =>
    let t := (term * y2) >>> fixP / (k * (k + 1))
    trigSeries y2 n (k + 2) (!minus) t (if minus then sum - t else sum + t)

/-- sin(2π k / n) for k / n in [0, 1/8], in units of 2^-fixP. -/
def sinFix (k n : Nat) : Nat :=
  let y := (2 * k * (piFix >>> 20)) / n
  (trigSeries ((y * y) >>> fixP) 60 2 true y y).toNat

/-- cos(2π k / n) for k / n in [0, 1/8], in units of 2^-fixP. -/
def cosFix (k n : Nat) : Nat :=
  let y := (2 * k * (piFix >>> 20)) / n
  (trigSeries ((y * y) >>> fixP) 60 1 true (2 ^ fixP) (2 ^ fixP)).toNat

/-- A fixed-point value: exact 0, exact 1, or inexact. -/
def Fl.ofFix (neg : Bool) (v : Nat) (exact : Bool) : Fl := .fin neg v (-(fixP : Int)) (!exact)

/-- The pair (cos 2πk/n, sin 2πk/n) for k in 0 … n/2, exact where it is 0 or ±1 (log 15). -/
def cosSin (k n : Nat) : Fl × Fl :=
  let one := 2 ^ fixP
  -- octants of the half circle, by 8k against n
  if k = 0 then (Fl.ofFix false one true, Fl.zero)
  else if 4 * k = n then (Fl.zero, Fl.ofFix false one true)
  else if 2 * k = n then (Fl.ofFix true one true, Fl.zero)
  else if 8 * k ≤ n then (Fl.ofFix false (cosFix k n) false, Fl.ofFix false (sinFix k n) false)
  else if 4 * k < n then (Fl.ofFix false (sinFix (n - 4 * k) (4 * n)) false, Fl.ofFix false (cosFix (n - 4 * k) (4 * n)) false)
  else if 8 * k ≤ 3 * n then
    (Fl.ofFix true (sinFix (4 * k - n) (4 * n)) false, Fl.ofFix false (cosFix (4 * k - n) (4 * n)) false)
  else (Fl.ofFix true (cosFix (n - 2 * k) (2 * n)) false, Fl.ofFix false (sinFix (n - 2 * k) (2 * n)) false)

/-- Numeric comparison of values that are no NaN; zeros of either sign are equal. -/
def Fl.cmp : Fl → Fl → Ordering
  | .nan, _ => .eq
  | _, .nan => .eq
  | .inf a, .inf b => compare b.toNat a.toNat
  | .inf a, _ => if a then .lt else .gt
  | _, .inf b => if b then .gt else .lt
  | .fin na ma ea _, .fin nb mb eb _ =>
    let (x, y, _) := alignPair (signedM na ma) ea (signedM nb mb) eb
    compare x y

/-- a < b over values that are no NaN. -/
def Fl.lt (a b : Fl) : Bool := !a.isNan && !b.isNan && Fl.cmp a b == .lt

/-- minimumNumber and maximumNumber (07 R196): a NaN loses to a number; −0 ranks below +0. -/
def Fl.minMax (wantMax : Bool) (a b : Fl) : Fl :=
  if a.isNan then b else if b.isNan then a
  else
    let aLess := match Fl.cmp a b with
      | .lt => true | .gt => false | .eq => a.sign && !b.sign
    if wantMax then (if aLess then b else a) else (if aLess || Fl.cmp a b == .eq && a.sign == b.sign then a else b)

/-- The exact sum of values with IEEE special cases; −0 only when every term is −0 (02 R54, R57). -/
def exactSum (xs : List Fl) : Fl :=
  if xs.any Fl.isNan then .nan
  else
    let pos := xs.any fun x => match x with | .inf n => !n | _ => false
    let ng := xs.any fun x => match x with | .inf n => n | _ => false
    if pos && ng then .nan else if pos then .inf false else if ng then .inf true
    else
      let allNegZero := !xs.isEmpty && xs.all fun x => x.isZero && x.sign
      match xs.foldl (fun acc x => (Fl.add .rne acc x).1) (Fl.zero allNegZero) with
      | .fin n m e s => if m = 0 then Fl.zero allNegZero else .fin n m e s
      | y => y

/-- An FP32 encoding's value. -/
def f32 (b : BitVec 32) : Fl := Fmt.fp32.decodeFloat b.toNat

/-- round(x, FP32, mode) with saturation off. -/
def toF32 (mode : Rnd) (x : Fl) : BitVec 32 × FFlags :=
  let (c, fl) := roundFloat .fp32 mode false x
  (BitVec.ofNat 32 c, fl)

/-- round(x, FP32, RNE), without flags. -/
def rne32 (x : Fl) : BitVec 32 := (toF32 .rne x).1

/-- round(a + b, FP32, RNE): the add of 02 R54-R57. -/
def fadd32 (a b : BitVec 32) : BitVec 32 := rne32 (Fl.add .rne (f32 a) (f32 b)).1

/-- round(a × b, FP32, RNE). -/
def fmul32 (a b : BitVec 32) : BitVec 32 := rne32 (Fl.mul (f32 a) (f32 b)).1

/-- round(a / b, FP32, RNE). -/
def fdiv32 (a b : BitVec 32) : BitVec 32 := rne32 (Fl.div (f32 a) (f32 b)).1

/-- 02 R43: the value S of a 20-bit scale; `none` is NaN. -/
def scaleValue (s : BitVec 20) : Fl :=
  let e := (s.extractLsb' 12 8).toNat
  let fr := (s.extractLsb' 0 12).toNat
  if e = 0 then Fl.zero else if e = 255 then .nan else .fin false (4096 + fr) ((e : Int) - 139) false

/-- 02 R43: an element's value under its scale. -/
def decodeScaled (f : Fmt) (scale : BitVec 20) (code : Nat) : Fl :=
  let v := f.decode code
  let s := scaleValue scale
  if s.isNan || v.isNan then .nan
  else if s.isZero then .zero v.sign
  else (Fl.mul s v).1

/-- 02 R44: scale j of a sideband (segment j / 8, 160 bits a segment). -/
def sbScale (sb : Sideband) (j : Nat) : BitVec 20 := sb.extractLsb' (160 * (j / 8) + 20 * (j % 8)) 20

/-- 02 R45: a scale with its exponent brought into 1-254. -/
def legalScale (s : BitVec 20) : BitVec 20 := BitVec.ofNat 20 ((1 + s.toNat / 4096 % 254) * 4096 + s.toNat % 4096)

/-- 02 R45: the scale of a block of magnitudes with the largest `amax`: amax / emax rounded up to a scale, at least 2^-126. Past
the largest scale the spec states none: some scale of E 1-254, an uninterpreted function of the operands (log 42). -/
def blockScale (emax : Nat) (amax : Fl) : BitVec 20 :=
  match amax with
  | .fin _ m e _ =>
    let (q, qe, st) := quotient m e emax 0
    let lead := leadExp q qe
    if lead < -126 then 0x01000#20
    else
      let (n, _) := roundMag .rup false q qe st (lead - 12)
      -- n is at most 2^13; a carry to 2^13 steps the exponent
      let sc := (lead + 127 - 1).toNat * 4096 + n
      if sc < 255 * 4096 then BitVec.ofNat 20 sc else legalScale (Config.wideScale emax m e)
  | _ => 0xFF000#20

/-- 02 R45: 32 values into one block; `mode k` is the rounding of element k. Answers the scale, the codes, the flags. -/
def encodeBlock (f : Fmt) (mode : Nat → Rnd) (xs : List Fl) : BitVec 20 × List Nat × FFlags :=
  if xs.any fun x => x.isNan || x.isInf then (0xFF000#20, xs.map fun _ => 0, FFlags.nv)
  else
    let amax := xs.foldl (fun m x => if Fl.cmp m x.abs == .lt then x.abs else m) Fl.zero
    if amax.isZero then (0, xs.map fun _ => 0, 0)
    else
      let emax := match f with | .bx4 => 6 | .bxi8 => 127 | _ => 448
      let sc := blockScale emax amax
      let rs := xs.zipIdx.map fun (x, k) => roundTo f (mode k) true (Fl.div x (scaleValue sc)).1
      (sc, rs.map Prod.fst, rs.foldl (fun a r => a ||| r.2) 0)

/-- Element i of w bits of a packed value (02 R41: little-endian, low nibble first). -/
def lane (w : Nat) (d : Nat) (i : Nat) : Nat := (d >>> (i * w)) % 2 ^ w

/-- The packed value of a list of elements of w bits. -/
def packLanes (w : Nat) : List Nat → Nat
  | [] => 0
  | x :: xs => x % 2 ^ w + packLanes w xs <<< w

/-- The codes of a row in a format. -/
def rowCodes (f : Fmt) (r : RowData) : List Nat := (List.range f.lanes).map (lane f.bits r.toNat)

/-- A row from the codes of its elements. -/
def codesRow (f : Fmt) (cs : List Nat) : RowData := BitVec.ofNat 2048 (packLanes f.bits cs)

/-- A row's element values, with the scales of its sideband in a block format (02 R43, R44). -/
def rowValues (f : Fmt) (r : RowData) (sb : Sideband) : List Fl :=
  (rowCodes f r).zipIdx.map fun (c, i) => if f.isBlock then decodeScaled f (sbScale sb (i / 32)) c else f.decode c

/-- 02 R47: the random value of destination element i: bits 15-0 of 32-bit word i mod 64 of the random row. -/
def randomOf (row : RowData) (i : Nat) : Nat := (row.extractLsb' (32 * (i % 64)) 16).toNat

/-- 02 R55: one level of the pairwise tree. -/
def pairLevel (rnd : Fl → Fl × FFlags) : List Fl → List Fl × FFlags
  | x :: y :: rest =>
    let (s, f1) := Fl.add .rne x y
    let (r, f2) := rnd s
    let (rs, f3) := pairLevel rnd rest
    (r :: rs, f1 ||| f2 ||| f3)
  | rest => (rest, 0)

/-- 02 R55: the pairwise tree, fuel levels. -/
def pairTree (rnd : Fl → Fl × FFlags) : Nat → List Fl → Fl × FFlags
  | 0, xs => (xs.headD Fl.zero, 0)
  | n + 1, xs =>
    let (ys, f) := pairLevel rnd xs
    let (r, g) := pairTree rnd n ys
    (r, f ||| g)

/-- 02 R54: one chunk: the exact sum of the products, rounded, added to the accumulator. -/
def accChunk (acc : BitVec 32) (prods : List Fl) : BitVec 32 := fadd32 acc (rne32 (exactSum prods))

/-- 02 R54: an accumulator element over K products in chunks of 32; `fuel` at least the number of chunks. -/
def accDot : Nat → BitVec 32 → List Fl → BitVec 32
  | 0, acc, _ => acc
  | _ + 1, acc, [] => acc
  | n + 1, acc, ps => accDot n (accChunk acc (ps.take 32)) (ps.drop 32)

/-- The products of two vectors of exact values. A zero product has the sign of the factors' signs, an integer zero counting as
+0 (log 42). -/
def products (a b : List Fl) : List Fl := List.zipWith (fun x y => (Fl.mul x y).1) a b

/-- dot(q, k) of 02 R57: FP32 under R54 from +0. -/
def dot32 (a b : List Fl) : BitVec 32 := accDot (a.length + 1) 0 (products a b)

end Sys2Proof.Machine
end

