-- ==== Sys2Proof/Syntax.lean ====
section
/-! DEFINITION. The instructions: one constructor for each row of spec/opcode_table.json, in its order. The first 155 are
32-bit instruction words (03 R59-R66), whose arguments are the fields of the word; the rest are steps without a word: engine
commands taken from queues, autonomous hardware steps and supervisor requests (95), whose arguments name the unit that acts
(core 0-255, die 0-1, a stream `src`: a core, or 256 + die for dispatched tasks) and what the outside world supplies. -/

namespace Sys2Proof

/-- One instruction or step of the device (spec/opcode_table.json). -/
inductive Instr where
  /-- NOP, R138: Does nothing; the all-zero word. -/
  | nop
  /-- ROTCLR, R168: Sets the E-stream rotating base EBASE to 0 for later tile instructions. -/
  | rotclr
  /-- BQPUSH, R138: A-stream appends the value of a predicate to bq, waiting while bq is full. -/
  | bqpush (p : BitVec 7)
  /-- FQPOP, R138: A-stream removes the oldest fq entry into a scalar register, waiting while fq is empty. -/
  | fqpop (d : BitVec 5)
  /-- IFP, R71: Predicates the rest of its group, which becomes a no-op when pred xor neg is 0. -/
  | ifp (p : BitVec 7) (n : BitVec 1)
  /-- REP, R72: Repeats the next tile or MOVQ instruction count times, stepping its row fields, each repetition a boundary. -/
  | rep (c : BitVec 8) (d a b : BitVec 4)
  /-- ADD, R128: Sets a register to the sum of two registers modulo 2^64. -/
  | add (d a b : BitVec 5)
  /-- SUB, R128: Sets a register to the difference of two registers modulo 2^64. -/
  | sub (d a b : BitVec 5)
  /-- MUL, R128: Sets a register to the low 64 bits of the product. -/
  | mul (d a b : BitVec 5)
  /-- MULH, R128: Sets a register to the high 64 bits of the signed 128-bit product. -/
  | mulh (d a b : BitVec 5)
  /-- MULHU, R128: Sets a register to the high 64 bits of the unsigned 128-bit product. -/
  | mulhu (d a b : BitVec 5)
  /-- DIV, R129: Signed division rounded toward zero, never faulting. -/
  | div (d a b : BitVec 5)
  /-- DIVU, R129: Unsigned division, never faulting. -/
  | divu (d a b : BitVec 5)
  /-- REM, R129: Signed remainder with the sign of the dividend, never faulting. -/
  | rem (d a b : BitVec 5)
  /-- REMU, R129: Unsigned remainder, never faulting. -/
  | remu (d a b : BitVec 5)
  /-- AND, R128: Bitwise AND of two registers. -/
  | and (d a b : BitVec 5)
  /-- OR, R128: Bitwise OR of two registers. -/
  | or (d a b : BitVec 5)
  /-- XOR, R128: Bitwise XOR of two registers. -/
  | xor (d a b : BitVec 5)
  /-- ANDN, R128: A and not B. -/
  | andn (d a b : BitVec 5)
  /-- ORN, R128: A or not B. -/
  | orn (d a b : BitVec 5)
  /-- SHL, R128: Shifts A left by bits 5-0 of B. -/
  | shl (d a b : BitVec 5)
  /-- SHR, R128: Shifts A logically right by bits 5-0 of B. -/
  | shr (d a b : BitVec 5)
  /-- SAR, R128: Shifts A arithmetically right by bits 5-0 of B. -/
  | sar (d a b : BitVec 5)
  /-- MIN, R128: Signed minimum of two registers. -/
  | min (d a b : BitVec 5)
  /-- MAX, R128: Signed maximum of two registers. -/
  | max (d a b : BitVec 5)
  /-- MINU, R128: Unsigned minimum of two registers. -/
  | minu (d a b : BitVec 5)
  /-- MAXU, R128: Unsigned maximum of two registers. -/
  | maxu (d a b : BitVec 5)
  /-- CLZ, R128: Counts leading zero bits of A, 64 when A is 0. -/
  | clz (d a : BitVec 5)
  /-- CTZ, R128: Counts trailing zero bits of A, 64 when A is 0. -/
  | ctz (d a : BitVec 5)
  /-- POPC, R128: Counts the one bits of A. -/
  | popc (d a : BitVec 5)
  /-- BSWAP, R128: Reverses the eight bytes of A. -/
  | bswap (d a : BitVec 5)
  /-- ADDI, R130: Adds a sign-extended 16-bit immediate to a register. -/
  | addi (d a : BitVec 5) (im : BitVec 16)
  /-- ANDI, R130: ANDs a register with a zero-extended 16-bit immediate. -/
  | andi (d a : BitVec 5) (im : BitVec 16)
  /-- ORI, R130: ORs a register with a zero-extended 16-bit immediate. -/
  | ori (d a : BitVec 5) (im : BitVec 16)
  /-- XORI, R130: XORs a register with a zero-extended 16-bit immediate. -/
  | xori (d a : BitVec 5) (im : BitVec 16)
  /-- SHLI, R130: Shifts a register left by an immediate amount 0-63. -/
  | shli (d a : BitVec 5) (sx : BitVec 6)
  /-- SHRI, R130: Shifts a register logically right by an immediate amount 0-63. -/
  | shri (d a : BitVec 5) (sx : BitVec 6)
  /-- SARI, R130: Shifts a register arithmetically right by an immediate amount 0-63. -/
  | sari (d a : BitVec 5) (sx : BitVec 6)
  /-- MOVHI, R131: Sets a register to sext(imm16 x 2^16, 32). -/
  | movhi (d : BitVec 5) (im : BitVec 16)
  /-- MOVK, R131: Replaces one 16-bit lane of a register with an immediate, keeping the other bits. -/
  | movk (d : BitVec 5) (l : BitVec 2) (im : BitVec 16)
  /-- CMP, R132: Sets a predicate from a signed or unsigned comparison of two registers. -/
  | cmp (p : BitVec 7) (a b : BitVec 5) (c : BitVec 3)
  /-- CMPI, R132: Sets a predicate from a comparison of a register with an 11-bit immediate. -/
  | cmpi (p : BitVec 7) (a : BitVec 5) (c : BitVec 3) (im : BitVec 11)
  /-- PAND, R133: Predicate AND. -/
  | pand (d a b : BitVec 7)
  /-- POR, R133: Predicate OR. -/
  | por (d a b : BitVec 7)
  /-- PXOR, R133: Predicate XOR. -/
  | pxor (d a b : BitVec 7)
  /-- PANDN, R133: Predicate P and not Q. -/
  | pandn (d a b : BitVec 7)
  /-- PORN, R133: Predicate P or not Q. -/
  | porn (d a b : BitVec 7)
  /-- PNAND, R133: Predicate NAND. -/
  | pnand (d a b : BitVec 7)
  /-- PNOR, R133: Predicate NOR. -/
  | pnor (d a b : BitVec 7)
  /-- PXNOR, R133: Predicate XNOR. -/
  | pxnor (d a b : BitVec 7)
  /-- PNOT, R133: Predicate NOT. -/
  | pnot (d a : BitVec 7)
  /-- PSET, R133: Sets a predicate to 1. -/
  | pset (d : BitVec 7)
  /-- PCLR, R133: Sets a predicate to 0. -/
  | pclr (d : BitVec 7)
  /-- SELP, R134: Selects one of two registers by a predicate. -/
  | selp (d a b : BitVec 5) (p : BitVec 7)
  /-- BR, R135: Branches by an 18-bit word displacement when pred xor neg is 1. -/
  | br (p : BitVec 7) (n : BitVec 1) (d : BitVec 18)
  /-- JMP, R136: Jumps by a 26-bit word displacement. -/
  | jmp (d : BitVec 26)
  /-- CALL, R136: Writes the link register and jumps by a 26-bit displacement. -/
  | call (d : BitVec 26)
  /-- JR, R136: Jumps to the address in a register, FLT_ALIGN if misaligned. -/
  | jr (a : BitVec 5)
  /-- RET, R136: Jumps to the stream's link register. -/
  | ret
  /-- CALLR, R136: Writes the link register and jumps to the address in a register. -/
  | callr (a : BitVec 5)
  /-- LOOP_A, R137: A-stream: decrements a counter register and branches while it is not zero, rotating nothing. -/
  | loopA (c : BitVec 5) (d : BitVec 18)
  /-- LOOP_E, R167: E-stream: decrements a counter, advances EBASE by rot and branches while the counter is not zero, indivisibly. -/
  | loopE (c : BitVec 5) (r : BitVec 2) (d : BitVec 18)
  /-- LD, R140: Weak load of 1-8 bytes, zero-extended, forwarded or delayed by pending stores. -/
  | ld (d b : BitVec 5) (z : BitVec 2) (o : BitVec 14)
  /-- LDA, R140: Load that acts as an acquire at its scope. -/
  | lda (d b : BitVec 5) (z : BitVec 2) (sx : BitVec 4) (o : BitVec 10)
  /-- ST, R141: Weak store of a register through the store-address queue, with imprecise faults. -/
  | st (d b : BitVec 5) (z : BitVec 2) (o : BitVec 14)
  /-- STR, R141: Store that acts as a release at its scope, with precise faults. -/
  | str (d b : BitVec 5) (z : BitVec 2) (sx : BitVec 4) (o : BitVec 10)
  /-- STA, R142: Store of an 8-byte sq entry, weak or as a release at scope. -/
  | sta (r : BitVec 1) (b : BitVec 5) (z : BitVec 2) (sx : BitVec 4) (o : BitVec 10)
  /-- STA_ROW, R142: Store of a 256-byte sq row entry, weak or as a release at scope. -/
  | staRow (r : BitVec 1) (b : BitVec 5) (sx : BitVec 4) (o : BitVec 10)
  /-- LDQ, R143: Loads 1-32 strided rows into an operand queue after checking every row, waiting for room. -/
  | ldq (q : BitVec 3) (c b sx : BitVec 5)
  /-- ATOM, R144: Atomic read-modify-write of 4 or 8 bytes returning the old value. -/
  | atom (d b v : BitVec 5) (o : BitVec 4) (z : BitVec 1) (sx : BitVec 4) (r : BitVec 2)
  /-- ATOMNR, R144: Atomic read-modify-write of 4 or 8 bytes returning nothing. -/
  | atomnr (b v : BitVec 5) (o : BitVec 4) (z : BitVec 1) (sx : BitVec 4) (r : BitVec 2)
  /-- CAS, R146: Compare-and-swap of 1-8 bytes, returning the old value. -/
  | cas (d b v : BitVec 5) (z : BitVec 2) (sx : BitVec 4) (r : BitVec 2)
  /-- FENCE, R147: Orders earlier and later accesses as FENCE.ar, .acq or .rel at scope. -/
  | fence (k sx : BitVec 4)
  /-- FENCE_ATOMICS, R147: Waits until every ATOMNR the thread issued has been applied. -/
  | fenceAtomics
  /-- PUSH, R148: Delivers 1-8 command words whole to an engine as a release at scope. -/
  | push (e f : BitVec 5) (n : BitVec 3) (sx : BitVec 4)
  /-- POPR, R149: Takes the oldest result element of the thread's slot and task into registers as an acquire. -/
  | popr (e f : BitVec 5) (n : BitVec 3) (sx : BitVec 4)
  /-- WAITID, R152: Waits until a chain channel's DONE passes an identifier and acquires those transfers. -/
  | waitid (e : BitVec 5) (h : BitVec 2) (a : BitVec 5)
  /-- SEMW, R151: Waits until a slot counter reaches a value, then acquires at scope. -/
  | semw (c a : BitVec 5) (sx : BitVec 4)
  /-- SEMP, R151: Posts an amount to a slot counter as a release at scope. -/
  | semp (c a : BitVec 5) (sx : BitVec 4)
  /-- SEND, R154: Sends 64 scratchpad bytes to another core's mailbox as a release, waiting for room. -/
  | send (d b : BitVec 5)
  /-- RECV, R155: Takes the oldest mailbox message into scratchpad and the sender into a register as an acquire. -/
  | recv (d b : BitVec 5)
  /-- RESIZE, R156: Moves the core's cache carve to 0-4 ways, writing back carve lines. -/
  | resize (w : BitVec 3)
  /-- MOVQ_ROW, R163: Removes the head row of an operand queue into a tile row with its sideband. -/
  | movqRow (q : BitVec 3) (w : BitVec 7)
  /-- MOVQ_SCALAR, R163: Removes the head row of an operand queue and keeps its bytes 0-7 in an E register. -/
  | movqScalar (q : BitVec 3) (d : BitVec 5)
  /-- PUTS_SCALAR, R164: Places an 8-byte E register entry in sq. -/
  | putsScalar (a : BitVec 5)
  /-- PUTS_ROW, R164: Places a tile row as a row entry in sq. -/
  | putsRow (w : BitVec 7)
  /-- BRQ, R165: Consumes the oldest bq entry and branches when it is 1. -/
  | brq (d : BitVec 18)
  /-- BRQN, R165: Consumes the oldest bq entry and branches when it is 0. -/
  | brqn (d : BitVec 18)
  /-- FQP, R166: Appends an E register to fq, waiting for room. -/
  | fqp (a : BitVec 5)
  /-- TRAP, R188: Raises a precise trap with a class-0 code equal to imm12. -/
  | trap (im : BitVec 12)
  /-- ERET, R188: Returns from a handler, restoring saved registers and reinstating or discarding set-aside stores. -/
  | eret
  /-- MFC, R169: Reads a control register after every tile result has landed, clearing RC fields. -/
  | mfc (d : BitVec 5) (c : BitVec 12)
  /-- MTC, R169: Writes a control register field by field; the row for writes to registers without a row of their own. -/
  | mtc (a : BitVec 5) (c : BitVec 12)
  /-- TIME, R171: Reads the global nanosecond time stamp. -/
  | time (d : BitVec 5)
  /-- WAKEWAIT, R177: Sleeps until a watched 8-byte word differs from the last value seen. -/
  | wakewait (a : BitVec 5)
  /-- BARRIER, R175: Releases, registers an arrival at the level's instance and waits for the episode to complete, then acquires. -/
  | barrier (sx : BitVec 4)
  /-- HALT, R178: Ends the thread: stops the A-stream, drains stores, leaves levels and retires the task. -/
  | halt
  /-- FADD, R196: Lane-wise float addition in FF. -/
  | fadd (t : BitVec 2) (d a b : BitVec 7)
  /-- FSUB, R196: Lane-wise float subtraction in FF. -/
  | fsub (t : BitVec 2) (d a b : BitVec 7)
  /-- FMUL, R196: Lane-wise float multiplication in FF. -/
  | fmul (t : BitVec 2) (d a b : BitVec 7)
  /-- FMA, R196: Lane-wise fused multiply-add with the old destination, one rounding. -/
  | fma (t : BitVec 2) (d a b : BitVec 7)
  /-- FMIN, R196: Lane-wise minimumNumber. -/
  | fmin (t : BitVec 2) (d a b : BitVec 7)
  /-- FMAX, R196: Lane-wise maximumNumber. -/
  | fmax (t : BitVec 2) (d a b : BitVec 7)
  /-- FDIV, R196: Lane-wise correctly rounded division. -/
  | fdiv (t : BitVec 2) (d a b : BitVec 7)
  /-- FEXP2, R197: Lane-wise 2^a in FP32. -/
  | fexp2 (t : BitVec 2) (d a : BitVec 7)
  /-- FLOG2, R197: Lane-wise log2 a in FP32. -/
  | flog2 (t : BitVec 2) (d a : BitVec 7)
  /-- FRCP, R197: Lane-wise reciprocal in FP32. -/
  | frcp (t : BitVec 2) (d a : BitVec 7)
  /-- FRSQ, R197: Lane-wise reciprocal square root in FP32. -/
  | frsq (t : BitVec 2) (d a : BitVec 7)
  /-- FSQRT, R197: Lane-wise square root in FP32. -/
  | fsqrt (t : BitVec 2) (d a : BitVec 7)
  /-- FABS, R197: Lane-wise absolute value. -/
  | fabs (t : BitVec 2) (d a : BitVec 7)
  /-- FNEG, R197: Lane-wise sign inversion. -/
  | fneg (t : BitVec 2) (d a : BitVec 7)
  /-- FCLASS, R197: Lane-wise float class code. -/
  | fclass (t : BitVec 2) (d a : BitVec 7)
  /-- FCVT, R199: Converts a row between formats under a descriptor, rounding code and saturation mode. -/
  | fcvt (r : BitVec 3) (t : BitVec 2) (d a : BitVec 7) (sx : BitVec 5) (m : BitVec 2)
  /-- IADD, R200: Lane-wise integer addition in IF, wrapping or saturating. -/
  | iadd (t : BitVec 2) (d a b : BitVec 7)
  /-- ISUB, R200: Lane-wise integer subtraction in IF. -/
  | isub (t : BitVec 2) (d a b : BitVec 7)
  /-- IMUL, R200: Lane-wise integer multiplication in IF. -/
  | imul (t : BitVec 2) (d a b : BitVec 7)
  /-- IMIN, R200: Lane-wise integer minimum. -/
  | imin (t : BitVec 2) (d a b : BitVec 7)
  /-- IMAX, R200: Lane-wise integer maximum. -/
  | imax (t : BitVec 2) (d a b : BitVec 7)
  /-- IAND, R200: Lane-wise bitwise AND. -/
  | iand (t : BitVec 2) (d a b : BitVec 7)
  /-- IOR, R200: Lane-wise bitwise OR. -/
  | ior (t : BitVec 2) (d a b : BitVec 7)
  /-- IXOR, R200: Lane-wise bitwise XOR. -/
  | ixor (t : BitVec 2) (d a b : BitVec 7)
  /-- ISHL, R201: Shifts IF lanes left by a scalar amount. -/
  | ishl (t : BitVec 2) (d a : BitVec 7) (sx : BitVec 5)
  /-- ISHR, R201: Shifts IF lanes logically right by a scalar amount. -/
  | ishr (t : BitVec 2) (d a : BitVec 7) (sx : BitVec 5)
  /-- ISAR, R201: Shifts IF lanes arithmetically right by a scalar amount. -/
  | isar (t : BitVec 2) (d a : BitVec 7) (sx : BitVec 5)
  /-- BCAST, R201: Broadcasts a scalar into every lane of a row. -/
  | bcast (t : BitVec 2) (d : BitVec 7) (sx : BitVec 5) (m : BitVec 2)
  /-- ROWSET, R201: Copies a row with one lane replaced by a scalar. -/
  | rowset (t : BitVec 2) (d a : BitVec 7) (sx : BitVec 5) (m : BitVec 2)
  /-- FCMPEQ, R202: Writes a mask row of float equality. -/
  | fcmpeq (t : BitVec 2) (d a b : BitVec 7)
  /-- FCMPLT, R202: Writes a mask row of float less-than. -/
  | fcmplt (t : BitVec 2) (d a b : BitVec 7)
  /-- FCMPLE, R202: Writes a mask row of float less-or-equal. -/
  | fcmple (t : BitVec 2) (d a b : BitVec 7)
  /-- FCMPUN, R202: Writes a mask row true where either lane is NaN. -/
  | fcmpun (t : BitVec 2) (d a b : BitVec 7)
  /-- ICMPEQ, R202: Writes a mask row of integer equality. -/
  | icmpeq (t : BitVec 2) (d a b : BitVec 7)
  /-- ICMPLT, R202: Writes a mask row of integer less-than. -/
  | icmplt (t : BitVec 2) (d a b : BitVec 7)
  /-- ICMPLTU, R202: Writes a mask row of unsigned less-than. -/
  | icmpltu (t : BitVec 2) (d a b : BitVec 7)
  /-- RSUM, R204: Pairwise-tree sum over a span of rows into a result row. -/
  | rsum (t : BitVec 2) (d a : BitVec 7)
  /-- RSUMSQ, R204: Pairwise-tree sum of squares over a span of rows. -/
  | rsumsq (t : BitVec 2) (d a : BitVec 7)
  /-- RMAX, R204: Maximum over a span of rows. -/
  | rmax (t : BitVec 2) (d a : BitVec 7)
  /-- RMIN, R204: Minimum over a span of rows. -/
  | rmin (t : BitVec 2) (d a : BitVec 7)
  /-- RARGMAX, R205: Maximum and its lowest index over a span of rows. -/
  | rargmax (t : BitVec 2) (d a : BitVec 7)
  /-- RARGMIN, R205: Minimum and its lowest index over a span of rows. -/
  | rargmin (t : BitVec 2) (d a : BitVec 7)
  /-- PERM, R203: Permutes IF lanes of A by indices in B. -/
  | perm (t : BitVec 2) (d a b : BitVec 7)
  /-- SEL, R203: Selects bytes from A or B by the destination's mask bits. -/
  | sel (t : BitVec 2) (d a b : BitVec 7)
  /-- LSHIFT, R203: Shifts lanes by a signed scalar count, filling with zero. -/
  | lshift (t : BitVec 2) (d a : BitVec 7) (sx : BitVec 5) (m : BitVec 2)
  /-- LROT, R203: Rotates lanes by a signed scalar count. -/
  | lrot (t : BitVec 2) (d a : BitVec 7) (sx : BitVec 5) (m : BitVec 2)
  /-- BFLY, R206: Writes A+B and A-B into an even row pair. -/
  | bfly (t : BitVec 2) (d a b : BitVec 7)
  /-- TWID, R207: Multiplies complex elements by generated twiddle factors. -/
  | twid (t : BitVec 2) (d a : BitVec 7) (sx : BitVec 5) (m : BitVec 2)
  /-- CMUL, R206: Complex multiplication of element pairs. -/
  | cmul (t : BitVec 2) (d a b : BitVec 7)
  /-- CONJ, R206: Complex conjugate by inverting odd lanes. -/
  | conj (t : BitVec 2) (d a : BitVec 7)
  /-- ROWGET, R208: Reads one slot, lane or sideband scale of a row into a scalar register. -/
  | rowget (t : BitVec 2) (a : BitVec 7) (sx : BitVec 5) (m : BitVec 2)
  /-- ROWPUT, R208: Copies a row with one sideband scale replaced. -/
  | rowput (t : BitVec 2) (d a : BitVec 7) (sx : BitVec 5)
  /-- ROWMOV, R208: Copies a row with its sideband. -/
  | rowmov (t : BitVec 2) (d a : BitVec 7)
  /-- ROWZERO, R208: Zeroes a row and its sideband. -/
  | rowzero (t : BitVec 2) (d : BitVec 7)
  /-- RNGROW, R209: Writes Philox 4x32-10 random bits to a row. -/
  | rngrow (t : BitVec 2) (d : BitVec 7) (sx : BitVec 5)
  /-- SORTK, R210: Stable sort of IF keys with carried indices into a row pair. -/
  | sortk (t : BitVec 2) (d a b : BitVec 7)
  /-- TMIRROR, R211: Mirrors a physical tile register into the bank two away. -/
  | tmirror (t : BitVec 2) (d : BitVec 3)
  /-- TROT, R212: Rotates the rows of a physical tile register by one. -/
  | trot (t : BitVec 2) (d : BitVec 3)
  /-- TILE_RESULT_LAND, R70: A tile instruction's result lands in the physical row chosen at issue, no later than its bound L. -/
  | tileResultLand (core slot idx : Nat)
  /-- STORE_PERFORM, R125: A store-address queue entry, with its data from a[d] or its paired sq entry, is performed to memory. -/
  | storePerform (core slot idx : Nat)
  /-- MAILBOX_DELIVER, R153: A sent message reaches the destination core's mailbox. -/
  | mailboxDeliver (idx : Nat)
  /-- WAKEWAIT_WAKE, R177: A changing write to the watched word wakes a sleeping WAKEWAIT. -/
  | wakewaitWake (core slot : Nat)
  /-- RESULT_ELEMENT_PLACE, R24: A held result enters a result queue once POPR makes room, completing its command. -/
  | resultElementPlace (eng src : Nat)
  /-- TRAP_ENTRY, R182: A pending fault or TRAP is taken: streams stop, state is saved, the record is written and the handler starts. -/
  | trapEntry (core slot : Nat)
  /-- INVCTL_WRITE, R98: An MTC to ctl.invctl releases and invalidates a range of the thread's context, waiting for completion. -/
  | invctlWrite (a : BitVec 5)
  /-- SLOT_COUNTER_WRITE, R150: An MTC sets a slot counter as a release at core scope. -/
  | slotCounterWrite (c a : BitVec 5)
  /-- DOMSET_WRITE, R174: An MTC to ctl.domset leaves or joins barrier instances, waiting on an open episode to join. -/
  | domsetWrite (a : BitVec 5)
  /-- TFMT_WRITE, R191: An MTC to ctl.tfmt sets formats and starts or ends register mirrors. -/
  | tfmtWrite (a : BitVec 5)
  /-- HOSTATOM_WRITE, R447: An MTC to ctl.hostatom sets MODE or clears FB. -/
  | hostatomWrite (a : BitVec 5)
  /-- CKICK, R216: Appends a chain kick to a channel's pending list, starting it when the channel is idle. -/
  | ckick (core eng : Nat)
  /-- CRESUME, R230: Restarts or skips the entry of a stopped chain channel. -/
  | cresume (core eng : Nat)
  /-- CABORT, R231: Stops a channel, discards kicks and held phases and sets DONE to ISSUED. -/
  | cabort (core eng : Nat)
  /-- COPY, R219: Chain entry copying LEN bytes to scratchpad, memory or an operand queue. -/
  | copy (core eng ch : Nat)
  /-- GATHER, R219: Chain entry copying indexed rows from a strided source. -/
  | gather (core eng ch : Nat)
  /-- SCATTER, R219: Chain entry copying rows to indexed strided destinations. -/
  | scatter (core eng ch : Nat)
  /-- COORD, R224: Chain entry walking a coordinate-generator program of up to 16 micro-orders. -/
  | coord (core eng ch : Nat)
  /-- HINGE, R226: Chain entry ending a phase: waits for its writes, then commits or reruns it. -/
  | hinge (core eng ch : Nat)
  /-- LINK, R220: Chain entry moving the read pointer to NEXT or ending the chain. -/
  | link (core eng ch : Nat)
  /-- CHAIN_ENTRY_COMPLETE, R221: An unhinged entry's data is performed, it completes and posts its counter. -/
  | chainEntryComplete (core eng ch : Nat)
  /-- REFILL_REQUEST, R228: A consumer of a poisoned buffer line asks the loader channel to rerun its held phase. -/
  | refillRequest (core line : Nat)
  /-- REFILL_DONE, R228: A refill run finishes and is reported done or failed to its consumer. -/
  | refillDone (core eng ch : Nat)
  /-- CHAIN_CMDBOUND, R229: An entry exceeds 65,536 clocks in MOVE and its channel stops with FLT_CMDBOUND. -/
  | chainCmdbound (core eng ch : Nat)
  /-- MLOADW, R242: Loads 128 weight rows into a stationary bank. -/
  | mloadw (core : Nat)
  /-- MSWAP, R243: Flips the active stationary bank in one clock. -/
  | mswap (core : Nat)
  /-- MMUL, R244: Streams A rows through the array adding products into an accumulator set. -/
  | mmul (core : Nat)
  /-- MDRAIN, R245: Runs the epilogue program over accumulator rows and writes them to scratchpad. -/
  | mdrain (core : Nat)
  /-- MKAT, R249: Runs a seeded known-answer product and checks its CRC-32C. -/
  | mkat (core : Nat)
  /-- MAT_COMPLETE, R239: A MAT command completes and posts in queue order. -/
  | matComplete (core idx : Nat)
  /-- MAT_REFILL_RESULT, R258: A refill for a poisoned MMUL or MLOADW ends: restart from row 0, or stop with FLT_UNCORR. -/
  | matRefillResult (core : Nat)
  /-- MAT_CMDBOUND, R261: A MAT command runs 65,536 clocks and stops with FLT_CMDBOUND. -/
  | matCmdbound (core : Nat)
  /-- MAT_FLUSH, R260: Discards every unstarted MAT command without posting. -/
  | matFlush (core : Nat)
  /-- MAT_SKIP, R260: Discards the stopped MAT command and continues. -/
  | matSkip (core : Nat)
  /-- MAT_RESUME, R260: Runs the stopped MAT command again whole. -/
  | matResume (core : Nat)
  /-- CCRC, R253: Computes the CRC-32C of a memory range, optionally comparing it. -/
  | ccrc (core : Nat)
  /-- CCMP, R254: Compares two ranges element by element within a ULP tolerance. -/
  | ccmp (core : Nat)
  /-- CSTAT, R255: Reports known-answer counts and suspect bits of the cluster. -/
  | cstat (core : Nat)
  /-- CHK_COMPLETE, R252: A CHK command completes, posts and places its element. -/
  | chkComplete (core : Nat)
  /-- CHK_CMDBOUND, R256: A CHK command holds the read path 65,536 clocks and stops with FLT_CMDBOUND. -/
  | chkCmdbound (core : Nat)
  /-- CHK_FLUSH, R256: Discards the core's unstarted CHK commands. -/
  | chkFlush (core : Nat)
  /-- CHK_SKIP, R256: Discards the core's stopped CHK command. -/
  | chkSkip (core : Nat)
  /-- CHK_RESUME, R256: Runs the core's stopped CHK command again. -/
  | chkResume (core : Nat)
  /-- PUBLISH, R291: Accepts a task record in PENDING after the checks of R266, copying its mask and evaluating it. -/
  | publish (core : Nat)
  /-- PUBLISH_CARRY, R266: A record for the other die arrives at its queue manager and is checked and accepted there. -/
  | publishCarry (die : Nat)
  /-- NEST, R292: Expands a TILE template into one task per tile of a rectangle. -/
  | nest (core : Nat)
  /-- GRID_CREATE, R293: Creates a grid, clearing its scoreboard and journal. -/
  | gridCreate (core : Nat)
  /-- GRID_DESTROY, R293: Cancels a grid's tasks and frees it. -/
  | gridDestroy (core : Nat)
  /-- GRID_RESET, R293: Clears a grid's scoreboard and journal. -/
  | gridReset (core : Nat)
  /-- LATTICE, R294: Defines a lattice slot from a 16-byte mask. -/
  | lattice (core : Nat)
  /-- FRAME_GO, R295: Clears HOLD so the frame counter runs. -/
  | frameGo (core : Nat)
  /-- FRAME_STOP, R295: Sets HOLD, stopping the frame counter. -/
  | frameStop (core : Nat)
  /-- FRAME_SETBASE, R295: Loads the frame counter, releasing or overrunning passed tasks. -/
  | frameSetbase (core : Nat)
  /-- CANCEL, R296: Ends matching tasks by tag or rectangle and reports those removed and stopped. -/
  | cancel (core : Nat)
  /-- STATUS, R297: Returns a scoreboard row, frame state, placement counters or grid information. -/
  | status (core : Nat)
  /-- QMG_SKIP, R289: Discards the stopped QMG command of the core's stream. -/
  | qmgSkip (core : Nat)
  /-- QMG_RESUME, R289: Checks the stopped QMG command again. -/
  | qmgResume (core : Nat)
  /-- FRAME_TICK, R276: The frame counter steps when global time passes a multiple of 128 ns. -/
  | frameTick (die : Nat)
  /-- TASK_OVERRUN, R277: The counter reaches RTICK + BUDGET of an unretired timed task: a SLIP entry is written and the counter stops. -/
  | taskOverrun (die : Nat)
  /-- TASK_PLACE, R279: A READY TILE task is handed to a core's local queue by the rotating cluster pointer. -/
  | taskPlace (die : Nat)
  /-- STEAL_ATTEMPT, R280: An idle core steps its state and asks a victim core every 64 clocks. -/
  | stealAttempt (core : Nat)
  /-- TILE_DISPATCH, R267: A local-queue head starts in the lowest free slot with preloaded registers, acquiring. -/
  | tileDispatch (core : Nat) (lost : Bool)
  /-- ENGINE_TASK_DISPATCH, R26: A READY non-TILE task takes a free dispatch entry and its command block is read. -/
  | engineTaskDispatch (die entry : Nat)
  /-- TASK_RETIRE, R273: A task retires: release, journal and scoreboard set, completion decrements, entry freed, grid re-evaluated. -/
  | taskRetire (die entry : Nat)
  /-- SCOREBOARD_REBUILD, R284: An uncorrectable scoreboard row is rebuilt from its journal, or the grid is killed. -/
  | scoreboardRebuild (die grid row : Nat) (lost : Bool)
  /-- PRIORITY_AGE, R282: Each 4 ms a ready untimed task spends raises its effective priority, up to 3. -/
  | priorityAge (die entry : Nat)
  /-- ASTEP, R311: Runs one attention layer for one head, appending new rows and walking the block table. -/
  | astep (core : Nat)
  /-- BTPOST, R317: Maps one block index of a sequence's own pane. -/
  | btpost (core : Nat)
  /-- BTFORK, R318: Creates a fork copying the parent's partial last block. -/
  | btfork (core : Nat)
  /-- BTCOMMIT, R319: Raises a sequence's committed length by 1-16 tokens. -/
  | btcommit (core : Nat)
  /-- BTTRIM, R320: Cuts a sequence back or releases it, listing freed blocks. -/
  | bttrim (core : Nat)
  /-- BTSTAT, R321: Returns the resolved entry and descriptor words for an index. -/
  | btstat (core : Nat)
  /-- ARRIVE_WAIT_END, R314: An ASTEP waiting in WAITARR sees its layer's arrival bit and proceeds. -/
  | arriveWaitEnd (core : Nat)
  /-- BUSY_WAIT_END, R313: A command waiting on a BUSY entry sees word 0 change and reads it afresh. -/
  | busyWaitEnd (core : Nat)
  /-- ATT_COMPLETE, R309: An ATT command completes, posts and places its element. -/
  | attComplete (core : Nat)
  /-- ATT_CMDBOUND, R324: An ATT command runs 65,536 clocks and stops with FLT_CMDBOUND. -/
  | attCmdbound (core : Nat)
  /-- ATT_FLUSH, R325: Discards the core's unstarted ATT commands. -/
  | attFlush (core : Nat)
  /-- ATT_SKIP, R325: Discards the core's stopped ATT command. -/
  | attSkip (core : Nat)
  /-- ATT_RESUME, R325: Runs the core's stopped ATT command again whole. -/
  | attResume (core : Nat)
  /-- SAMPLE, R328: Runs a stage chain over a logit row and commits or records the chosen token. -/
  | sample (die : Nat)
  /-- RING_WAIT_END, R338: A re-read of the consumed counter finds room in the ring and the commit proceeds. -/
  | ringWaitEnd (die : Nat)
  /-- SMP_COMPLETE, R339: A SAMPLE completes, posts and places or keeps its element. -/
  | smpComplete (die : Nat)
  /-- SMP_ELEMENT_PLACE, R339: A kept sampler element enters its core's result queue when room appears. -/
  | smpElementPlace (die idx : Nat)
  /-- SMP_CMDBOUND, R341: A SAMPLE runs 65,536 clocks and is discarded with FLT_CMDBOUND. -/
  | smpCmdbound (die : Nat)
  /-- TDESC, R353: Runs one descent by confidence bound, adding virtual loss and batching a new leaf. -/
  | tdesc (src : Nat)
  /-- BATCH_QUEUE_WAIT_END, R356: A TDESC waiting in WAITQ publishes its batch once queue entries free. -/
  | batchQueueWaitEnd (src : Nat)
  /-- TEXPAND, R358: Expands a leaf into a popped node group or marks it terminal. -/
  | texpand (src : Nat)
  /-- POOL_WAIT_END, R358: A TEXPAND waiting in WAITPOOL takes a reclaimed group. -/
  | poolWaitEnd (src : Nat)
  /-- TBACK, R359: Backs a value up from a leaf to the root, or undoes a descent. -/
  | tback (src : Nat)
  /-- TREUSE, R360: Drains descents and re-roots the tree at one root child. -/
  | treuse (src : Nat)
  /-- DRAIN_END, R360: INFL reaches 0 and a waiting TREUSE proceeds. -/
  | drainEnd (src : Nat)
  /-- TREE_RECLAIM, R360: A queued subtree group is pushed on the free stack in the background. -/
  | treeReclaim (die tid : Nat)
  /-- TCFG_INIT, R361: Makes a tree slot live, writing the root and free stack. -/
  | tcfgInit (src : Nat)
  /-- TCFG_SETP, R361: Applies new search parameters to later descents. -/
  | tcfgSetp (src : Nat)
  /-- TCFG_RELEASE, R361: Waits for descents and reclaim, then frees the slot. -/
  | tcfgRelease (src : Nat)
  /-- TSTAT, R362: Returns a node snapshot or the slot's engine state. -/
  | tstat (src : Nat)
  /-- TRE_COMPLETE, R351: A TRE command completes, posts and places its element. -/
  | treComplete (src : Nat)
  /-- TRE_CMDBOUND, R364: A TRE command exceeds its work bound by 65,536 clocks and faults. -/
  | treCmdbound (src : Nat)
  /-- TRE_FLUSH, R365: Discards the core's unstarted TRE commands. -/
  | treFlush (core : Nat)
  /-- TRE_SKIP, R365: Discards the core's stopped TRE command. -/
  | treSkip (core : Nat)
  /-- TRE_RESUME, R365: Runs the core's stopped TRE command again whole. -/
  | treResume (core : Nat)
  /-- SEARCH, R377: Binds to a seal and segment set and searches the index in rounds for the k nearest ids. -/
  | search (src : Nat)
  /-- SEARCH_ROUND_END, R377: Every hop of a round is DONE; keys update and the next frontier is formed. -/
  | searchRoundEnd (src : Nat)
  /-- HOP_ISSUE, R368: A hop at a channel queue head issues its page read, joining queued hops for the page. -/
  | hopIssue (ctl die : Nat)
  /-- HOP_READ_DONE, R369: A page read returns: distances computed and delivered, or retried, or FLT_READRETRY. -/
  | hopReadDone (ctl idx : Nat) (ok : Bool)
  /-- FETCHKV, R386: Copies passage blocks from the store into popped blocks and posts them to a sequence. -/
  | fetchkv (src : Nat)
  /-- IDXAPPEND, R381: Reserves log positions and writes append entries to the mirror. -/
  | idxappend (src : Nat)
  /-- IDXDELETE, R381: Reserves log positions and writes tombstones to the mirror. -/
  | idxdelete (src : Nat)
  /-- IDXSEAL, R382: Sets SEAL once every entry below the target has been written. -/
  | idxseal (src : Nat)
  /-- IDXMERGE, R383: Starts a background merge of the log below SEAL. -/
  | idxmerge (src : Nat)
  /-- MERGE_DONE, R383: A background merge switches to the new segment set or fails with MFAIL. -/
  | mergeDone (xid : Nat) (ok : Bool)
  /-- LOG_ENTRY_PROGRAM, R384: A mirror log entry is programmed to flash and FLUSHED rises. -/
  | logEntryProgram (xid : Nat)
  /-- WAITLOG_END, R381: A merge frees ring slots and a waiting append proceeds. -/
  | waitlogEnd (src : Nat)
  /-- WAITMERGE_END, R383: A running merge ends and a waiting IDXMERGE proceeds. -/
  | waitmergeEnd (src : Nat)
  /-- SCH_COMPLETE, R374: An SCH command completes, posts and places its element. -/
  | schComplete (src : Nat)
  /-- SCH_CMDBOUND, R390: An SCH command exceeds its work bound by 65,536 clocks and faults. -/
  | schCmdbound (src : Nat)
  /-- SCH_FLUSH, R391: Discards the core's unstarted SCH commands. -/
  | schFlush (core : Nat)
  /-- SCH_SKIP, R391: Discards the core's stopped SCH command. -/
  | schSkip (core : Nat)
  /-- SCH_RESUME, R391: Runs the core's stopped SCH command again whole. -/
  | schResume (core : Nat)
  /-- PORT_READ, R402: A line read reaches its port and returns entry bytes over array bytes, poisoned if uncorrectable. -/
  | portRead (port line err retries : Nat)
  /-- PORT_WRITE, R401: A write is applied to a write-queue entry in arrival order. -/
  | portWrite (port : Nat)
  /-- PORT_ATOMIC, R401: An atomic joins an entry's pending list, starting a fill when its word is invalid. -/
  | portAtomic (port : Nat)
  /-- FILL_RETURN, R401: A fill merges array bytes into an entry and its pending atomics are applied. -/
  | fillReturn (port line : Nat)
  /-- ENTRY_DRAIN, R403: An idle or wanted write-queue entry starts writing its line to the array. -/
  | entryDrain (port line : Nat)
  /-- DRAIN_DONE, R403: An entry's array write is performed and the entry is freed. -/
  | drainDone (port line : Nat)
  /-- BANK_ACTIVATE, R399: A bank serves its head request, activating its row and counting the activation. -/
  | bankActivate (port bank : Nat)
  /-- RFM_WINDOW_END, R410: A 210 ns refresh-management window ends and the bank's head proceeds. -/
  | rfmWindowEnd (port bank : Nat)
  /-- REFRESH, R399: Regular refresh takes a bank for up to 120 ns of every 3,900. -/
  | refresh (port bank : Nat)
  /-- COUNT_WINDOW_END, R408: A bank's 32 ms counting window ends and its tracking table is cleared. -/
  | countWindowEnd (port bank : Nat)
  /-- CHANNEL_RETIRE, R411: A channel passing 16 UE lines in a second, or failing retraining, is retired. -/
  | channelRetire (port : Nat)
  /-- PATROL_SCRUB, R492: The patrol reads each line daily and writes back corrected lines not since written. -/
  | patrolScrub (port line err : Nat)
  /-- FLIT_RECEIVE, R419: A receiver checks a flit's CRC and answers a bad flit with a negative acknowledgement. -/
  | flitReceive (lk : Nat) (bad : Bool)
  /-- FLIT_REPLAY, R419: A sender replays from the bad flit out of its replay buffer. -/
  | flitReplay (lk : Nat)
  /-- MODULE_RETRAIN, R419: A module replaying more than 64 times in 1 ms is retrained for up to 10 us. -/
  | moduleRetrain (lk : Nat)
  /-- LANE_FAIL, R420: A condemned die-link lane is spared or its module narrows or goes off, with a LANE entry. -/
  | laneFail (lk lane : Nat)
  /-- FABRIC_LANE_FAIL, R429: A failed fabric lane drops its port to 4 lanes or off. -/
  | fabricLaneFail (port lane : Nat)
  /-- ROUTE_FAIL, R432: A route makes no progress for 100 us; when all routes to a package fail it is declared unreachable. -/
  | routeFail (pkg port : Nat)
  /-- TIME_EXCHANGE, R433: Every 100 us time is exchanged with neighbours and the count slewed. -/
  | timeExchange (slew : Int)
  /-- REMOTE_REQUEST, R99: A remote access arrives, is translated and checked at the target and applied. -/
  | remoteRequest (ctx unit off kind op n v v2 : Nat)
  /-- REMOTE_RESPONSE, R430: A remote response or acknowledgement returns to the requester. -/
  | remoteResponse (core slot idx code : Nat)
  /-- DQPUT_DRAFT, R425: Puts a draft window on a die-queue pair, waiting for VW and room. -/
  | dqputDraft (src : Nat)
  /-- DQPUT_VERDICT, R425: Puts a verdict on a taken window, counting non-full verdicts. -/
  | dqputVerdict (src : Nat)
  /-- DQGET_DRAFT, R426: Takes the next non-stale draft at the east front. -/
  | dqgetDraft (src : Nat)
  /-- DQGET_VERDICT, R426: Takes the next verdict at the west front. -/
  | dqgetVerdict (src : Nat)
  /-- WAITDQ_END, R427: A die-queue entry or room arrives and a waiting DQPUT or DQGET proceeds. -/
  | waitdqEnd (src : Nat)
  /-- COLL, R436: Runs a collective over a group of packages. -/
  | coll (src : Nat)
  /-- COLL_COMPLETE, R437: Every member's source is read and the collective result is written. -/
  | collComplete (src : Nat)
  /-- WITHDRAW_NOTICE, R438: A killed member's notice ends the group's collectives with FLT_WITHDRAWN. -/
  | withdrawNotice (gid : Nat)
  /-- WAKEPOST, R439: Stores or adds to a word, or sends an MSI-X, as a release. -/
  | wakepost (src : Nat)
  /-- LNKSTAT, R448: Returns link, port, die-queue or group status. -/
  | lnkstat (src : Nat)
  /-- LNK_COMPLETE, R422: A LNK command completes, posts and places its element. -/
  | lnkComplete (src : Nat)
  /-- LNK_CMDBOUND, R451: A LNK command runs 65,536 clocks and faults. -/
  | lnkCmdbound (src : Nat)
  /-- LNK_FLUSH, R449: Discards the core's unstarted LNK commands. -/
  | lnkFlush (core : Nat)
  /-- LNK_SKIP, R449: Discards the core's stopped LNK command. -/
  | lnkSkip (core : Nat)
  /-- LNK_RESUME, R449: Runs the core's stopped LNK command again whole. -/
  | lnkResume (core : Nat)
  /-- XFERL, R440: Streams one layer of a block range to a decode package's sequence. -/
  | xferl (src : Nat)
  /-- XFR_ARRIVE_WAIT_END, R440: A source block's layer arrives and a waiting XFERL sends it. -/
  | xfrArriveWaitEnd (src : Nat)
  /-- ARRIVE_OR, R440: A block's rows are performed at the destination and its ARRIVE bit is ORed. -/
  | arriveOr (src : Nat)
  /-- XFR_COMPLETE, R440: Every OR is acknowledged and the XFERL completes. -/
  | xfrComplete (src : Nat)
  /-- XFR_CMDBOUND, R451: An XFR command runs 65,536 clocks and faults. -/
  | xfrCmdbound (src : Nat)
  /-- XFR_FLUSH, R449: Discards the core's unstarted XFR commands. -/
  | xfrFlush (core : Nat)
  /-- XFR_SKIP, R449: Discards the core's stopped XFR command. -/
  | xfrSkip (core : Nat)
  /-- XFR_RESUME, R449: Runs the core's stopped XFR command again whole. -/
  | xfrResume (core : Nat)
  /-- HOST_MEM_WRITE, R443: A host write through BAR2 is applied at the mapped port, or discarded or refused. -/
  | hostMemWrite (off : Nat) (bytes : List Byte)
  /-- HOST_MEM_READ, R443: A host read through BAR2 is performed and completed. -/
  | hostMemRead (off len : Nat)
  /-- HOST_ATOMICOP, R443: A host AtomicOp is applied at the port as acquire-release at system scope. -/
  | hostAtomicop (off op n v v2 : Nat)
  /-- HOST_READ_COMPLETION, R444: A completion returns for a device read of a host page. -/
  | hostReadCompletion (core slot : Nat)
  /-- HOST_ATOMIC_COMPLETION, R445: A FetchAdd completion returns the old value, or traps or falls back by MODE. -/
  | hostAtomicCompletion (who status : Nat)
  /-- HOST_ATOMIC_TIMEOUT, R445: No completion within 50 ms: FLT_HOST_CA or fallback by MODE. -/
  | hostAtomicTimeout (who : Nat) (applied : Bool)
  /-- FALLBACK_READ_DONE, R446: The fallback's read completes and its write of old + v is sent. -/
  | fallbackReadDone (who status : Nat)
  /-- CTXSWAP, R463: Moves a core's state to an image and resumes another image on it. -/
  | ctxswap (core : Nat)
  /-- CTXSPILL, R464: Takes a checkpoint image of a core without changing its owner. -/
  | ctxspill (core : Nat)
  /-- SHADOW_FILL_DONE, R465: The incoming thread section is loaded into the shadow bank. -/
  | shadowFillDone (core : Nat)
  /-- SLOTS_STOPPED, R465: Every slot stands at a boundary and the banks start to exchange or copy. -/
  | slotsStopped (core : Nat)
  /-- BANK_EXCHANGE_DONE, R481: After exactly 96 clocks the incoming or resumed threads issue under R461. -/
  | bankExchangeDone (core : Nat)
  /-- CORE_DRAIN_DONE, R465: MAT and the channels stand at boundaries and the carve is written back. -/
  | coreDrainDone (core : Nat)
  /-- IMAGE_SAVE_DONE, R465: The outgoing sections and the header are performed in the image. -/
  | imageSaveDone (core : Nat)
  /-- IMAGE_RESTORE_DONE, R465: Core state and park entries are applied, ownership set and R461 lifted. -/
  | imageRestoreDone (core : Nat)
  /-- PARK_ENTRY, R460: A shared engine hands a swapped-out thread's post or element to CTX for the park area. -/
  | parkEntry (core : Nat)
  /-- MUSTSAVE_ADD, R467: Admits a must-save extent after quota and overlap checks. -/
  | mustsaveAdd (core : Nat)
  /-- MUSTSAVE_REMOVE, R467: Removes an admitted extent by handle. -/
  | mustsaveRemove (core : Nat)
  /-- MUSTSAVE_CLEAR, R467: Removes every extent of the pusher's context. -/
  | mustsaveClear (core : Nat)
  /-- SHUTSTAT_STATUS, R468: Returns hold-up state, admitted bytes and the report's epoch. -/
  | shutstatStatus (core : Nat)
  /-- SHUTSTAT_LOAD, R468: Copies a restart report entry's bytes from the shutter store to memory. -/
  | shutstatLoad (core bad : Nat)
  /-- CTX_COMPLETE, R462: A CTX command completes, posts and places its element. -/
  | ctxComplete (core : Nat)
  /-- CTX_CMDBOUND, R480: A CTX command runs 65,536 clocks of work and faults. -/
  | ctxCmdbound (core : Nat)
  /-- CTX_FLUSH, R479: Discards the core's unstarted CTX commands. -/
  | ctxFlush (core : Nat)
  /-- CTX_SKIP, R479: Discards the core's stopped CTX command. -/
  | ctxSkip (core : Nat)
  /-- CTX_RESUME, R479: Runs the core's stopped CTX command again whole. -/
  | ctxResume (core : Nat)
  /-- SHUTTER_TRAP, R471: The input falls below 44 V: issue stops, engines drain, image extents are written. -/
  | shutterTrap
  /-- SHUTTER_SWITCH_IN, R471: Islands 0-31 and 35 power down, the bank is switched in and the store writes begin. -/
  | shutterSwitchIn (cap vb : Nat)
  /-- BANK_WATCH_CUT, R472: The bank reaches the reserve voltage and data writing stops at once. -/
  | bankWatchCut (bytes : Nat)
  /-- PAGE_PROGRAM_FAIL, R473: A failed store page is rewritten or its record abandoned. -/
  | pageProgramFail (idx : Nat)
  /-- SHUTTER_POWER_DOWN, R471: The directory and last pages are programmed and the package powers down. -/
  | shutterPowerDown (vend : Nat)
  /-- BOOT, R482: Power-on or cold restart: firmware check, masks, training, report, bases, RUNNING. -/
  | boot (half : Nat) (bases thrs fused train unread : List Nat)
  /-- CTXOPEN, R486: Writes a live context descriptor. -/
  | ctxopen
  /-- CTXCLOSE, R486: Cancels a context's tasks, withdraws its groups and removes its extents. -/
  | ctxclose
  /-- INVAL, R97: Invalidates translations of one or every context over a range. -/
  | inval
  /-- ACCSET, R488: Sets an access-table entry of a target. -/
  | accset
  /-- MAPBAR, R442: Maps a BAR2 page to a device page as none, read-only or read-write. -/
  | mapbar
  /-- OBJOPEN, R370: Loads a retrieval object and sets it live. -/
  | objopen
  /-- OBJCLOSE, R486: Waits for the object's commands and clears LIVE. -/
  | objclose
  /-- DQOPEN, R424: Opens a die-queue pair for a context. -/
  | dqopen
  /-- DQCLOSE, R486: Ends waiting commands, discards entries and closes a pair. -/
  | dqclose
  /-- OWNSET, R456: Sets a core's owning context. -/
  | ownset
  /-- RETIRE, R411: Retires a memory channel on request. -/
  | retire
  /-- CLRSUSPECT, R492: Runs 16 known-answer tiles and clears SUSPECT if all pass. -/
  | clrsuspect (fails : BitVec 16)
  /-- ISLAND, R489: Sets an island's operating point. -/
  | island
  /-- SETMASK, R493: Writes the unit mask record for the next boot. -/
  | setmask
  /-- QUOTE, R494: Writes a signed attestation quote. -/
  | quote
  /-- LOADFW, R484: Checks and stores a firmware image, applied at the next boot. -/
  | loadfw
  /-- GRPOPEN, R434: Opens a collective group with next SEQ 0. -/
  | grpopen
  /-- GRPCLOSE, R486: Ends a group's collective in progress with FLT_WITHDRAWN and closes it. -/
  | grpclose
  /-- ISLAND_THERMAL, R489: An island at 105 C moves to economy; at 115 C the package enters STOPPED. -/
  | islandThermal (isl temp : Nat)
  /-- POWER_LIMIT, R31: The supervisor moves cluster islands to economy to hold 2,600 W over 10 ms. -/
  | powerLimit (isl : Nat)
  /-- HEALTH_UPDATE, R491: The supervisor updates health page entries at least hourly. -/
  | healthUpdate (entry wear days cap vb : Nat)
  /-- DOMAIN_BRING_UP, R17: The domain's management software brings up the fabric: it assigns the package number, sets INDOM, loads the route table, hands over the domain's time and makes unreachable packages reachable again. -/
  | domainBringUp (pkg now : Nat) (routes : List Nat)
  /-- MODULE_PAUSE_END, R419: A die-link or fabric module's retraining or lane-repair pause ends, and its waiting messages resume over the width that remains. -/
  | modulePauseEnd (lk : Nat)
  deriving DecidableEq, Repr

end Sys2Proof
end

