-- ==== Sys2Proof/Machine/State.lean ====
section
/-! DEFINITION. The state of the package as plain data: threads, cores, memories, engines, ports, links, the supervisor, and
the model's own schedule. INVENTORY.md lists every field with the rule that names it and its reset value. -/

namespace Sys2Proof.Machine

/-- A sparse table: a value for each number, `d` (its users' default) for a number it does not list. -/
abbrev Tab (α : Type) := List (Nat × α)

/-- A byte memory: (address, byte) with addresses strictly rising and no byte 0; an unlisted address reads 0 (log 3). -/
abbrev Mem := List Host.Cell

/-- One turn of a schedule: who acts (log 1). -/
inductive Act where
  /-- A port of a thread slot issues (06 R161). -/
  | issue (core slot : Nat) (st : Stream)
  /-- A step without a word: an engine's, a hardware agent's or the outside world's. -/
  | event (i : Instr)
  /-- The host writes a byte of its own memory. -/
  | hostPoke (addr : Nat) (b : Byte)
  /-- Another package's byte changes, at package × 2^51 + offset. -/
  | remotePoke (addr : Nat) (b : Byte)
  /-- What another package gives a collective. -/
  | peer (gid pkg : Nat) (seq : BitVec 32) (op root : Nat) (bytes : List Byte)
  /-- Another package's members and arrivals at a context's domain barrier (06 R173). -/
  | domainPeer (ctx pkg members arrivals : Nat)
  /-- A read of a queue manager's entry finds it uncorrectable (10 R283). -/
  | entryLost (die entry : Nat)
  /-- A core's MDRAIN will find the accumulator or stationary state of an output row uncorrectable (09 R258). -/
  | stateLost (core row : Nat)
  /-- The host writes sv.reqbase (reg 0) or sv.reqtail (reg 1) in BAR0 (18 R485). -/
  | barPoke (reg : Nat) (v : W64)
  /-- The host reads 8 bytes of BAR0 (18 R485). -/
  | barRead (off : Nat)
  /-- The host resets the package (18 R485). -/
  | hostReset
  deriving DecidableEq, Repr, Inhabited

/-- A turn: the nanoseconds that pass before it and who acts. -/
structure Turn where
  dt : Nat
  act : Act
  deriving DecidableEq, Repr, Inhabited

/-- The stream whose word is being executed. -/
structure Cur where
  core : Nat := 0
  slot : Nat := 0
  st : Stream := .a
  deriving DecidableEq, Repr

/-- A tile row with its sideband (07 R190). -/
structure Row where
  data : RowData := 0
  sb : Sideband := 0
  deriving DecidableEq, Repr

/-- A row of an operand queue, with the uncorrectable mark of 08 R214. -/
structure QRow where
  row : Row := {}
  bad : Bool := false
  deriving DecidableEq, Repr

/-- An sq entry: its kind (row or 8-byte value) and its value (05 R120). -/
structure SqEnt where
  isRow : Bool
  val : RowData
  deriving DecidableEq, Repr

/-- The queues between the streams (05 R120). -/
structure QSet where
  q : Vector (List QRow) 8 := Vector.replicate 8 []
  sq : List SqEnt := []
  bq : List Bool := []
  fq : List W64 := []
  deriving DecidableEq, Repr

/-- An access size: 1, 2, 4, 8 or 256 bytes as a power of two exponent 0-3 or 8. -/
inductive Size where
  | b1 | b2 | b4 | b8 | row
  deriving DecidableEq, Repr

def Size.bytes : Size → Nat
  | .b1 => 1 | .b2 => 2 | .b4 => 4 | .b8 => 8 | .row => 256

/-- A command on its way to an engine or in its queue (03 R75, 05 R148, 06 R179). -/
structure Cmd where
  words : List W64
  core : Nat
  slot : Nat
  disp : Nat
  hand : Bool
  /-- The count of its thread's traps when it was pushed: which handler, if a handler, pushed it (06 R181). -/
  trap : Nat := 0
  ctx : Nat
  scope : Nat
  /-- Set for a command of a dispatched task: the die and number of its queue entry (10 R275). -/
  task : Option (Nat × Nat) := none
  /-- The command's index in its stream, as its engine's chapter counts it. -/
  index : Nat := 0
  deriving DecidableEq, Repr

/-- Where an address leads (04 R85, R89, R91): the core's scratchpad, device memory with its cacheability, host memory, or
another package's memory at package × 2^51 + offset. -/
inductive Loc where
  | spad (key : Nat)
  | dev (pa ca : Nat)
  | host (pa : Nat)
  | remote (key : Nat)
  deriving DecidableEq, Repr

/-- A store in the store-address queue (05 R125). -/
structure StoreEnt where
  ea : W64
  size : Size
  /-- Its data once known, and whether it takes them from sq. -/
  data : Option Nat
  fromSq : Bool := false
  /-- Its scope if it is a release. -/
  rel : Option Nat := none
  /-- The address of its group. -/
  pc : W64
  /-- Its paired entry had the other kind. -/
  bad : Bool := false
  /-- Its remote request has been sent. -/
  sent : Bool := false
  /-- The places of a strong store, translated and checked at issue (04 R100). -/
  locs : Option (List (Loc × Nat)) := none
  deriving DecidableEq, Repr

/-- An operation in program order in the store-address queue: a store, or an ordering operation that stores stand before
(05 R125, R147, R148, R151, R154). -/
inductive SaOp where
  | store (e : StoreEnt)
  /-- A FENCE that orders later stores, and later loads too when `ar`, at its scope; its group. -/
  | fence (ar : Bool) (scope : Nat) (pc : W64)
  /-- A slot-counter post (SEMP) at its scope; its group. -/
  | post (c : Nat) (amount : BitVec 32) (scope : Nat) (pc : W64)
  /-- A command held until the stores it covers are performed; its place in issue order and its group. -/
  | push (eng : Nat) (cmd : Cmd) (seq : Nat) (pc : W64)
  /-- A message leaving for a core's mailbox; its place in issue order and its group. -/
  | mail (dst : Nat) (msg : RowData) (seq : Nat) (pc : W64)
  deriving DecidableEq, Repr

/-- A tile result in flight (03 R70): its physical row, its value, the clock by which it has landed. -/
structure Flight where
  row : Nat
  val : Row
  due : Nat
  deriving DecidableEq, Repr

/-- A REP in progress: its count minus one and steps (03 R72). -/
structure RepPx where
  count : Nat
  sd : Int
  sa : Int
  sb : Int
  deriving DecidableEq, Repr

/-- The group in progress of a stream: bytes of prefixes issued, and the REP seen (03 R60). -/
structure Grp where
  off : Nat := 0
  rep : Option RepPx := none
  deriving DecidableEq, Repr

/-- A held imprecise fault (06 R180, R181). -/
structure Pend where
  weak : Bool
  code : BitVec 16
  eng : Nat := 0xFFFF
  index : Nat := 0
  status : W64 := 0
  addr : W64 := 0
  pc : Option W64 := none
  /-- Of a command that the running handler pushed: it fails the thread (06 R181) once its record can be written (17 R461). -/
  hand : Bool := false
  deriving DecidableEq, Repr

/-- A barrier arrival held by a thread: level, episode, and how often its instance had lost its arrivals by then (06 R176). -/
structure Arrival where
  level : Nat
  episode : Nat
  losses : Nat := 0
  deriving DecidableEq, Repr

/-- An A-stream access outside the package in progress: its address, and its answer once it is back (16 R430, R444-R446). -/
structure OutReq where
  /-- 0 host read, 1 host atomic, 2 the fallback's read, 3 remote read, 4 remote atomic, 5 the check of a strong store at its
  target, 6 the fallback's write. -/
  kind : Nat
  addr : Nat
  /-- The virtual address that named it. -/
  ea : W64 := 0
  size : Nat
  /-- The operation's operand or operands (an atomic), for the answer to apply. -/
  op : Nat := 0
  val : Nat := 0
  val2 : Nat := 0
  reply : Option (Code × Nat) := none
  deriving DecidableEq, Repr

/-- A queue entry of a queue manager (10 R264, R298). -/
structure Task where
  words : List W64
  ctx : Nat
  /-- The offsets of its lattice mask (10 R270). -/
  mask : List (Int × Int)
  /-- 0 PENDING, 1 WAITTICK, 2 READY, 3 LOCAL, 4 RUNNING. -/
  state : Nat := 0
  /-- Acceptance order. -/
  seq : Nat := 0
  readyAt : Nat := 0
  /-- The time it had been ready when it last entered a local queue (10 R282). -/
  readyFor : Nat := 0
  /-- Steps of effective priority gained by age (10 R282). -/
  age : Nat := 0
  /-- The core of a LOCAL or RUNNING TILE task, and the slot of a RUNNING one. -/
  core : Nat := 0
  slot : Nat := 0
  overrun : Bool := false
  /-- CANCEL or a kill has ended it; it waits for what runs to stop (10 R296). -/
  cancelled : Bool := false
  /-- A dispatched command has ended: 0 complete, or its fault. -/
  ended : Option Code := none
  deriving DecidableEq, Repr

/-- One thread slot's context: both streams, their control registers, queues and traps (05 R119-R121, 06 R158, R159). -/
structure Thread where
  live : Bool := false
  /-- The placement phase of its task (10 R264, R281). -/
  phase : Nat := 0
  /-- A HALT is waiting: the A-stream issues nothing more (05 R123). -/
  halting : Bool := false
  /-- HALT has ended the thread; it waits to retire (06 R178). -/
  halted : Bool := false
  /-- CANCEL has stopped it; it waits for its stores (10 R296). -/
  cancelled : Bool := false
  /-- The thread has failed with this code; it waits to retire (06 R189). -/
  failed : Option Code := none
  ctx : Nat := 0
  /-- The task it runs: the die and number of its queue entry. -/
  task : Nat × Nat := (0, 0)
  /-- Its task record, which travels in an image (17 R457). -/
  record : Option Task := none
  disp : Nat := 0
  a : Vector W64 32 := Vector.replicate 32 0
  e : Vector W64 32 := Vector.replicate 32 0
  p : BitVec 128 := 0
  apc : W64 := 0
  epc : W64 := 0
  agrp : Grp := {}
  egrp : Grp := {}
  x : Vector Row 128 := Vector.replicate 128 {}
  flights : List Flight := []
  /-- The earliest clock, counted from dispatch, of the next E issue (log 5). -/
  eclk : Nat := 0
  /-- E-stream registers with a result on its way (05 R127, 07 R195): the register, the earliest clock of a reader, and whether
  a tile word that reads it waits too. -/
  eready : List (Nat × Nat × Bool) := []
  /-- The clock of the TMIRROR of a physical register whose copy may not be read yet (07 R211). -/
  mirrorAt : Tab Nat := []
  fpmode : W64 := 0
  repidx : W64 := 0
  rotbase : W64 := 0
  tfmt : W64 := 0x60
  async : Bool := false
  inh : Bool := false
  /-- Traps taken since dispatch: which handler runs (06 R181). -/
  traps : Nat := 0
  cstream : BitVec 2 := 0
  code : Code := 0
  /-- Member bits of ctl.domset, bit s for the level of scope code s; bit 0 always 1 (06 R172). -/
  domset : BitVec 10 := 1
  tveca : W64 := 0
  tvece : W64 := 0
  traprec : W64 := 0
  epca : W64 := 0
  epce : W64 := 0
  tsavea : W64 := 0
  tsavee : W64 := 0
  tpredlo : W64 := 0
  tpredhi : W64 := 0
  tstate : W64 := 0
  mpsel : W64 := 0
  invva : W64 := 0
  queues : QSet := {}
  /-- The interrupted code's queues while a handler runs (06 R183). -/
  frozen : QSet := {}
  saq : List SaOp := []
  setAside : List SaOp := []
  /-- PUTS entries whose STA a handler discarded (06 R186 DISC). -/
  sqSkip : Nat := 0
  /-- The first row of the current LDQ not yet appended (05 R143). -/
  ldqRow : Nat := 0
  /-- That of the interrupted code while a handler runs. -/
  frozenLdq : Nat := 0
  /-- The current LDQ's rows from that one on, each its address and its places: every row is translated and checked before any is
  delivered (R143). -/
  ldqAt : List (W64 × List (Loc × Nat)) := []
  /-- ATOMNRs issued and not yet applied (05 R147). -/
  atomsOut : Nat := 0
  /-- FLT_UNCORR of an ATOMNR, held with its address (15 R404); that of one the running handler issued apart (06 R181). -/
  heldUncorr : Option W64 := none
  handUncorr : Option W64 := none
  out : Option OutReq := none
  arrival : Option Arrival := none
  /-- Asleep in WAKEWAIT: the address and the value last seen (06 R177). -/
  asleep : Option (W64 × W64) := none
  /-- Operations of the store-address queue still covered by the E-stream's release in progress (06 R162). -/
  ecut : Option Nat := none
  pends : List Pend := []
  /-- The time stamp TIME last returned (06 R171). -/
  lastTime : W64 := 0
  deriving DecidableEq, Repr

/-- A result element (01 R24, 06 R179, 06 R183). -/
structure Elem where
  words : List W64
  slot : Nat
  disp : Nat
  hand : Bool
  deriving DecidableEq, Repr

/-- A message with its sender and receiver (05 R153). -/
structure Mail where
  src : Nat
  dst : Nat
  msg : RowData
  deriving DecidableEq, Repr

/-- A barrier instance: this package's counts, episode and phase, and at domain level the members and arrivals of other
packages, by package (06 R173). -/
structure BarInst where
  members : Nat := 0
  arrivals : Nat := 0
  far : Tab (Nat × Nat) := []
  episode : Nat := 0
  phase : Bool := false
  /-- The episodes whose arrivals a package's unreachability has cleared, in order (06 R176). -/
  lost : List Nat := []
  deriving DecidableEq, Repr

/-- A translation-cache entry (04 R96): context, offset of its page, level of its leaf, the leaf. -/
structure TlbEntry where
  ctx : Nat
  page : Nat
  lvl : Nat
  leaf : W64
  deriving DecidableEq, Repr

/-- An engine's stream of commands from one core, or from a die's dispatched tasks (01 R22, R26; the engines' chapters). -/
structure EStream where
  queue : List Cmd := []
  /-- The command that has started, or the stopped one. -/
  run : Option Cmd := none
  /-- The running command waits, in the state its chapter numbers so; 0 none. -/
  wait : Nat := 0
  stopped : Bool := false
  code : Code := 0
  /-- Commands delivered (the TAKEN counts of the status registers). -/
  taken : BitVec 32 := 0
  /-- The element the running command has made and not yet placed (01 R24). -/
  held : Option Elem := none
  /-- The running command has done its work and waits to complete. -/
  done : Bool := false
  /-- How far a command of several steps has come, and what it carries from step to step. -/
  prog : Nat := 0
  data : List W64 := []
  /-- The island's clock, in tenths, when the running command started, moved on by the clocks of its waits, and when its wait began
  (the FLT_CMDBOUND bounds). -/
  since : Nat := 0
  paused : Nat := 0
  deriving DecidableEq, Repr

/-- A log in device memory: its base (0: not set up) and the index of its next entry (10 R286, 15 R413, 16 R450). -/
structure LogPtr where
  base : Nat := 0
  head : Nat := 0
  deriving DecidableEq, Repr

/-- A grid (10 R268, R272): its owner, size, journal address and scoreboard rows. -/
structure QGrid where
  ctx : Nat
  w : Nat
  h : Nat
  journal : W64
  dead : Bool := false
  rows : Tab Nat := []
  deriving DecidableEq, Repr

/-- A record on its way to a queue manager of the other die (10 R266): the pushing core, its context, the record. -/
structure Carry where
  core : Nat
  ctx : Nat
  words : List W64
  /-- It has been checked and waits for a free entry. -/
  full : Bool := false
  deriving DecidableEq, Repr

/-- A die's queue manager (10). -/
structure Qmg where
  tasks : Tab Task := []
  grids : Tab QGrid := []
  /-- Lattice masks by context × 256 + slot. -/
  lattice : Tab (List (Int × Int)) := []
  frame : W64 := 0
  hold : Bool := true
  /-- The multiple of 128 ns the counter has last seen. -/
  tick : Nat := 0
  slips : Nat := 0
  /-- Log entries written since ctl.qstat was last read. -/
  since : Nat := 0
  log : LogPtr := {}
  qback : Nat := 0
  qnode : Nat := 0
  seq : Nat := 0
  rot : Nat := 0
  carry : List Carry := []
  /-- The placement table (10 R281), by cluster of the die × 16 + phase: BUSY and IDLE in tenths of a clock, kept up to the time
  of `placeAt`, by cluster; and the phase of the task most recently dispatched on a cluster. -/
  place : Tab (Nat × Nat) := []
  placeAt : Tab Nat := []
  lastPhase : Tab Nat := []
  deriving DecidableEq, Repr

/-- An engine's fault held for a thread that lies in an image: whether a handler pushed the command, and which (06 R181). -/
structure OutFault where
  hand : Bool
  trap : Nat
  pend : Pend
  deriving DecidableEq, Repr

/-- A thread that lies in an image (17 R460): its place when it left, and the image's address in the context that named it. -/
structure OutThread where
  core : Nat
  slot : Nat
  disp : Nat
  ctx : Nat
  image : W64
  task : Nat × Nat := (0, 0)
  /-- CANCEL has ended its task (10 R296). -/
  dead : Bool := false
  /-- Engine faults that wait for its return, oldest first (06 R180). -/
  faults : List OutFault := []
  /-- The entries appended for it to its image's park area (17 R460), and which of the area's are elements of a handler's commands (06
  R183), which an entry's bytes do not say. -/
  parked : Nat := 0
  hands : List Nat := []
  deriving DecidableEq, Repr

/-- A post or an element of a swapped-out thread on its way to its image's park area (17 R460). -/
structure Park where
  core : Nat
  slot : Nat
  disp : Nat
  /-- An element of a command that a trap handler pushed (06 R183). -/
  hand : Bool
  isElem : Bool
  /-- Counter or engine id. -/
  arg : Nat
  words : List W64
  deriving DecidableEq, Repr

/-- A committed phase a loader channel holds (08 R226, R228): its chain's kick, first entry and number, index, buffer, and
the runs it has had. -/
structure HeldPhase where
  kick : Cmd
  first : W64
  index : BitVec 32
  base : Nat
  len : Nat
  runs : Nat
  deriving DecidableEq, Repr

/-- A refill in progress (08 R228): the phase's index, the line asked for, whether MAT asked, the pointer of the run and
its entry while it moves, and its outcome once the run is done. -/
structure Refill where
  index : BitVec 32
  line : Nat
  forMat : Bool
  kick : Cmd
  ptr : W64
  entry : List W64 := []
  outcome : Option Bool := none
  deriving DecidableEq, Repr

/-- A chain channel (08 R216-R233). -/
structure Chan where
  pend : List Cmd := []
  kick : Option Cmd := none
  /-- 0 IDLE, 1 FETCH, 2 WAIT, 3 MOVE, 5 STOPPED; a refill in progress reads as 4 (R233). -/
  state : Nat := 0
  ptr : W64 := 0
  /-- The current entry's number, and the first number whose entry has not been passed once (R227). -/
  num : Nat := 0
  high : Nat := 0
  code : Code := 0
  issued : BitVec 32 := 0
  done : BitVec 32 := 0
  phase : BitVec 32 := 0
  rcnt : Nat := 0
  /-- Extra runs of the current phase. -/
  runs : Nat := 0
  /-- The current entry's words once it is fetched; its wait, identifier, data and queue rows so far. -/
  entry : List W64 := []
  waited : Bool := false
  named : Bool := false
  moved : Bool := false
  given : Nat := 0
  /-- Stopped at fetch: the bytes SKIP passes (R230). -/
  badLen : Option Nat := none
  /-- Stopped at a phase's end after its third run (R227). -/
  third : Bool := false
  /-- Entries fetched ahead, with their addresses (R223). -/
  ahead : List (W64 × List W64) := []
  /-- The current phase: first entry and number, transfers, posts to make at its commit, poison. -/
  first : W64 := 0
  firstNum : Nat := 0
  transfers : Nat := 0
  posts : List (Nat × BitVec 32) := []
  poisoned : Bool := false
  held : List HeldPhase := []
  refill : Option Refill := none
  /-- The time the current entry's clocks count from, and since when it waits for room in a queue, which does not count (R229). -/
  since : Nat := 0
  stall : Option Nat := none
  /-- A storer's entry that waits for the refill of a scratchpad line, and its failure. -/
  asks : Option Nat := none
  askFailed : Bool := false
  /-- The element of a chain kicked with NOTE that waits for room; the chain has not ended (01 R24). -/
  note : Option Elem := none
  deriving DecidableEq, Repr

/-- A stationary bank of MAT (09 R242): its completed load's format and its rows, as element codes and block scales. -/
structure MatBank where
  valid : Bool := false
  fmt : Nat := 0
  rows : List (List Nat × List (BitVec 20)) := []
  deriving DecidableEq, Repr, Inhabited

/-- A started MAT command (09 R238): what of it is done: 0 running, 1 its last row taken and its effects made, 2 completed
and waiting to post, 3 waiting for a refill, 4 stopped by a fault (R261). -/
structure MatRun where
  cmd : Cmd
  stage : Nat := 0
  /-- The stationary bank its rows are tagged with (R243). -/
  bank : Nat := 0
  /-- The poisoned scratchpad line it asked for, and the answer. -/
  asks : Option Nat := none
  answer : Option Bool := none
  /-- The time its clocks count from, and the time it asked, from which they do not (R261). -/
  since : Nat := 0
  paused : Nat := 0
  deriving DecidableEq, Repr

/-- A pool as its descriptor gives it (11 R301). -/
structure Pool where
  addr : W64
  kbase : W64
  vbase : W64
  d : Nat
  heads : Nat
  layers : Nat
  kfmt : Nat
  vfmt : Nat
  nblk : Nat
  free : W64
  fcap : Nat
  deriving DecidableEq, Repr, Inhabited

/-- A sequence as its descriptor gives it (11 R304). -/
structure SeqDesc where
  addr : W64
  len : Nat
  depth : Nat
  parent : W64
  children : Nat
  forklen : Nat
  tbl : W64
  tcap : Nat
  pool : W64
  words : List W64
  deriving DecidableEq, Repr, Inhabited

/-- A block table entry: its address and four words (11 R305). -/
structure BlkEntry where
  addr : W64
  w0 : W64
  vmask : W64
  arrive : Nat
  deriving DecidableEq, Repr, Inhabited

/-- A query row's state in 02 R57: m, l and o. -/
structure ProbRow where
  m : BitVec 32 := 0xFF800000#32
  l : BitVec 32 := 0
  o : List (BitVec 32)
  deriving DecidableEq, Repr, Inhabited

/-- What a running ASTEP, BTFORK or BTSTAT of a core has read, once, and how far it has come (11 R306, R311, R318, R321). -/
structure AttRun where
  sd : SeqDesc := default
  pool : Pool := default
  /-- Tokens appended. -/
  tok : Nat := 0
  /-- The query rows' bytes, once they and the carry rows are read, and the rows' states. -/
  qs : Option (List Byte) := none
  rows : List ProbRow := []
  /-- The next block index, the blocks read, the deepest level. -/
  blk : Nat := 0
  blks : Nat := 0
  lev : Nat := 0
  /-- Where a resolution waits: its level and descriptor; the entry it found, whose layer is awaited. -/
  here : Option (Nat × SeqDesc) := none
  found : Option (BlkEntry × Nat) := none
  /-- A BTTRIM has freed a block it had yet to read (11 R323). -/
  cut : Bool := false
  deriving DecidableEq, Repr, Inhabited

/-- A core's matrix engine beside its queue (09). -/
structure Mat where
  runs : List MatRun := []
  /-- The queue has stopped before its head, which its checks refused (R237, R240). -/
  headBad : Bool := false
  bank0 : MatBank := {}
  bank1 : MatBank := {}
  active : Nat := 0
  /-- Accumulator rows, set × 128 + row: 128 FP32 lanes, +0 where not listed (log 4). -/
  acc : Tab (List (BitVec 32)) := []
  /-- One more than the output row for which the next MDRAIN finds that state uncorrectable, 0 for none (R258). -/
  lost : Nat := 0
  retry : Nat := 0
  katok : Nat := 0
  /-- NV, OF, SAT of ctl.matcnt (R260). -/
  nv : Bool := false
  ovf : Bool := false
  sat : Bool := false
  deriving DecidableEq, Repr, Inhabited

/-- A cluster's compare unit's counts of known-answer verdicts (09 R255). -/
structure Chk where
  run : BitVec 32 := 0
  fail : BitVec 32 := 0
  deriving DecidableEq, Repr

/-- A sampler stage block: its address and words (12 R331, R332). -/
structure Stage where
  addr : W64
  words : List W64
  deriving DecidableEq, Repr, Inhabited

/-- A sampler request (12 R330). -/
structure Req where
  ring : W64
  rcap : Nat
  caddr : W64
  haddr : W64
  deriving DecidableEq, Repr, Inhabited

/-- A request's counter as SMP last wrote it: its space and address, the die whose sampler wrote it, the value; whether it has had a
second writer (12 R340). -/
structure RingCtr where
  spot : Nat × Nat
  die : Nat
  value : Nat
  spoiled : Bool := false
  deriving DecidableEq, Repr

/-- A die's sampler beside its queue (12 R339, R342): FLT_NOTOKEN results since the last read, the code of the last discarded
command, the elements it keeps, oldest first, and the request and chain that the running command has read (R344). -/
structure Smp where
  notok : Nat := 0
  code : Code := 0
  kept : List (Cmd × Elem) := []
  req : Req := default
  chain : List Stage := []
  deriving DecidableEq, Repr

/-- A tree slot of a search-tree engine (13 R345, R349): configuration words in force, engine state, the groups that wait for
reclaim in order (RECL is their number). -/
structure Tree where
  live : Bool := false
  ctx : Nat := 0
  words : List W64 := []
  root : Nat := 0
  fcnt : Nat := 0
  k : BitVec 32 := 0
  bcnt : Nat := 0
  infl : Nat := 0
  dser : BitVec 32 := 0
  drain : Bool := false
  reclaim : List Nat := []
  /-- The configuration words in force when the open batch took its first leaf (13 R361), and whether its close is under way. -/
  batch : List W64 := []
  closing : Bool := false
  /-- Fields of pool nodes that a thread has written while the slot is live: node and field (13 R363). -/
  hits : List (Nat × Nat) := []
  deriving DecidableEq, Repr

/-- What a running search-tree command carries from step to step (13 R353, R359, R360): the parameters it read at its start;
the node it stands on; its path, deepest first; the parent's snapshot; the next child and the best so far; and its end. -/
structure Walk where
  words : List W64 := []
  node : Nat := 0
  path : List Nat := []
  snap : List W64 := []
  child : Nat := 0
  best : Option (BitVec 32 × Nat) := none
  ser : BitVec 32 := 0
  status : Nat := 0
  fault : Option (BitVec 16 × W64) := none
  /-- The batch and position of its leaf, whether it closed a batch, and the record's words 5 and 6. -/
  batch : BitVec 32 := 0
  pos : Nat := 0xFFFF
  closed : Bool := false
  buf : W64 := 0
  count : W64 := 0
  /-- The children an expansion has read (13 R358). -/
  kids : List W64 := []
  /-- The children a descent has scored at the nodes it has left (13 R366). -/
  scored : Nat := 0
  /-- The record of a batch under publication, once read (13 R356). -/
  record : List W64 := []
  /-- The places of a backup's chain, each found readable and writable (13 R359). -/
  places : List Loc := []
  /-- A backup's sign, and its UNDERFLOW and NSAT. -/
  neg : Bool := false
  under : Bool := false
  nsat : Bool := false
  deriving DecidableEq, Repr

/-- A flash page: its number in its object's image, its controller and its NAND die (14 R367, R370). -/
structure Page where
  num : Nat
  ctl : Nat
  nand : Nat
  deriving DecidableEq, Repr, Inhabited

/-- A vector of a segment set: id, code, neighbours (graph), list (inverted), the page that holds it (14 R370). -/
structure Vec where
  id : Nat
  code : List Byte
  nbrs : List Nat
  list : Nat
  page : Page
  deriving DecidableEq, Repr, Inhabited

/-- A segment set: its vectors, entry vertex or NLIST, and merge position (14 R376, R383). -/
structure SegSet where
  vecs : List Vec := []
  entry : Nat := 0
  merged : Nat := 0
  deriving DecidableEq, Repr, Inhabited

/-- A passage block: its valid-slot mask, its key and value rows by layer and head, its pages (14 R370, R385). -/
structure PBlock where
  mask : W64
  keys : List Byte
  vals : List Byte
  pages : List Page
  deriving DecidableEq, Repr, Inhabited

/-- A passage: its id and blocks. -/
structure Passage where
  id : Nat
  blocks : List PBlock
  deriving DecidableEq, Repr, Inhabited

/-- What an index image and a passage store hold (14 R370, R371): the fields of the status entry they fix, the first segment
set, the passages. -/
structure ObjImage where
  kind : Nat
  ck : Nat
  metric : Nat
  degm1 : Nat
  dq : Nat
  cent : W64
  logbase : W64
  logcap : Nat
  pgeom : Nat
  set : SegSet
  passages : List Passage
  deriving DecidableEq, Repr, Inhabited

/-- A log entry: its position, id, tombstone mark and code (14 R380). -/
structure LogEnt where
  pos : Nat
  id : Nat
  tomb : Bool
  code : List Byte
  deriving DecidableEq, Repr

/-- A retrieval object slot (14 R370, R371). -/
structure Obj where
  live : Bool := false
  owner : Nat := 0
  pstore : Bool := false
  img : ObjImage := default
  set : SegSet := {}
  head : Nat := 0
  sealPos : Nat := 0
  flushed : Nat := 0
  merging : Bool := false
  mfail : Bool := false
  /-- The target of the merge that runs (R383). -/
  target : Nat := 0
  /-- The entries programmed in flash and not folded (R384). -/
  flash : List LogEnt := []
  /-- Threads that have appended past FLUSHED, with the positions their entries end at (04 R117). -/
  writers : List (Nat × Nat × Nat × Nat) := []
  /-- The streams whose commands on it have started and not taken effect, in start order (14 R387). -/
  order : List Nat := []
  /-- Positions below this one come from flash, since a restart (14 R384). -/
  cold : Nat := 0
  /-- Since a restart, the mirror's whole extent has not been loaded back yet (14 R384, 17 R468; log 14). -/
  restoring : Bool := false
  /-- The entries that appends have written at positions a merge has not folded (14 R380). -/
  tail : List LogEnt := []
  /-- The mirror has been found changed by software: results are undefined (14 R380; log 2). -/
  spoiled : Bool := false
  deriving DecidableEq, Repr

/-- A hop: its object, page, the streams whose commands ride it, its retries (14 R367-R369). -/
structure Hop where
  xid : Nat
  page : Page
  riders : List Nat
  retries : Nat := 0
  deriving DecidableEq, Repr

/-- A retrieval controller: its queue, oldest first, and the reads in flight (14 R367). -/
structure Ctl where
  queue : List Hop := []
  reading : List Hop := []
  deriving DecidableEq, Repr

/-- What a running SEARCH or FETCHKV carries (14 R376-R378, R386): its binding, its rounds, its hops; its passage and block. -/
structure Look where
  set : SegSet := {}
  bound : Nat := 0
  query : List Byte := []
  log : List LogEnt := []
  seen : List (Nat × BitVec 32) := []
  keys : List (Nat × BitVec 32) := []
  front : List (Nat × BitVec 32) := []
  lists : List Nat := []
  rounds : Nat := 0
  left : Nat := 0
  pages : Nat := 0
  retries : Nat := 0
  passage : Nat := 0
  block : Nat := 0
  index : Nat := 0
  pblk : Nat := 0
  layer : Nat := 0
  posted : Nat := 0
  cur : Option PBlock := none
  more : List PBlock := []
  /-- The entry a FETCHKV holds BUSY (14 R386). -/
  claimed : Option W64 := none
  /-- The records an append has read (14 R381). -/
  recs : Option (List (Nat × List Byte)) := none
  /-- The sequence and pool a FETCHKV has read (14 R386). -/
  desc : Option (SeqDesc × Pool) := none
  /-- It waits for its turn on its object (14 R387). -/
  queued : Bool := false
  /-- Its binding met a log that software has changed (14 R380). -/
  wild : Bool := false
  deriving DecidableEq, Repr

/-- An admitted must-save extent (17 R466, R467): its handle, context, declaration, and physical pieces (address, bytes).
Admission order is the order of the list that holds it. -/
structure Extent where
  handle : Nat
  ctx : Nat
  base : W64
  size : Nat
  tag : Nat
  image : Bool
  core : Nat
  spad : Bool
  prio : Nat
  pieces : List (Nat × Nat)
  deriving DecidableEq, Repr

/-- A module of a die link, or a fabric port (16 R417-R420, R429): its failed lanes (spares from bit 64), 0 full width, 1 half,
2 off; its receiver waits for a replay; the next sequence number; the times of its replays in the last millisecond and their
count since LNKSTAT read it; it is paused; it is to be retrained. -/
structure LinkMod where
  failed : BitVec 66 := 0
  state : Nat := 0
  nak : Bool := false
  seq : BitVec 12 := 0
  replays : List Nat := []
  count : Nat := 0
  paused : Bool := false
  retrain : Bool := false
  deriving DecidableEq, Repr

/-- A draft in a die queue (16 R425). -/
structure DqDraft where
  win : BitVec 32
  count : Nat
  tokens : List Byte
  stamp : BitVec 32
  deriving DecidableEq, Repr

/-- A verdict in a die queue (16 R425). -/
structure DqVerdict where
  win : BitVec 32
  acc : Nat
  full : Bool
  ctok : BitVec 32
  deriving DecidableEq, Repr

/-- A die-queue pair (16 R424); `taken` holds the windows taken past the newest verdict, with their token counts. -/
structure DqPair where
  opened : Bool := false
  ctx : Nat := 0
  nextw : BitVec 32 := 0
  vw : BitVec 32 := 0xFFFFFFFF
  tw : BitVec 32 := 0xFFFFFFFF
  wep : BitVec 32 := 0
  eep : BitVec 32 := 0
  stale : Nat := 0
  drafts : List DqDraft := []
  verdicts : List DqVerdict := []
  taken : List (BitVec 32 × Nat) := []
  deriving DecidableEq, Repr

/-- A collective group at this package (16 R434). -/
structure CollGroup where
  opened : Bool := false
  withdrawn : Bool := false
  ctx : Nat := 0
  members : BitVec 64 := 0
  seq : BitVec 32 := 0
  deriving DecidableEq, Repr

/-- What a member gives a collective: its package, sequence number, OP, ROOT and SRC (16 R435-R437). -/
structure PeerColl where
  gid : Nat
  pkg : Nat
  seq : BitVec 32
  op : Nat
  root : Nat
  bytes : List Byte
  deriving DecidableEq, Repr

/-- An OR of an ARRIVE bit that waits for its block's rows (16 R440): its command, the destination's entry, pool and block. -/
structure XferOr where
  cmd : Cmd
  entry : W64
  pool : Pool
  blk : Nat
  deriving DecidableEq, Repr

/-- An XFERL's stream (16 R440): the next block of its range, the ORs that wait, the sequences and pools it has read, and where
the walk to a block stands while it waits. -/
structure Xrun where
  next : Nat := 0
  ors : List XferOr := []
  seqs : Option (SeqDesc × Pool × SeqDesc × Pool) := none
  here : Option (Nat × SeqDesc) := none
  found : Option BlkEntry := none
  deriving DecidableEq, Repr

/-- What the thread and core sections of an image hold (17 R457): the slots, their result elements by engine, the counters,
the mailbox, the carve, MAT, the streams of MAT, LDC, STC and CHK, the eight channels, the local queue. -/
structure CoreImage where
  threads : List Thread := []
  elems : List (Nat × Elem) := []
  ctr : Vector (BitVec 32) 32 := Vector.replicate 32 0
  mailbox : List Mail := []
  ways : Nat := 0
  mat : Mat := {}
  streams : List EStream := []
  chans : List Chan := []
  queue : List Nat := []
  deriving DecidableEq, Repr, Inhabited

/-- A core's exchange (17 R463-R465): 0 IDLE, 1 FILL, 2 STOP, 3 BANK, 4 DRAIN, 5 SAVE, 6 RESTORE; the stream whose command it
is; the old owner and the incoming context; the shadow bank and, after the exchange, the outgoing elements; the end of the
96 clocks; the die's frame counter and the time when the threads stopped; the streams that wait for the core, in order. -/
structure Swap where
  phase : Nat := 0
  src : Nat := 0
  old : Nat := 0
  cid : Nat := 0
  image : CoreImage := {}
  spadIn : Bool := false
  bank : List Thread := []
  /-- The outgoing stream at CHK (09 R257). -/
  chk : EStream := {}
  elems : List (Nat × Elem) := []
  bankEnd : Nat := 0
  frame : W64 := 0
  time : W64 := 0
  line : List Nat := []
  /-- It is a CTXSWAP's. -/
  swaps : Bool := false
  /-- The core was held under R461 since an exchange that failed (17 R465). -/
  held : Bool := false
  /-- The shutter trap met it in BANK: what has not been saved is lost (17 R478). -/
  lost : Bool := false
  /-- IN's park entries applied at the exchange (17 R460). -/
  parked : Nat := 0
  deriving DecidableEq, Repr

/-- A page of the shutter store: its number in its half, its spare area (EPOCH, SEQ, index), its bytes (17 R473). -/
structure SPage where
  num : Nat
  epoch : Nat
  seq : Nat
  idx : Nat
  bytes : List Byte
  /-- Its first program failed (17 R473). -/
  moved : Bool
  deriving DecidableEq, Repr

/-- The shutter sequence (17 R471-R474): 0 not running, 1 from the trap, 2 on the bank, 3 powered down; what was measured; the
plan; the extents in write order with their bytes; the page writes that failed; where the bank watch cut. -/
structure Shut where
  phase : Nat := 0
  time : W64 := 0
  vtrap : Nat := 0
  vend : Nat := 0
  cap : Nat := 0
  planB : Nat := 0
  cut : Option Nat := none
  fails : List Nat := []
  recs : List (Extent × List Byte) := []
  /-- A of R472, and the data bytes written (17 R476). -/
  total : Nat := 0
  written : Nat := 0
  deriving DecidableEq, Repr

/-- An entry of the restart report with what its manifest header names (17 R474, R477). -/
structure RptEntry where
  ctx : Nat
  tag : Nat
  size : Nat
  written : Nat
  handle : Nat
  prio : Nat
  cls : Nat
  image : Bool
  core : Nat
  flags : Nat
  seq : Nat
  base : W64
  deriving DecidableEq, Repr

/-- The restart report (17 R475, R476): its epoch, the half it was found in, its entries in write order. -/
structure Report where
  epoch : Nat
  half : Nat
  entries : List RptEntry
  deriving DecidableEq, Repr

/-- What a core holds beside its threads. -/
structure Core where
  ctr : Vector (BitVec 32) 32 := Vector.replicate 32 0
  mailbox : List Mail := []
  ways : Nat := 0
  owner : Nat := 0
  disp : Nat := 0
  suspect : Bool := false
  /-- Its local queue of ready TILE tasks, entry numbers of its die (10 R279). -/
  queue : List Nat := []
  /-- The state of its stealing, 0 standing for the reset value core number + 1 (10 R280). -/
  steal : BitVec 32 := 0
  /-- Commands delivered to SMP (12 R342). -/
  smpTaken : BitVec 32 := 0
  /-- Scratchpad bank groups held by MAT for reading and for writing (09 R240). -/
  heldR : BitVec 8 := 0
  heldW : BitVec 8 := 0
  /-- Issue of the core's threads is stopped (17 R465). -/
  stopped : Bool := false
  /-- The operations of 17 R461 wait. -/
  gate : Bool := false
  deriving DecidableEq, Repr

/-- The unit masks in force (01 R36, 18 R493): a set bit masks its unit. -/
structure Masks where
  cores : BitVec 256 := 0
  ports : BitVec 192 := 0
  ctls : BitVec 32 := 0
  fabric : BitVec 18 := 0
  /-- The mask record in force, of which a quote holds the hash (18 R494). -/
  record : List Byte := []
  deriving DecidableEq, Repr

/-- An ATOMNR's thread, its word's address there, and which handler, if any, issued it (15 R404, 06 R181). -/
structure AtomSrc where
  core : Nat
  slot : Nat
  ea : W64
  hand : Option Nat
  deriving DecidableEq, Repr

/-- A request waiting at a port in arrival order (15 R401): bytes of a write, or an atomic. -/
inductive PReq where
  /-- Bytes from a physical address up; `bad`: they carry the uncorrectable mark (R406). -/
  | write (pa : Nat) (bytes : List Byte) (bad : Bool := false)
  /-- An atomic: its physical address, size, operation (05 R144; 10 is CAS), operands, its source if it is an ATOMNR. -/
  | atomic (pa size op val val2 : Nat) (src : Option AtomSrc)
  deriving DecidableEq, Repr

/-- A write-queue entry (15 R400): its line number (physical address / 64), the bytes it holds, its poison, its pending
atomics. Its bytes stand in `State.dev`, which is the port's view of memory (log 7). -/
structure PEntry where
  line : Nat
  valid : BitVec 64
  poison : Bool := false
  /-- 1 HELD, 2 FILL, 3 DRAIN (15 R403). -/
  state : Nat := 1
  pend : List PReq := []
  /-- When a request last touched it. -/
  last : Nat := 0
  deriving DecidableEq, Repr

/-- A request in a bank's order (15 R399): kind 0 read, 1 drain, 2 fill, of a line. -/
structure BankReq where
  kind : Nat
  line : Nat
  deriving DecidableEq, Repr

/-- A bank of a channel (15 R399, R407-R410). -/
structure Bank where
  queue : List BankReq := []
  openRow : Option Nat := none
  /-- The earliest time of the next activation, and the end of the regular refresh that holds the bank. -/
  ready : Nat := 0
  busy : Nat := 0
  /-- The tracking table: slots of (row, count), at most 64. -/
  rows : List (Nat × Nat) := []
  /-- A refresh-management window: its end, and when the head of the order began to wait on it. -/
  rfm : Option Nat := none
  rfmWait : Option Nat := none
  /-- When its last regular refresh began (15 R399), and its 32 ms counting window (R408). -/
  refreshed : Option Nat := none
  window : Nat := 0
  deriving DecidableEq, Repr

/-- A memory port (15 R394-R415) with its two L2 slices (R397): the lines each holds. -/
structure Port where
  entries : List PEntry := []
  arr : List PReq := []
  banks : Tab Bank := []
  slices : List Nat := []
  /-- Lines read at the port (15 R402) whose data their reader has not taken yet. -/
  seen : List Nat := []
  retired : Bool := false
  alerts : Nat := 0
  rfms : Nat := 0
  bocnt : Nat := 0
  boff : Nat := 0
  ce : Nat := 0
  ue : Nat := 0
  lretry : Nat := 0
  thr : Nat := 2048
  /-- Times of the UE lines of the last second (15 R411). -/
  ueTimes : List Nat := []
  deriving DecidableEq, Repr

/-- The whole package. -/
structure State where
  sched : List Turn := []
  cursor : Nat := 0
  cur : Cur := {}
  freeCtr : Nat := 0
  /-- The place in issue order of the next PUSH or SEND (01 R20, 05 R153). -/
  opSeq : Nat := 0
  time : W64 := 0
  dev : Mem := []
  spad : Mem := []
  host : Mem := []
  remote : Mem := []
  poison : List Nat := []
  /-- Scratchpad bytes written with the uncorrectable mark, core × 2^22 + address (08 R227, 15 R406). -/
  spadPoison : List Nat := []
  threads : Tab Thread := []
  cores : Tab Core := []
  mails : List Mail := []
  bars : Tab BarInst := []
  tlb : Tab (List TlbEntry) := []
  access : Tab W64 := []
  masks : Masks := {}
  streams : Tab EStream := []
  /-- By engine and die: the stream after the one served last, where streams are served round-robin (13 R351, 16 R422). -/
  served : Tab Nat := []
  results : Tab (List Elem) := []
  pkg : BitVec 6 := 0
  indom : Bool := false
  unreach : BitVec 64 := 0
  ctxtab : Nat := 0
  qmgs : Tab Qmg := []
  outs : List OutThread := []
  parks : List Park := []
  /-- MSI-X vectors sent to the host, newest first (10 R278, 16 R439). -/
  msix : List Nat := []
  /-- Operating points of the islands: 0 nominal, 1 economy, 2 off (18 R489). -/
  islands : Tab Nat := []
  /-- The tenths of a clock that each island had counted (01 R34) when its operating point last changed, and when. -/
  islandClk : Tab (Nat × Nat) := []
  chans : Tab Chan := []
  mats : Tab Mat := []
  /-- Running ATT commands that wait, by core (11 R311, R318). -/
  atts : Tab AttRun := []
  chks : Tab Chk := []
  smps : Tab Smp := []
  ringCtrs : List RingCtr := []
  trees : Tab Tree := []
  /-- By stream (01 R22). -/
  walks : Tab Walk := []
  objs : Tab Obj := []
  ctls : Tab Ctl := []
  /-- By stream. -/
  looks : Tab Look := []
  /-- ctl.schobj's base and ctl.schret's counts (14 R391). -/
  schobj : Nat := 0
  schRetry : Nat := 0
  schLimit : Nat := 0
  extents : List Extent := []
  /-- Modules 0-159 of the die links in the order of 18 R493, fabric ports from 160. -/
  mods : Tab LinkMod := []
  /-- The die links in half-width repair mode (16 R420), bit l for link l of R448. -/
  halfMode : BitVec 3 := 0
  dqs : Tab DqPair := []
  groups : Tab CollGroup := []
  peers : List PeerColl := []
  xruns : Tab Xrun := []
  /-- Host atomics of WAKEPOSTs, by stream. -/
  hostReqs : Tab OutReq := []
  /-- ctl.hostatom's MODE, FB, FBCA, FBCNT (16 R447), and who is in the fallback, in arrival order (R446). -/
  hostMode : Bool := false
  hostFb : Bool := false
  hostFbca : Bool := false
  fbcnt : Nat := 0
  fbq : List Nat := []
  lnklog : LogPtr := {}
  /-- By package number: the fabric ports that reach it, and those whose route has failed (16 R429, R432). -/
  routes : Tab Nat := []
  routeDown : Tab Nat := []
  /-- BAR2: by page, its device page and mode (16 R442, R443). -/
  bar2 : Tab (Nat × Nat) := []
  /-- The last answer to a request from outside: 0 success, else a code, and the bytes (04 R99, 16 R443). -/
  answer : Option (Nat × List Byte) := none
  /-- sv.bootst (18 R485): STATE and CODE. -/
  svState : Nat := 0
  svCode : Code := 0
  /-- The request ring: sv.reqbase, sv.reqtail, sv.reqhead (18 R485, R486). -/
  reqbase : W64 := 0
  reqtail : W64 := 0
  reqhead : W64 := 0
  /-- The firmware image of the reserved area, the fused security version, the mask record (18 R482, R483, R493). -/
  firmware : List Byte := []
  svn : BitVec 16 := 0
  maskRec : List Byte := []
  /-- The firmware image in force since the last boot (18 R484, R494). -/
  running : List Byte := []
  /-- The fused SHA-384 hashes of the two public keys that sign firmware, and the fused secret (18 R483, R494; log 35). -/
  rsaHash : List Byte := List.replicate 48 0
  slhHash : List Byte := List.replicate 48 0
  secret : List Byte := []
  /-- The device's RSA-3072 and SLH-DSA keys, derived at boot, and their certificates in the reserved area (18 R494). -/
  idRsa : List Byte := []
  idSlh : List Byte := []
  certRsa : List Byte := []
  certSlh : List Byte := []
  /-- sv.health, and the islands' temperatures (18 R485, R489). -/
  health : Nat := 0
  temps : Tab Nat := []
  /-- The images CTX has written, by their number (17 R457; log 9), and the cores' exchanges. -/
  images : List CoreImage := []
  swaps : Tab Swap := []
  shut : Shut := {}
  /-- The halves of the shutter store, the half the next sequence writes, the last EPOCH (17 R473). -/
  halves : Tab (List SPage) := []
  target : Nat := 0
  epoch : Nat := 0
  /-- ctl.ctxrpt's base and the report (17 R475-R477, R479). -/
  ctxrpt : Nat := 0
  report : Option Report := none
  /-- ctl.holdup: C in microfarad and the bank's voltage in 10 mV (17 R469, R479; log 4). -/
  cap : Nat := 2400
  vbank : Nat := 5400
  ports : Tab Port := []
  mplog : Tab LogPtr := []
  /-- The soft-error log sv.selog (18 R485, R492). -/
  selog : LogPtr := {}
  deriving DecidableEq, Repr

/-- The machine right after reset: every field at the value its structure gives (00 R10, 03 R69, R73, 07 R191, 06 R172; log 3,
log 4): memories with nothing listed, every table empty, no thread live, nothing queued. -/
def State.reset : State := {}

/-- Why the machine stops with a fault. -/
inductive Fault where
  /-- Raised by the meaning of a word when it is asked of a thread slot with no live thread, of a stream that HALT has stopped, or
  of a core whose issue is stopped, which the hardware never does (06 R160). `step` asks it of no such stream. Safe. -/
  | noThread
  deriving DecidableEq, Repr

/-- Why the model refuses. -/
inductive Refusal where
  /-- Raised by exec alone, for an instruction whose meaning is not written. Safe. -/
  | notModelled (mnemonic : String)
  deriving DecidableEq, Repr

end Sys2Proof.Machine
end

