-- ==== Sys2Proof/Machine/Store.lean ====
section
/-! DEFINITION. The plain data operations: bit fields, sparse tables, byte memories, threads, cores and free values. -/

namespace Sys2Proof.Machine

/-- bits(x, hi, lo) of 00 R11, by the low bit and the length. -/
def bitsAt (x : W64) (lo len : Nat) : Nat := (x.toNat >>> lo) % 2 ^ len

/-- sext(x, n) of 00 R11 for a field of its own width. -/
def sext64 {n : Nat} (x : BitVec n) : W64 := x.signExtend 64

/-- A field of `len` bits set at `lo`. -/
def setBits (x : W64) (lo len v : Nat) : W64 :=
  BitVec.ofNat 64 (x.toNat - (bitsAt x lo len) <<< lo + (v % 2 ^ len) <<< lo)

/-- The entry of a table, `d` where it lists none. -/
def Tab.get {α : Type} (d : α) : Tab α → Nat → α
  | [], _ => d
  | (k, v) :: t, i => if k = i then v else Tab.get d t i

/-- The entry of a table, if it lists one. -/
def Tab.find {α : Type} : Tab α → Nat → Option α
  | [], _ => none
  | (k, v) :: t, i => if k = i then some v else Tab.find t i

/-- The table with entry `i` set; new entries keep the numbers rising. -/
def Tab.set {α : Type} : Tab α → Nat → α → Tab α
  | [], i, v => [(i, v)]
  | (k, w) :: t, i, v =>
    if i = k then (i, v) :: t else if i < k then (i, v) :: (k, w) :: t else (k, w) :: Tab.set t i v

/-- The table without entry `i`. -/
def Tab.drop {α : Type} (t : Tab α) (i : Nat) : Tab α := t.filter fun kv => kv.1 != i

/-- Two lists in order as one; of equals the first list's come first. `n` is at least the sum of their lengths. -/
def mergeBy {α : Type} (le : α → α → Bool) : Nat → List α → List α → List α
  | 0, xs, ys => xs ++ ys
  | n + 1, xs, ys => match xs, ys with
    | [], ys => ys
    | x :: xs, [] => x :: xs
    | x :: xs, y :: ys => if le x y then x :: mergeBy le n xs (y :: ys) else y :: mergeBy le n (x :: xs) ys

/-- A list in order, halves first; `n` halvings at most. -/
def sortFuel {α : Type} (le : α → α → Bool) : Nat → List α → List α
  | 0, xs => xs
  | n + 1, xs =>
    if xs.length ≤ 1 then xs
    else mergeBy le xs.length (sortFuel le n (xs.take (xs.length / 2))) (sortFuel le n (xs.drop (xs.length / 2)))

/-- A list in order; equals keep their order. -/
def sortBy {α : Type} (le : α → α → Bool) (xs : List α) : List α := sortFuel le xs.length xs

/-- A byte of memory; an unlisted address reads 0 (log 3). -/
def Mem.read : Mem → Nat → Byte
  | [], _ => 0
  | (k, v) :: t, a => if k = a then v else Mem.read t a

/-- The memory with one byte written, in canonical form. -/
def Mem.write : Mem → Nat → Byte → Mem
  | [], a, v => if v = 0 then [] else [(a, v)]
  | (k, w) :: t, a, v =>
    if a = k then (if v = 0 then t else (a, v) :: t)
    else if a < k then (if v = 0 then (k, w) :: t else (a, v) :: (k, w) :: t)
    else (k, w) :: Mem.write t a v

/-- The canonical form of a memory: addresses strictly rising, no byte equal to what an unlisted address reads as. -/
def Mem.wf : Mem → Bool
  | [] => true
  | [(_, v)] => v != 0
  | (k, v) :: (k', v') :: t => v != 0 && decide (k < k') && Mem.wf ((k', v') :: t)

/-- n bytes from an address up. -/
def Mem.bytes (m : Mem) (a : Nat) : Nat → List Byte
  | 0 => []
  | n + 1 => m.read a :: Mem.bytes m (a + 1) n

/-- Bytes written from an address up. -/
def Mem.writeBytes (m : Mem) (a : Nat) : List Byte → Mem
  | [] => m
  | b :: bs => Mem.writeBytes (m.write a b) (a + 1) bs

/-- The little-endian value of bytes (00 R4). -/
def leValue : List Byte → Nat
  | [] => 0
  | b :: bs => b.toNat + 256 * leValue bs

/-- The n low bytes of a value, little-endian (00 R4). -/
def leBytes (v : Nat) : Nat → List Byte
  | 0 => []
  | n + 1 => BitVec.ofNat 8 v :: leBytes (v / 256) n

/-- The little-endian value of n bytes at an address. -/
def Mem.readLE (m : Mem) (a n : Nat) : Nat := leValue (m.bytes a n)

/-- n bytes of a value stored little-endian. -/
def Mem.writeLE (m : Mem) (a n v : Nat) : Mem := m.writeBytes a (leBytes v n)

/-- The list with element `i` changed. -/
def updAt {α : Type} (f : α → α) : List α → Nat → List α
  | [], _ => []
  | x :: xs, 0 => f x :: xs
  | x :: xs, n + 1 => x :: updAt f xs n

/-- The list without element `i`. -/
def removeAt {α : Type} : List α → Nat → List α
  | [], _ => []
  | _ :: xs, 0 => xs
  | x :: xs, n + 1 => x :: removeAt xs n

namespace State

/-- The thread of a slot; one never dispatched is as reset leaves it. -/
def thread (s : State) (core slot : Nat) : Thread := Tab.get {} s.threads (core * 16 + slot)

def setThread (s : State) (core slot : Nat) (t : Thread) : State :=
  { s with threads := Tab.set s.threads (core * 16 + slot) t }

def core (s : State) (c : Nat) : Core := Tab.get {} s.cores c

def setCore (s : State) (c : Nat) (k : Core) : State := { s with cores := Tab.set s.cores c k }

/-- The thread whose stream is executing. -/
def curT (s : State) : Thread := s.thread s.cur.core s.cur.slot

def setCurT (s : State) (t : Thread) : State := s.setThread s.cur.core s.cur.slot t

def port (s : State) (p : Nat) : Port := Tab.get {} s.ports p

def setPort (s : State) (p : Nat) (v : Port) : State := { s with ports := Tab.set s.ports p v }

def estream (s : State) (eng src : Nat) : EStream := Tab.get {} s.streams (eng * 512 + src)

def setEstream (s : State) (eng src : Nat) (v : EStream) : State :=
  { s with streams := Tab.set s.streams (eng * 512 + src) v }

def result (s : State) (core eng : Nat) : List Elem := Tab.get [] s.results (core * 16 + eng)

def setResult (s : State) (core eng : Nat) (v : List Elem) : State :=
  { s with results := Tab.set s.results (core * 16 + eng) v }

/-- Nanoseconds of the global time stamp (06 R171). -/
def now (s : State) : Nat := s.time.toNat

/-- The number of the next free value, and the state after taking it (log 2). -/
def takeFree (s : State) : Nat × State := (s.freeCtr, { s with freeCtr := s.freeCtr + 1 })

/-- A choice among n alternatives that the spec leaves open. -/
def choose (s : State) (n : Nat) : Nat × State :=
  let (k, s) := s.takeFree
  (Config.freeChoice k % n, s)

end State

/-- The exchange of a core (17 R465). -/
def State.swap (s : State) (core : Nat) : Swap := Tab.get {} s.swaps core

def State.setSwap (s : State) (core : Nat) (w : Swap) : State := { s with swaps := Tab.set s.swaps core w }

/-- The die of a core (01 R16). -/
def dieOf (core : Nat) : Nat := core / 128

/-- The cluster of a core (01 R16). -/
def clusterOf (core : Nat) : Nat := core / 8

/-- An island is not off (01 R32). -/
def State.islandOn (s : State) (i : Nat) : Bool := Tab.get 0 s.islands i != 2

/-- Tenths of a clock in a nanosecond at an island's point (01 R34). -/
def clockRate (s : State) (island : Nat) : Nat :=
  match Tab.get 0 s.islands island with
  | 2 => 0
  | 1 => 14
  | _ => if 36 ≤ island then 12 else 21

/-- Tenths of a clock that an island has counted: those to its last change of point, and those since. -/
def islandClock (s : State) (island : Nat) : Nat :=
  let (n, t) := Tab.get (0, 0) s.islandClk island
  n + (s.now - t) * clockRate s island

/-- An island at another operating point; it has counted its clocks so far at the old one. -/
def setIsland (s : State) (island p : Nat) : State :=
  { s with islandClk := Tab.set s.islandClk island (islandClock s island, s.now), islands := Tab.set s.islands island p }

/-- A core's threads may issue: an exchange or the shutter trap has not stopped them, and their island is on (17 R465, R471). -/
def State.coreOn (s : State) (core : Nat) : Bool :=
  !(s.core core).stopped && s.shut.phase == 0 && s.islandOn (clusterOf core)

/-- The island of an engine that serves a stream; streams from 256 on are those of a die's dispatched tasks (01 R26, R32). -/
def engineIsland (eng src : Nat) : Nat :=
  if eng ≤ 4 then clusterOf src
  else if eng = 9 ∨ eng = 10 then 34
  else 32 + (if eng = 5 then src % 2 else if 256 ≤ src then src % 2 else dieOf src)

/-- The clock, in tenths, of the island of an engine that serves a stream (01 R34). -/
def engClock (s : State) (eng src : Nat) : Nat := islandClock s (engineIsland eng src)

/-- An engine takes commands: its island is on, and no shutter trap has come (17 R471). -/
def State.engineOn (s : State) (eng src : Nat) : Bool := s.shut.phase == 0 && s.islandOn (engineIsland eng src)

end Sys2Proof.Machine
end

