-- ==== Sys2Proof/Machine/Ports.lean ====
section
/-! DEFINITION. Device memory and its ports (spec 15 R394-R416): the mapping of addresses to channels, the write queue with
its atomics in arrival order, the L2 slices, activation counting, poison, retirement and the port event log. `State.dev` is
memory as its ports show it, write-queue entries over the array (log 7). -/

namespace Sys2Proof.Machine

/-- The live channels of a die in ascending port order, as package ports 96 × die + port (15 R395). -/
def livePorts (s : State) (die : Nat) : List Nat :=
  ((List.range 96).map (96 * die + ·)).filter fun p => !s.masks.ports.getLsbD p

/-- The number of live channels of a die. -/
def liveCount (s : State) (die : Nat) : Nat := if s.masks.ports = 0 then 96 else (livePorts s die).length

/-- The first physical address of the east die's memory (15 R395). -/
def eastBase : Nat := 0xC000000000

/-- 15 R395: the port and channel offset of a physical address; `none` outside both dies' ranges. -/
def portOf (s : State) (pa : Nat) : Option (Nat × Nat) :=
  let die := if pa < eastBase then 0 else 1
  let o := pa - die * eastBase
  let n := liveCount s die
  if o < 2 ^ 33 * n then
    let u := o / 256
    let p := if s.masks.ports = 0 then 96 * die + u % 96 else (livePorts s die).getD (u % n) 0
    some (p, u / n * 256 + o % 256)
  else none

/-- A range of device memory that exists: its first and last byte are mapped. -/
def devMapped (s : State) (pa n : Nat) : Bool := (portOf s pa).isSome && (portOf s (pa + n - 1)).isSome

/-- 15 R396: bank and row of a channel offset. -/
def bankOf (co : Nat) : Nat := co / 2048 % 16
def rowOf (co : Nat) : Nat := co / 32768

/-- The line number of a physical address. -/
def lineOf (pa : Nat) : Nat := pa / 64

/-- Saturating add of the 16-bit counts of 15 R415. -/
def sat16 (n k : Nat) : Nat := min (n + k) 65535

/-- The physical address a port request names. -/
def PReq.pa : PReq → Nat
  | .write pa _ _ => pa
  | .atomic pa _ _ _ _ _ => pa

/-- 15 R411, R405: the line reads poisoned: it is marked, or its channel is retired. -/
def linePoisoned (s : State) (line : Nat) : Bool :=
  s.poison.contains line ||
  match portOf s (line * 64) with
  | some (p, _) => (s.port p).retired
  | none => false

/-- A request joins its bank's order; one that reaches the head during a refresh-management window begins to wait (R410). -/
def bankEnqueue (s : State) (line kind : Nat) : State :=
  match portOf s (line * 64) with
  | none => s
  | some (p, co) =>
    let pt := s.port p
    let b := Tab.get {} pt.banks (bankOf co)
    let inWindow := match b.rfm with | some fin => decide (s.now < fin) | none => false
    let wait := if inWindow && b.queue.isEmpty then some s.now else b.rfmWait
    s.setPort p { pt with banks := Tab.set pt.banks (bankOf co) { b with queue := b.queue ++ [⟨kind, line⟩], rfmWait := wait } }

/-! ### Write-queue entries (15 R400-R404) -/

/-- The bytes of a line that n bytes at `pa` are. -/
def byteMask (pa n : Nat) : BitVec 64 := BitVec.ofNat 64 ((2 ^ n - 1) <<< (pa % 64))

/-- The entry that holds a line and is not being drained. -/
def PEntry.holds (line : Nat) (e : PEntry) : Bool := e.line == line && e.state != 3

/-- The entry of a line, one being drained apart. -/
def entryOf (s : State) (p line : Nat) : Option PEntry := (s.port p).entries.find? (PEntry.holds line)

/-- The entry of a line changed. -/
def updEntry (s : State) (p line : Nat) (f : PEntry → PEntry) : State :=
  s.setPort p { s.port p with entries := (s.port p).entries.map fun e => if PEntry.holds line e then f e else e }

/-- A word's bytes are valid in its entry (15 R401). -/
def wordValid (s : State) (pa n : Nat) : Bool :=
  match portOf s pa with
  | none => false
  | some (p, _) => match entryOf s p (lineOf pa) with
    | some e => e.valid &&& byteMask pa n == byteMask pa n
    | none => false

/-- An entry, draining or not, holds the whole line, which is then read from it alone (15 R402, R416). -/
def wholeEntry (s : State) (p line : Nat) : Bool :=
  (s.port p).entries.any fun e => e.line == line && e.valid == BitVec.allOnes 64

/-- A read of the line has been made at its port and not been taken by its reader (PORT_READ). -/
def readSeen (s : State) (p line : Nat) : Bool := (s.port p).seen.contains line

/-- That read is taken. -/
def takeSeen (s : State) (p line : Nat) : State :=
  s.setPort p { s.port p with seen := (s.port p).seen.filter (· != line) }

/-- A line marked poisoned; a read made before finds nothing of it. -/
def addPoison (s : State) (line : Nat) : State :=
  if s.poison.contains line then s
  else
    let s := match portOf s (line * 64) with | some (p, _) => takeSeen s p line | none => s
    { s with poison := line :: s.poison }

/-- Bytes of an entry written: they become valid, and an entry wholly valid is clean (15 R401, R404); bytes that carry the mark
poison it and are not valid (R406). A retired channel discards them (R411). -/
def writeHeld (s : State) (pa : Nat) (bs : List Byte) (bad : Bool := false) : State :=
  match portOf s pa with
  | none => s
  | some (p, _) =>
    if (s.port p).retired then s
    else
      let line := lineOf pa
      let m := byteMask pa bs.length
      let s := updEntry s p line fun e =>
        let v := if bad then e.valid &&& ~~~m else e.valid ||| m
        { e with valid := v, last := s.now, poison := bad || (e.poison && v != BitVec.allOnes 64) }
      let s := { s with dev := s.dev.writeBytes pa bs }
      if bad then addPoison s line
      else if wholeEntry s p line then { s with poison := s.poison.filter (· != line) } else s

/-- 05 R144: the result of an atomic operation on values of w bits; 10 is CAS with expected `v` and new `v2` (R146). -/
def atomicResult (op w old v v2 : Nat) : Nat :=
  let m : Nat := 2 ^ w
  let sgn := fun (x : Nat) => if x.testBit (w - 1) then (x : Int) - (m : Int) else (x : Int)
  match op with
  | 0 => (old + v) % m
  | 1 => (fadd32 (BitVec.ofNat 32 old) (BitVec.ofNat 32 v)).toNat
  | 2 => if sgn old ≤ sgn v then old else v
  | 3 => if sgn old ≤ sgn v then v else old
  | 4 => min old v
  | 5 => max old v
  | 6 => Nat.land old v
  | 7 => Nat.lor old v
  | 8 => Nat.xor old v
  | 9 => v
  | _ => if old = v then v2 else old

/-- One fewer ATOMNR of a thread is outstanding; one applied to nothing holds FLT_UNCORR with its word's address (05 R147,
15 R404). -/
def atomDone (s : State) (src : Option AtomSrc) (bad : Bool) : State :=
  match src with
  | none => s
  | some a =>
    let t := s.thread a.core a.slot
    let own := t.inh && a.hand == some t.traps
    s.setThread a.core a.slot { t with
      atomsOut := t.atomsOut - 1
      heldUncorr := if bad && !own then some (t.heldUncorr.getD a.ea) else t.heldUncorr
      handUncorr := if bad && own then some (t.handUncorr.getD a.ea) else t.handUncorr }

/-- 15 R401, R404: an atomic on a word that its entry does not hold is applied to nothing when the line is poisoned. -/
def atomicBad (s : State) (pa n : Nat) : Bool := linePoisoned s (lineOf pa) && !wordValid s pa n

/-- 15 R401: a request applied to its entry, an atomic after its fill. -/
def applyHeld (s : State) : PReq → State
  | .write pa bs bad => writeHeld s pa bs bad
  | .atomic pa n op v v2 src =>
    if atomicBad s pa n then atomDone s src true
    else atomDone (writeHeld s pa (leBytes (atomicResult op (8 * n) (s.dev.readLE pa n) v v2) n)) src false

/-- Saturating add of the counts of 15 R415 up to a bound. -/
def satTo (bound n k : Nat) : Nat := min (n + k) bound

/-- 15 R405, R415: a poisoned line delivered is counted. -/
def countUe (s : State) (p : Nat) : State :=
  let pt := s.port p
  s.setPort p { pt with
    ue := sat16 pt.ue 1
    ueTimes := s.now :: pt.ueTimes.filter fun t => decide (s.now < t + 1000000000) }

/-- 15 R401, R404: a fill returns: the entry's other bytes become valid, or its line is poisoned and they do not; then its
pending requests are applied, oldest first. -/
def returnFill (s : State) (p line : Nat) : State :=
  match entryOf s p line with
  | none => s
  | some en =>
    let bad := linePoisoned s line
    let seen := readSeen s p line
    let s := updEntry (takeSeen s p line) p line fun e =>
      { e with valid := if bad then e.valid else BitVec.allOnes 64, poison := bad, state := 1, pend := [] }
    en.pend.foldl applyHeld (if bad && !seen then countUe s p else s)

/-- The HELD entry idle longest (15 R400). -/
def idlest (es : List PEntry) : Option PEntry :=
  (es.filter fun e => e.state == 1).foldl (fun (m : Option PEntry) e =>
    match m with
    | none => some e
    | some x => if e.last < x.last then some e else some x) none

/-- An entry starts to drain: its line's array write joins the bank's order (15 R403). -/
def startDrain (s : State) (p line : Nat) : State :=
  bankEnqueue (updEntry s p line fun e => { e with state := 3 }) line 1

/-- The array write of a draining entry is performed and the entry is free (15 R403). -/
def endDrain (s : State) (p line : Nat) : State :=
  s.setPort p { s.port p with entries := (s.port p).entries.filter fun e => !(e.line == line && e.state == 3) }

/-- A full queue gives up an entry (15 R400): one already draining, or the HELD entry idle longest, or, all filling, the first
after its fill. -/
def makeRoom (s : State) (p : Nat) : State :=
  let es := (s.port p).entries
  if es.length < 64 then s
  else match es.find? fun e => e.state == 3 with
    | some e => endDrain s p e.line
    | none => match idlest es with
      | some e => endDrain (startDrain s p e.line) p e.line
      | none => match es with
        | e :: _ => endDrain (startDrain (returnFill s p e.line) p e.line) p e.line
        | [] => s

/-- The entry of a line, taken free when none holds it: after its drain when it is being drained, and after another's when the
queue is full (15 R400, R403). -/
def takeEntry (s : State) (p line : Nat) : State :=
  if (entryOf s p line).isSome then s
  else
    let s := makeRoom (endDrain s p line) p
    s.setPort p { s.port p with entries := (s.port p).entries ++ [{ line := line, valid := 0, poison := s.poison.contains line, last := s.now }] }

/-- 15 R401: a write applied at its port, inside one line; a retired channel takes no entry (R411). -/
def applyWrite (s : State) (pa : Nat) (bs : List Byte) (bad : Bool := false) : State :=
  match portOf s pa with
  | none => s
  | some (p, _) => if (s.port p).retired then s else writeHeld (takeEntry s p (lineOf pa)) pa bs bad

/-- A request of a line waits at its port (15 R400, R401, R403): behind others of the line, for its entry's drain, or for a
free entry. -/
def portBusy (s : State) (p line : Nat) : Bool :=
  let es := (s.port p).entries
  es.any (fun e => e.line == line && (!e.pend.isEmpty || e.state == 3)) || (decide (64 ≤ es.length) && (entryOf s p line).isNone)

/-- Bytes written inside one line, with their mark: at once, or behind what they wait for (15 R401, R406). -/
def portWrite (s : State) (pa : Nat) (bs : List Byte) (bad : Bool := false) : State :=
  match portOf s pa with
  | none => s
  | some (p, _) =>
    let pt := s.port p
    if !pt.retired && (pt.arr.any (fun r => lineOf r.pa == lineOf pa) || portBusy s p (lineOf pa)) then
      s.setPort p { pt with arr := pt.arr ++ [.write pa bs bad] }
    else applyWrite s pa bs bad

/-- Bytes written to device memory, line by line; fuel at least their number. -/
def devWriteGo : Nat → State → Nat → List Byte → State
  | 0, s, _, _ => s
  | _ + 1, s, _, [] => s
  | n + 1, s, pa, bs =>
    let k := 64 - pa % 64
    devWriteGo n (portWrite s pa (bs.take k)) (pa + k) (bs.drop k)

/-- Bytes written to device memory. -/
def devWrite (s : State) (pa : Nat) (bs : List Byte) : State := devWriteGo bs.length s pa bs

/-- n bytes of a value stored little-endian in device memory. -/
def devWriteLE (s : State) (pa n v : Nat) : State := devWrite s pa (leBytes v n)

/-- The lines a range of device memory touches. -/
def linesIn (pa n : Nat) : List Nat := (List.range (lineOf (pa + n - 1) + 1 - lineOf pa)).map (lineOf pa + ·)

/-- Some line of the range is poisoned. -/
def devPoisoned (s : State) (pa n : Nat) : Bool := (linesIn pa n).any (linePoisoned s)

/-- An entry of a log in device memory; none while its base is 0 (18 R495). Answers the log after it. -/
def logWrite (s : State) (lg : LogPtr) (size count : Nat) (bs : List Byte) : State × LogPtr :=
  if lg.base = 0 then (s, lg)
  else (devWrite s (lg.base + size * lg.head) bs, { lg with head := (lg.head + 1) % count })

/-- 15 R413: an entry of a die's port event log. -/
def portLog (s : State) (kind p bank wher : Nat) : State :=
  let die := p / 96
  let bs := leBytes kind 1 ++ leBytes die 1 ++ leBytes (p % 96) 1 ++ leBytes bank 1 ++ leBytes wher 4 ++ leBytes s.now 8
  let (s', lg) := logWrite s (Tab.get {} s.mplog die) 16 1024 bs
  { s' with mplog := Tab.set s'.mplog die lg }

/-- 18 R492: an entry of the soft-error log. -/
def softLog (s : State) (kind p bank wher : Nat) : State :=
  let bs := leBytes kind 1 ++ leBytes (p / 96) 1 ++ leBytes (p % 96) 1 ++ leBytes bank 1 ++ leBytes wher 4 ++ leBytes s.now 8
  let (s', lg) := logWrite s s.selog 16 4096 bs
  { s' with selog := lg }

/-- 15 R405: a line is delivered poisoned: counted, and logged as uncorrectable; a retired channel's is counted alone (R411;
log 43). -/
def deliverPoisoned (s : State) (p co : Nat) : State :=
  let s := countUe s p
  if (s.port p).retired then s else portLog s 1 p (bankOf co) (co / 64)

/-- 15 R405, R413: a fill returns; a poisoned line is delivered so, and logged. -/
def fillNow (s : State) (p line : Nat) : State :=
  let bad := linePoisoned s line && (entryOf s p line).isSome && !readSeen s p line
  let s := returnFill s p line
  match portOf s (line * 64) with
  | some (_, co) => if bad && !(s.port p).retired then portLog s 1 p (bankOf co) (co / 64) else s
  | none => s

/-- 15 R400: a full queue whose entries all fill gives one up after its fill. -/
def fillFirst (s : State) (p line : Nat) : State :=
  let es := (s.port p).entries
  if es.length < 64 || (entryOf s p line).isSome || es.any fun e => e.state != 2 then s
  else match es with
    | e :: _ => fillNow s p e.line
    | [] => s

/-- A line fill joins its bank's order; one whose read has been made at the port has joined it (15 R399). -/
def bankFill (s : State) (p line : Nat) : State := if readSeen s p line then s else bankEnqueue s line 2

/-- 15 R401: a request arrives and is applied: a write at once; an atomic after the fill it starts when its word is not wholly
valid. A retired channel takes no entry (R411). -/
def applyReq (s : State) : PReq → State
  | .write pa bs bad => match portOf s pa with
    | none => s
    | some (p, _) => applyWrite (if (s.port p).retired then s else fillFirst s p (lineOf pa)) pa bs bad
  | .atomic pa n op v v2 src =>
    match portOf s pa with
    | none => s
    | some (p, _) =>
      let line := lineOf pa
      if (s.port p).retired then applyHeld s (.atomic pa n op v v2 src)
      else
        let s := takeEntry (fillFirst s p line) p line
        applyHeld (if wordValid s pa n then s else fillNow (bankFill s p line) p line) (.atomic pa n op v v2 src)

/-- 15 R402: the requests pending on a line are applied in arrival order, the fill they wait for with them. -/
def settleLine (s : State) (line : Nat) : State :=
  match portOf s (line * 64) with
  | none => s
  | some (p, _) =>
    let mine := fun (r : PReq) => lineOf r.pa == line
    let s := match entryOf s p line with
      | some e => if e.pend.isEmpty then s else fillNow s p line
      | none => s
    let arr := (s.port p).arr
    if arr.any mine then (arr.filter mine).foldl applyReq (s.setPort p { s.port p with arr := arr.filter fun r => !mine r }) else s

/-- The requests pending on the lines of a range are applied (15 R402). -/
def settleRange (s : State) (pa n : Nat) : State := (linesIn pa n).foldl settleLine s

/-- A value of device memory as a read of it at its port would find it, the state as it stands (15 R402). -/
def devView (s : State) (pa n : Nat) : Nat := (settleRange s pa n).dev.readLE pa n

/-- An atomic operation inside one line, applied at once behind those pending; its old value, or `none` over a poisoned line
(15 R401, R404). -/
def portAtomic (s : State) (pa n op v v2 : Nat) : State × Option Nat :=
  let s := settleLine s (lineOf pa)
  let old := if atomicBad s pa n then none else some (s.dev.readLE pa n)
  (applyReq s (.atomic pa n op v v2 none), old)

/-! ### The L2 slices (15 R397) -/

/-- Lines a slice holds: 768 KiB (15 R397). -/
def sliceLines : Nat := 12288

/-- Bit 8 of a line's channel offset: its slice of the port (15 R397). -/
def sliceOf (s : State) (line : Nat) : Nat :=
  match portOf s (line * 64) with
  | some (_, co) => co / 256 % 2
  | none => 0

/-- A read that misses allocates its line in its slice; a full slice replaces some line (log 8). -/
def allocLine (s : State) (p line : Nat) : State :=
  let pt := s.port p
  let same := pt.slices.filter fun l => sliceOf s l == sliceOf s line
  if same.length < sliceLines then s.setPort p { pt with slices := line :: pt.slices }
  else
    let (k, s) := s.choose same.length
    s.setPort p { s.port p with slices := line :: pt.slices.filter fun l => l != same.getD k 0 }

/-- 15 R397, R402, R405: a line read: a slice answers it for a cacheable page, or allocates it on a miss; a miss and a bypassing
read join the bank's order, unless a write-queue entry holds the whole line, and are counted when the line is poisoned. -/
def noteRead (s : State) (pa : Nat) (uncached : Bool) : State :=
  match portOf s pa with
  | none => s
  | some (p, co) =>
    let line := lineOf pa
    if !uncached && (s.port p).slices.contains line then s
    else
      let s := if uncached then s else allocLine s p line
      if readSeen s p line then takeSeen s p line
      else if wholeEntry s p line then s
      else
        let s := bankEnqueue s line 0
        if linePoisoned s line then deliverPoisoned s p co else s

/-- The lines of a range with their pending requests applied and their reads noted (15 R402). -/
def devTouch (s : State) (pa n : Nat) (uncached : Bool) : State :=
  (linesIn pa n).foldl (fun s l => noteRead (settleLine s l) (l * 64) uncached) s

/-! ### What happens at a port -/

/-- 15 R405: the array answers a read of a line with some words corrected (`err` up to 8) or an uncorrectable error (9 or more),
which poisons it; a line poisoned before is delivered so again. -/
def arrayRead (s : State) (p co line err : Nat) : State :=
  let s := if 9 ≤ err then addPoison s line else s
  if linePoisoned s line then deliverPoisoned s p co
  else s.setPort p { s.port p with ce := satTo (2 ^ 32 - 1) (s.port p).ce err }

/-- A read's new errors in the soft-error log: corrected, or uncorrected (18 R492). -/
def softRead (s : State) (p co line err : Nat) : State :=
  if 9 ≤ err then softLog s 1 p (bankOf co) (co / 64)
  else if err = 0 || linePoisoned s line then s
  else softLog s 0 p (bankOf co) (co / 64)

/-- 15 R407: the tracking table after an activation of a row, and the row's count. -/
def countRow (rows : List (Nat × Nat)) (row : Nat) : List (Nat × Nat) × Nat :=
  match rows.find? fun rc => rc.1 == row with
  | some (_, c) => (rows.map fun rc => if rc.1 == row then (row, c + 1) else rc, c + 1)
  | none =>
    if rows.length < 64 then (rows ++ [(row, 1)], 1)
    else
      let low := rows.foldl (fun m rc => min m rc.2) (rows.headD (0, 0)).2
      let slot := (rows.findIdx fun rc => rc.2 == low)
      (updAt (fun _ => (row, low + 1)) rows slot, low + 1)

/-- PORT_READ (15 R402, R405): a line read reaches its port. An entry that holds the whole line answers it; else the array does,
with `err` words corrected or an uncorrectable error, after `retries` link-check failures, the fourth of which counts as
uncorrectable. The reader takes what the port has read with its next access to the line. -/
def execPortRead (port line err retries : Nat) (s : State) : Host.Outcome State Fault Refusal :=
  match portOf s (line * 64) with
  | none => .next s
  | some (p, co) =>
    if p ≠ port then .next s
    else
      let s := settleLine s line
      if wholeEntry s p line then .next s
      else
        let s := s.setPort p { s.port p with lretry := sat16 (s.port p).lretry (min retries 3) }
        let err := if 4 ≤ retries then 9 else err
        let s := softRead (arrayRead (bankEnqueue s line 0) p co line err) p co line err
        .next (s.setPort p { s.port p with seen := line :: (s.port p).seen.filter (· != line) })

/-- PORT_WRITE (15 R401): the oldest request waiting at a port, a write, is applied once nothing holds it back. -/
def execPortWrite (port : Nat) (s : State) : Host.Outcome State Fault Refusal :=
  let pt := s.port port
  match pt.arr with
  | .write pa bs bad :: rest =>
    if portBusy s port (lineOf pa) then .next s else .next (applyWrite (s.setPort port { pt with arr := rest }) pa bs bad)
  | _ => .next s

/-- PORT_ATOMIC (15 R401): the oldest request waiting at a port, an atomic, joins its entry's pending list, at most 16, and
starts a fill when its word is not wholly valid; with a valid word and nothing before it, it is applied. -/
def execPortAtomic (port : Nat) (s : State) : Host.Outcome State Fault Refusal :=
  let pt := s.port port
  match pt.arr with
  | .atomic pa n op v v2 src :: rest =>
    let line := lineOf pa
    let pend : List PReq := match entryOf s port line with | some e => e.pend | none => []
    if 16 ≤ pend.length || (pend.isEmpty && portBusy s port line) then .next s
    else
      let s := s.setPort port { pt with arr := rest }
      if pend.isEmpty && (wordValid s pa n || pt.retired) then .next (applyReq s (.atomic pa n op v v2 src))
      else
        let s := updEntry (takeEntry s port line) port line fun e =>
          { e with pend := e.pend ++ [.atomic pa n op v v2 src], state := 2, last := s.now }
        .next (if pend.isEmpty then bankFill s port line else s)
  | _ => .next s

/-- A bank has not served the line's request of a kind yet (15 R399). -/
def bankHolds (s : State) (p line kind : Nat) : Bool :=
  match portOf s (line * 64) with
  | none => false
  | some (_, co) => (Tab.get {} (s.port p).banks (bankOf co)).queue.any fun r => r.line == line && r.kind == kind

/-- FILL_RETURN (15 R401, R404): a fill merges the array's bytes into its entry and the pending atomics are applied, oldest
first; over a poisoned line each is applied to nothing. The bank has served it (R399). -/
def execFillReturn (port line : Nat) (s : State) : Host.Outcome State Fault Refusal :=
  match entryOf s port line with
  | none => .next s
  | some en => if en.state = 2 ∧ bankHolds s port line 2 = false then .next (fillNow s port line) else .next s

/-- The port needs a free entry: a request for a line not held waits at a full queue (15 R400). -/
def entryWanted (s : State) (port : Nat) : Bool :=
  decide (64 ≤ (s.port port).entries.length) && (s.port port).arr.any fun r => (entryOf s port (lineOf r.pa)).isNone

/-- ENTRY_DRAIN (15 R400, R403): an entry idle for 2 µs, or the one idle longest while the port needs a free entry, starts
writing its line. -/
def execEntryDrain (port line : Nat) (s : State) : Host.Outcome State Fault Refusal :=
  match (s.port port).entries.find? fun e => e.line == line && e.state == 1 with
  | none => .next s
  | some en =>
    let first := match idlest (s.port port).entries with | some e => e.line == line | none => false
    if en.last + 2000 ≤ s.now ∨ (entryWanted s port && first) = true then .next (startDrain s port line) else .next s

/-- DRAIN_DONE (15 R403): an entry's array write, which its bank has served (R399), is performed and the entry is free. -/
def execDrainDone (port line : Nat) (s : State) : Host.Outcome State Fault Refusal :=
  .next (if bankHolds s port line 1 then s else endDrain s port line)

/-- BANK_ACTIVATE (15 R399, R407, R409): a bank serves its head request: from the open row, or by activating the request's
row, which is counted; a count that reaches THR is logged, the row closed, refresh management issued and the count cleared. -/
def execBankActivate (port bank : Nat) (s : State) : Host.Outcome State Fault Refusal :=
  let pt := s.port port
  let b := Tab.get {} pt.banks bank
  match b.queue with
  | [] => .next s
  | r :: rest =>
    match portOf s (r.line * 64) with
    | none => .next s
    | some (_, co) =>
      let row := rowOf co
      if b.rfm.isSome ∨ s.now < b.busy then .next s
      else if b.openRow = some row then
        .next (s.setPort port { pt with banks := Tab.set pt.banks bank { b with queue := rest } })
      else if s.now < b.ready then .next s
      else
        let (rows, n) := countRow b.rows row
        if n < pt.thr then
          let b' := { b with queue := rest, openRow := some row, ready := s.now + 60, rows := rows }
          .next (s.setPort port { pt with banks := Tab.set pt.banks bank b' })
        else
          let b' := { b with
            queue := rest, openRow := none, ready := s.now + 270
            rows := rows.map (fun rc => if rc.1 == row then (row, 0) else rc)
            rfm := some (s.now + 270)
            rfmWait := if rest.isEmpty then none else some (s.now + 60) }
          let s := s.setPort port { pt with
            banks := Tab.set pt.banks bank b', alerts := sat16 pt.alerts 1, rfms := sat16 pt.rfms 1 }
          .next (portLog s 0 port bank row)

/-- RFM_WINDOW_END (15 R410): a refresh-management window ends; the wait of the head request is counted as back-off. -/
def execRfmWindowEnd (port bank : Nat) (s : State) : Host.Outcome State Fault Refusal :=
  let pt := s.port port
  let b := Tab.get {} pt.banks bank
  match b.rfm with
  | none => .next s
  | some fin =>
    if s.now < fin then .next s
    else
      let b' := { b with rfm := none, rfmWait := none }
      let pt := { pt with banks := Tab.set pt.banks bank b' }
      .next (s.setPort port (match b.rfmWait with
        | none => pt
        | some t => { pt with bocnt := sat16 pt.bocnt 1, boff := min (pt.boff + (fin - max t (fin - 210))) (2 ^ 64 - 1) }))

/-- REFRESH (15 R399, R416): regular refresh takes a bank for up to 120 ns in every 3,900; a refresh-management window that has not begun follows
it, and one that has is not broken. -/
def execRefresh (port bank : Nat) (s : State) : Host.Outcome State Fault Refusal :=
  let pt := s.port port
  let b := Tab.get {} pt.banks bank
  let fin := s.now + 120
  let b' : Option Bank := match b.rfm with
    | none => some { b with ready := max b.ready fin, busy := fin, refreshed := some s.now }
    | some w => if s.now < w - 210 then some { b with ready := max b.ready (fin + 210), busy := fin, rfm := some (max w (fin + 210)), refreshed := some s.now } else none
  let early := match b.refreshed with | some t => decide (s.now < t + 3900) | none => false
  match b' with
  | none => .next s
  | some b' => if early then .next s else .next (s.setPort port { pt with banks := Tab.set pt.banks bank b' })

/-- COUNT_WINDOW_END (15 R408): a bank's 32 ms window ends, its tracking table is cleared and the next begins. -/
def execCountWindowEnd (port bank : Nat) (s : State) : Host.Outcome State Fault Refusal :=
  let pt := s.port port
  let b := Tab.get {} pt.banks bank
  if s.now < b.window + 32000000 then .next s
  else .next (s.setPort port { pt with banks := Tab.set pt.banks bank { b with rows := [], window := b.window + (s.now - b.window) / 32000000 * 32000000 } })

/-- 15 R411: a channel is retired: its queue is discarded, each pending ATOMNR's fault is held, the event is logged. -/
def retireChannel (s : State) (port : Nat) : State :=
  let pt := s.port port
  if pt.retired then s
  else
    let pend := pt.entries.flatMap PEntry.pend ++ pt.arr
    let s := s.setPort port { pt with retired := true, entries := [], arr := [] }
    let s := pend.foldl (fun s r => match r with
      | .atomic _ _ _ _ _ src => atomDone s src true
      | .write .. => s) s
    portLog s 2 port 0 0

/-- CHANNEL_RETIRE (15 R411): a channel with more than 16 UE lines within one second is retired, and one whose link retraining
has failed, of which a free value tells. -/
def execChannelRetire (port : Nat) (s : State) : Host.Outcome State Fault Refusal :=
  if 16 < ((s.port port).ueTimes.filter fun t => decide (s.now < t + 1000000000)).length then .next (retireChannel s port)
  else
    let (k, s) := s.choose 2
    .next (if k = 1 then retireChannel s port else s)

/-- PATROL_SCRUB (18 R492): the patrol reads a line of a live channel, counted as any read of its port (15 R405): a line with corrected words is
written back through the write queue and logged, an uncorrectable one is poisoned and logged. -/
def execPatrolScrub (port line err : Nat) (s : State) : Host.Outcome State Fault Refusal :=
  match portOf s (line * 64) with
  | none => .next s
  | some (p, co) =>
    if p ≠ port ∨ (s.port p).retired = true then .next s
    else
      let s := settleLine s line
      if wholeEntry s p line then .next s
      else
        let s := arrayRead (bankEnqueue s line 0) p co line err
        if linePoisoned s line then .next (softLog s 1 p (bankOf co) (co / 64))
        else if err = 0 then .next s
        else .next (softLog (portWrite s (line * 64) (s.dev.bytes (line * 64) 64)) 2 p (bankOf co) (co / 64))

end Sys2Proof.Machine
end

