-- ==== Sys2Proof/Machine/Ops.lean ====
section
/-! DEFINITION. The shared operations: address spaces, translation and access checks (spec 04 R85-R102, 18 R488), memory
accesses of a core, barrier levels (06 R172-R176), taking an exception, failing a thread and returning (06 R180-R189). -/

namespace Sys2Proof.Machine

/-- Why an operation does not complete now: it waits at its boundary (05 R122, 06 R160), or it faults with a code at an address.
`seen` is the state with what the faulting access leaves behind, none where that is nothing: the translations it made, the reads
that reached their ports, an atomic over a poisoned line, another package's answer (04 R95, 15 R397, R401, R405). -/
inductive Exc where
  | wait
  | flt (code : Code) (addr : W64) (seen : Option State := none)
  deriving DecidableEq, Repr

/-- An operation that completes, waits or faults. -/
abbrev X := Except Exc

/-- Access kinds of a translation (04 R95). -/
inductive Kind where
  | read | write | fetch
  deriving DecidableEq, Repr

/-- The size of a core's scratchpad (04 R85). -/
def spadSize : Nat := 0x400000

/-- 04 R87: the first scratchpad address the carve holds. -/
def carveBase (ways : Nat) : Nat := spadSize - 0x40000 * ways

/-- Word i of a context's descriptor (17 R455). -/
def ctxWord (s : State) (ctx i : Nat) : W64 := BitVec.ofNat 64 (devView s (s.ctxtab + 64 * ctx + 8 * i) 8)

/-- 17 R455: the context exists. -/
def ctxLive (s : State) (ctx : Nat) : Bool :=
  decide (0 < ctx) && decide (ctx < 4096) && decide (s.ctxtab ≠ 0) && (ctxWord s ctx 0).getLsbD 7

/-- A grant bit of a context's descriptor (17 R455): 6 HOSTC, 5 TIMEC, 4 CARVEC, 3 SWAPC, 2 MSAVEC. -/
def ctxGrant (s : State) (ctx bit : Nat) : Bool := ctxLive s ctx && (ctxWord s ctx 0).getLsbD bit

/-- A context's descriptor read: its line reaches its slice and port (15 R397, R402), and a poisoned one raises FLT_UNCORR (15
R406; log 43). -/
def readDesc (s : State) (ctx : Nat) : State × Option Code :=
  if s.ctxtab = 0 ∨ 4096 ≤ ctx then (s, none)
  else
    let a := s.ctxtab + 64 * ctx
    let s := devTouch s a 64 false
    (s, if devPoisoned s a 64 then some fltUncorr else none)

/-- A grant bit read in a context's descriptor. -/
def readGrant (s : State) (ctx bit : Nat) : X (State × Bool) :=
  match readDesc s ctx with
  | (s, none) => .ok (s, ctxGrant s ctx bit)
  | (s, some c) => .error (.flt c 0 s)

/-- The physical address of a context's level-1 table (17 R455). -/
def ctxRoot (s : State) (ctx : Nat) : Nat := bitsAt (ctxWord s ctx 1) 15 37 <<< 15

/-- 04 R93: the index of an offset at a level. -/
def ptIndex (off lvl : Nat) : Nat :=
  match lvl with
  | 1 => off / 2 ^ 39 % 4096
  | 2 => off / 2 ^ 30 % 512
  | 3 => off / 2 ^ 21 % 512
  | _ => off / 2 ^ 16 % 32

/-- 04 R93: the size of the page a leaf at a level maps. -/
def pageSize (lvl : Nat) : Nat := match lvl with | 2 => 2 ^ 30 | 3 => 2 ^ 21 | _ => 2 ^ 16

/-- 04 R93: the size of the table a pointer at a level names. -/
def tableSize (lvl : Nat) : Nat := match lvl with | 1 => 4096 | 2 => 4096 | _ => 256

def pteValid (e : W64) : Bool := e.getLsbD 63
def pteKind (e : W64) : Nat := bitsAt e 61 2
def pteTgt (e : W64) : Nat := bitsAt e 59 2
def ptePa (e : W64) : Nat := bitsAt e 8 44 * 256
def pteCa (e : W64) : Nat := bitsAt e 3 2

/-- 04 R94, R95: the checks of a leaf for an access: `none` passes. -/
def leafFault (s : State) (e : W64) (lvl : Nat) (kind : Kind) : Option Code :=
  if ptePa e % pageSize lvl ≠ 0 ∨ pteTgt e > 1 ∨ pteCa e = 3 ∨ (pteTgt e = 1 ∧ pteCa e ≠ 2) ∨ e.getLsbD 2 = true then
    some fltXlate
  else if pteTgt e = 0 ∧ devMapped s (ptePa e) (pageSize lvl) = false then some fltXlate
  else if kind = .write ∧ e.getLsbD 7 = false then some fltAccess
  else if kind = .fetch ∧ e.getLsbD 6 = false then some fltAccess
  else none

/-- 04 R95: a walk from a table at a level: the entry's address, the leaf and its level; `fuel` the levels left. Its reads
reach their slices and ports (15 R397, R402), a poisoned entry raises FLT_UNCORR (15 R406), and a table outside device memory
FLT_XLATE (log 43). -/
def walkGo (off : Nat) (kind : Kind) : Nat → State → Nat → Nat → State × Except Code (Nat × W64 × Nat)
  | 0, s, _, _ => (s, .error fltXlate)
  | fuel + 1, s, lvl, t =>
    let a := t + 8 * ptIndex off lvl
    if !devMapped s a 8 then (s, .error fltXlate)
    else
      let s := devTouch s a 8 false
      let e := BitVec.ofNat 64 (s.dev.readLE a 8)
      if devPoisoned s a 8 then (s, .error fltUncorr)
      else if !pteValid e || bitsAt e 52 7 != 0 then (s, .error fltXlate)
      else if pteKind e = 1 ∧ 2 ≤ lvl then
        match leafFault s e lvl kind with
        | some c => (s, .error c)
        | none => (s, .ok (a, e, lvl))
      else if pteKind e ≠ 0 ∨ pteTgt e ≠ 0 ∨ lvl = 4 ∨ ptePa e % tableSize lvl ≠ 0 then (s, .error fltXlate)
      else walkGo off kind fuel s (lvl + 1) (ptePa e)

/-- 04 R94: A, and M for a write. -/
def leafBits (kind : Kind) : W64 := if kind = .write then 3 else 2

/-- 04 R94: the leaf with A set, and M for a write. -/
def leafMarked (e : W64) (kind : Kind) : W64 := e ||| leafBits kind

/-- 04 R95: a walk with its atomic OR of A and M into the leaf, applied at the leaf's port (operation 7 of 05 R144). What it
has read stands when it faults. -/
def walk (s : State) (ctx off : Nat) (kind : Kind) : State × Except Code (W64 × Nat) :=
  match readDesc s ctx with
  | (s, some c) => (s, .error c)
  | (s, none) => match walkGo off kind 4 s 1 (ctxRoot s ctx) with
    | (s, .error c) => (s, .error c)
    | (s, .ok (a, e, lvl)) =>
      let e' := leafMarked e kind
      (if e' = e then s else (portAtomic s a 8 7 (leafBits kind).toNat 0).1, .ok (e', lvl))

/-- 04 R96: the translation-cache entries of a cluster. -/
def tlbOf (s : State) (cl : Nat) : List TlbEntry := Tab.get [] s.tlb cl

/-- 04 R96: an entry translates an offset of a context, or of any when its leaf is global. -/
def TlbEntry.hits (en : TlbEntry) (ctx off : Nat) : Bool :=
  (en.ctx == ctx || en.leaf.getLsbD 5) && en.page == off / pageSize en.lvl * pageSize en.lvl

/-- 04 R96: entries a translation cache holds. -/
def tlbSize : Nat := 4096

/-- 04 R96: a walk's leaf enters the cluster's cache; a full cache replaces some entry. -/
def tlbInsert (s : State) (cl : Nat) (en : TlbEntry) : State :=
  let es := tlbOf s cl
  if es.length < tlbSize then { s with tlb := Tab.set s.tlb cl (en :: es) }
  else
    let (k, s) := s.choose es.length
    { s with tlb := Tab.set s.tlb cl (en :: removeAt es k) }

/-- 04 R95, R96: a walk whose leaf enters a cluster's cache; one that faults leaves no entry. -/
def walkInto (s : State) (cl ctx off : Nat) (kind : Kind) : State × Except Code (W64 × Nat) :=
  match walk s ctx off kind with
  | (s, .error c) => (s, .error c)
  | (s, .ok (e, lvl)) => (tlbInsert s cl ⟨ctx, off / pageSize lvl * pageSize lvl, lvl, e⟩, .ok (e, lvl))

/-- 04 R95, R96: translation of an offset, through a cluster's cache or, for a die's or the hub's engines, by a walk. A
cached leaf that would fault, or lacks M for a write, is discarded and walked once more. -/
def xlate (s : State) (cl : Option Nat) (ctx off : Nat) (kind : Kind) : State × Except Code (W64 × Nat) :=
  match cl with
  | none => walk s ctx off kind
  | some c =>
    let good := fun (en : TlbEntry) => (leafFault s en.leaf en.lvl kind).isNone && leafMarked en.leaf kind == en.leaf
    match (tlbOf s c).find? fun en => en.hits ctx off with
    | some en =>
      if good en then (s, .ok (en.leaf, en.lvl))
      else walkInto { s with tlb := Tab.set s.tlb c ((tlbOf s c).filter fun x => !x.hits ctx off) } c ctx off kind
    | none => walkInto s c ctx off kind

/-- The number of an access-table target (18 R486 ACCSET): kind, die, unit and unit's place. -/
def targetKey (tkind die unit place : Nat) : Nat := ((tkind * 2 + die) * 128 + unit) * 128 + place

/-- An entry of a target's access table (18 R488). -/
def accessEntry (s : State) (target ctx : Nat) : W64 := Tab.get 0 s.access (4096 * target + ctx)

/-- 18 R488: a unit may read or write a target. Unit 0 is the A-stream, 1 instruction fetch, 2 + id an engine. -/
def mayAccess (s : State) (target ctx unit : Nat) (kind : Kind) : Bool :=
  (accessEntry s target ctx).getLsbD (unit + (if kind = .write then 16 else 0))

/-- 18 R488: a unit may push commands to a target. -/
def mayCommand (s : State) (target ctx unit : Nat) : Bool := (accessEntry s target ctx).getLsbD (unit + 32)

/-- Bytes of device memory lie in the health page, which only the supervisor writes (18 R490). -/
def inHealth (s : State) (pa n : Nat) : Bool := s.health != 0 && decide (pa < s.health + 1504) && decide (s.health < pa + n)

/-- A context's write to a place is refused: it lies in the health page (18 R490; log 43). -/
def healthDenied (s : State) (kind : Kind) (n : Nat) : Loc → Bool
  | .dev pa _ => kind == .write && inHealth s pa n
  | _ => false

/-- 04 R102: where a request meets its data: the slice pair of a cached page's port, the port itself, or the host interface. -/
def targetOf (s : State) : Loc → Option Nat
  | .dev pa ca => match portOf s pa with
    | some (p, _) => some (targetKey (if ca = 2 then 1 else 0) (p / 96) (p % 96) 0)
    | none => none
  | .host _ => some (targetKey 3 0 0 0)
  | _ => none

/-- The access-table target of an engine's queue (18 R486): the engine id, its die and its place in the die. -/
def engineTarget (eng core : Nat) : Nat :=
  if eng ≤ 2 then targetKey 2 (dieOf core) eng (core % 128)
  else if eng ≤ 4 then targetKey 2 (dieOf core) eng (clusterOf core % 16)
  else if eng ≤ 8 ∨ eng = 11 then targetKey 2 (dieOf core) eng 0
  else targetKey 2 0 eng 0

/-- Who issues an access: its core (for a scratchpad), context, access-table unit and translation cache. -/
structure Who where
  core : Option Nat
  ctx : Nat
  unit : Nat
  cl : Option Nat
  /-- A refill that MAT asked for, which meets no held bank group (09 R241). -/
  exempt : Bool
  deriving DecidableEq, Repr

/-- The A-stream of a core's thread. -/
def whoA (core ctx : Nat) : Who := ⟨some core, ctx, 0, some (clusterOf core), false⟩

/-- 09 R241: the scratchpad bank group of an address is held against the access. -/
def bankRefused (s : State) (core off : Nat) (kind : Kind) : Bool :=
  let g := off / 0x80000
  let k := s.core core
  k.heldW.getLsbD g || (kind = .write && k.heldR.getLsbD g)

/-- 17 R461: an A-stream access through the carve waits while its core's exchange is under way. -/
def carveWaits (s : State) (w : Who) : Loc → Bool
  | .dev _ ca => match w.core with
    | some c => w.unit == 0 && ca == 0 && (s.core c).ways != 0 && (s.core c).gate
    | none => false
  | _ => false

/-- 04 R85-R89, R95, R102: one access inside a line: its place, or its fault. An engine without a scratchpad raises
FLT_ACCESS for a scratchpad address (R88). The FLT_UNCORR of a thread's walk names no address (06 R187). -/
def locate (s : State) (w : Who) (ea : W64) (n : Nat) (kind : Kind) : X (State × Loc) :=
  let a := ea.toNat
  if a < spadSize then
    match w.core with
    | none => .error (.flt fltAccess ea)
    | some c =>
      if decide (w.unit ≤ 1) && (s.core c).gate then .error .wait
      else if carveBase (s.core c).ways < a + n then .error (.flt fltAccess ea)
      else if !w.exempt && bankRefused s c a kind then .error (.flt fltBankConflict ea)
      else .ok (s, .spad (spadSize * c + a))
  else if 2 ^ 57 ≤ a then .error (.flt fltXlate ea)
  else
    let pk := a / 2 ^ 51
    let off := a % 2 ^ 51
    if pk ≠ s.pkg.toNat then
      if s.indom = false ∨ s.unreach.getLsbD pk = true then .error (.flt fltRemote ea)
      else if off < spadSize then .error (.flt fltXlate ea)
      else .ok (s, .remote a)
    else if off < spadSize then .error (.flt fltXlate ea)
    else match xlate s w.cl w.ctx off kind with
      | (s, .error c) => .error (.flt c (if c = fltUncorr ∧ w.unit ≤ 1 then 0 else ea) s)
      | (s, .ok (e, lvl)) =>
        let pa := ptePa e + off % pageSize lvl
        let loc := if pteTgt e = 1 then Loc.host pa else .dev pa (pteCa e)
        match targetOf s loc with
        | some t =>
          if !mayAccess s t w.ctx w.unit kind || healthDenied s kind n loc then .error (.flt fltAccess ea s)
          else if carveWaits s w loc then .error .wait
          else .ok (s, loc)
        | none => .error (.flt fltXlate ea s)

/-- The pieces of an access: itself, or the four lines of a row (04 R92). -/
def pieces (ea : W64) (n : Nat) : List (W64 × Nat) :=
  if n ≤ 64 then [(ea, n)] else (List.range (n / 64)).map fun i => (ea + BitVec.ofNat 64 (64 * i), 64)

/-- The alignment of an access of n bytes: its size, or 64 for a row (04 R92). -/
def alignOf (n : Nat) : Nat := if n ≤ 8 then n else 64

/-- Every piece of an access located, in order. -/
def locateAll (s : State) (w : Who) (kind : Kind) : List (W64 × Nat) → X (State × List (Loc × Nat))
  | [] => .ok (s, [])
  | (ea, n) :: ps =>
    match locate s w ea n kind with
    | .error e => .error e
    | .ok (s, l) => match locateAll s w kind ps with
      | .error e => .error e
      | .ok (s, ls) => .ok (s, (l, n) :: ls)

/-- 04 R92, R87, R95, R102 (05 R139): alignment, carve, translation and access of an access. -/
def resolve (s : State) (w : Who) (ea : W64) (n : Nat) (kind : Kind) : X (State × List (Loc × Nat)) :=
  if ea.toNat % alignOf n ≠ 0 then .error (.flt fltAlign ea) else locateAll s w kind (pieces ea n)

/-- Some line of a place is poisoned (15 R406). -/
def locPoisoned (s : State) : Loc → Nat → Bool
  | .dev pa _, n => devPoisoned s pa n
  | .spad k, n => s.spadPoison.any fun b => (linesIn k n).contains (b / 64)
  | _, _ => false

/-- A place's bytes read, with the reads its port sees. -/
def readLoc (s : State) (n : Nat) : Loc → State × List Byte
  | .spad k => (s, s.spad.bytes k n)
  | .dev pa ca =>
    let s := devTouch s pa n (ca == 2)
    (s, s.dev.bytes pa n)
  | .host pa => (s, s.host.bytes pa n)
  | .remote k => (s, s.remote.bytes k n)

/-- A place's bytes written; those of the scratchpad lose their mark. -/
def writeLoc (s : State) (bs : List Byte) : Loc → State
  | .spad k => { s with
      spad := s.spad.writeBytes k bs
      spadPoison := if s.spadPoison.isEmpty then [] else s.spadPoison.filter fun b => !(decide (k ≤ b) && decide (b < k + bs.length)) }
  | .dev pa _ => devWrite s pa bs
  | .host pa => { s with host := s.host.writeBytes pa bs }
  | .remote k => { s with remote := s.remote.writeBytes k bs }

/-- The bytes of located pieces, whose reads all reach their ports. -/
def readLocs (s : State) : List (Loc × Nat) → State × List Byte
  | [] => (s, [])
  | (l, n) :: ls =>
    let (s, bs) := readLoc s n l
    let (s, rest) := readLocs s ls
    (s, bs ++ rest)

/-- The bytes of located pieces; FLT_UNCORR with the faulting address `ea` when one is poisoned (15 R406). -/
def readAll (s : State) (ea : W64) (ls : List (Loc × Nat)) : X (State × List Byte) :=
  let (s, bs) := readLocs s ls
  if ls.any fun l => locPoisoned s l.1 l.2 then .error (.flt fltUncorr ea s) else .ok (s, bs)

/-- Bytes written to located pieces. -/
def writeAll (s : State) : List (Loc × Nat) → List Byte → State
  | [], _ => s
  | (l, n) :: ls, bs => writeAll (writeLoc s (bs.take n) l) ls (bs.drop n)

/-! ### Threads' writes into a live tree's pool (13 R363) -/

/-- The fields of a search-tree node: first byte and bytes (13 R347). -/
def nodeFields : List (Nat × Nat) :=
  [(0, 4), (4, 4), (8, 2), (10, 2), (12, 4), (16, 2), (18, 2), (20, 4), (24, 4), (28, 4)]

/-- The node and field of a tree's pool that a byte of device memory lies in, as the pool's pages stand. -/
def Tree.fieldAt (s : State) (t : Tree) (pa : Nat) : Option (Nat × Nat) :=
  let base := (t.words.getD 0 0).toNat % 2 ^ 51
  let x := (t.words.getD 1 0).toNat
  let fin := base + 32 * (x % 2 ^ 32 * 2 ^ (x / 2 ^ 32 % 16))
  let first := base / 2 ^ 16
  (List.range ((fin + 65535) / 2 ^ 16 - first)).findSome? fun i =>
    let va := 2 ^ 16 * (first + i)
    match walkGo va .read 4 s 1 (ctxRoot s t.ctx) with
    | (_, .error _) => none
    | (_, .ok (_, e, lvl)) =>
      let page := ptePa e + va % pageSize lvl
      let o := va + (pa - page)
      if pteTgt e = 0 ∧ page ≤ pa ∧ pa < page + 2 ^ 16 ∧ base ≤ o ∧ o < fin then
        some ((o - base) / 32, nodeFields.findIdx fun f => decide (f.1 ≤ (o - base) % 32) && decide ((o - base) % 32 < f.1 + f.2))
      else none

/-- A thread's write of located pieces: each live tree notes the fields of its nodes that it meets (13 R363). -/
def noteWrites (s : State) (ls : List (Loc × Nat)) : State :=
  let bytes := ls.flatMap fun l => match l.1 with | .dev pa _ => (List.range l.2).map (pa + ·) | _ => []
  { s with trees := s.trees.map fun kv =>
      if kv.2.live then (kv.1, { kv.2 with hits := (kv.2.hits ++ bytes.filterMap (kv.2.fieldAt s)).eraseDups }) else kv }

/-- 04 R99: what another package answers to an access made in one act: it performs it, or finds no translation, denies it, or
holds no live context of that id; a free value tells (log 22). -/
def remoteAnswer (s : State) (ea : W64) (ls : List (Loc × Nat)) : X State :=
  if ls.any fun l => match l.1 with | .remote _ => true | _ => false then
    let (k, s) := s.choose 4
    match k with
    | 0 => .ok s
    | 1 => .error (.flt fltXlate ea s)
    | 2 => .error (.flt fltAccess ea s)
    | _ => .error (.flt fltRemote ea s)
  else .ok s

/-- An access resolved that is made in one act. -/
def resolveNow (s : State) (w : Who) (ea : W64) (n : Nat) (kind : Kind) : X (State × List (Loc × Nat)) :=
  match resolve s w ea n kind with
  | .error e => .error e
  | .ok (s, ls) => match remoteAnswer s ea ls with
    | .error e => .error e
    | .ok s => .ok (s, ls)

/-- A read of n bytes that checks and reads in one act. -/
def readMem (s : State) (w : Who) (ea : W64) (n : Nat) : X (State × List Byte) :=
  match resolveNow s w ea n .read with
  | .error e => .error e
  | .ok (s, ls) => readAll s ea ls

/-- A write of bytes that checks and writes in one act. -/
def writeMem (s : State) (w : Who) (ea : W64) (bs : List Byte) : X State :=
  match resolveNow s w ea bs.length .write with
  | .error e => .error e
  | .ok (s, ls) => .ok (writeAll s ls bs)

/-! ### Barrier levels (06 R172-R176) -/

/-- The group of a core at a level: the core, its cluster, its die, or the package (06 R173). -/
def levelGroup (level core : Nat) : Nat :=
  match level with
  | 2 => core | 3 => clusterOf core | 4 => dieOf core | _ => 0

/-- The number of a context's instance at a level for a core. -/
def barKey (ctx level core : Nat) : Nat := (ctx * 16 + level) * 256 + levelGroup level core

def barInst (s : State) (key : Nat) : BarInst := Tab.get {} s.bars key

def setBar (s : State) (key : Nat) (b : BarInst) : State := { s with bars := Tab.set s.bars key b }

/-- The members of an instance in every package, and the arrivals registered (06 R173). -/
def BarInst.allMembers (b : BarInst) : Nat := b.far.foldl (fun n kv => n + kv.2.1) b.members
def BarInst.allArrivals (b : BarInst) : Nat := b.far.foldl (fun n kv => n + kv.2.2) b.arrivals

/-- The instance with no arrival registered. -/
def BarInst.cleared (b : BarInst) : BarInst := { b with arrivals := 0, far := b.far.map fun kv => (kv.1, kv.2.1, 0) }

/-- 06 R176: the instance keeps no arrival: each is lost, wherever the thread that holds it stands. -/
def BarInst.lose (b : BarInst) : BarInst := { b.cleared with lost := b.lost ++ [b.episode] }

/-- A held arrival has been lost. -/
def BarInst.hasLost (b : BarInst) (a : Arrival) : Bool := (b.lost.drop a.losses).contains a.episode

/-- 06 R173: an episode whose arrivals equal the members completes. -/
def BarInst.settle (b : BarInst) : BarInst :=
  if b.allArrivals ≠ 0 ∧ b.allArrivals = b.allMembers then { b.cleared with episode := b.episode + 1, phase := !b.phase } else b

/-- 06 R173: another package of the domain reports its members and arrivals at a context's domain instance. -/
def domainReport (s : State) (ctx pkg members arrivals : Nat) : State :=
  if s.indom = false ∨ pkg = s.pkg.toNat ∨ 64 ≤ pkg ∨ s.unreach.getLsbD pkg = true ∨ members < arrivals then s
  else
    let key := barKey ctx 9 0
    let b := barInst s key
    setBar s key { b with far := Tab.set b.far pkg (members, arrivals) }.settle

/-- The levels that have an instance (06 R173): thread level completes at once and needs none. -/
def instLevels : List Nat := [2, 3, 4, 5, 9]

/-- 06 R174: a thread leaves a level at once, withdrawing an arrival it holds there. -/
def leaveLevel (s : State) (core slot level : Nat) : State :=
  let t := s.thread core slot
  if t.domset.getLsbD level then
    let key := barKey t.ctx level core
    let b := barInst s key
    let mine := match t.arrival with
      | some a => a.level == level && a.episode == b.episode && !b.hasLost a
      | none => false
    let b := { b with members := b.members - 1, arrivals := if mine then b.arrivals - 1 else b.arrivals }
    let t := { t with
      domset := t.domset &&& ~~~(BitVec.twoPow 10 level)
      arrival := if (match t.arrival with | some a => a.level == level | none => false) then none else t.arrival }
    (setBar s key b.settle).setThread core slot t
  else s

/-- HALT, retirement and failure leave every level (06 R174). -/
def leaveLevels (s : State) (core slot : Nat) : State := instLevels.foldl (fun s l => leaveLevel s core slot l) s

/-- 06 R174: a thread becomes a member of a level's instance. -/
def joinLevel (s : State) (core slot level : Nat) : State :=
  let t := s.thread core slot
  if t.domset.getLsbD level then s
  else
    let key := barKey t.ctx level core
    let b := barInst s key
    (setBar s key { b with members := b.members + 1 }).setThread core slot { t with domset := t.domset ||| BitVec.twoPow 10 level }

/-! ### Taking an exception (06 R180-R189) -/

/-- What a trap record says of its cause (06 R187). -/
structure Cause where
  code : Code
  /-- 0 A-stream, 1 E-stream, 2 engine. -/
  stream : Nat
  async : Bool
  pc : W64
  eng : Nat := 0xFFFF
  index : Nat := 0
  status : W64 := 0
  addr : W64 := 0
  deriving DecidableEq, Repr

/-- 06 R187: the 64 bytes of a trap record. -/
def trapRecord (s : State) (core slot : Nat) (c : Cause) : List Byte :=
  let t := s.thread core slot
  leBytes t.ctx 4 ++ leBytes core 2 ++ leBytes c.stream 2 ++ leBytes c.pc.toNat 8 ++ leBytes c.code.toNat 2
    ++ leBytes c.eng 2 ++ leBytes c.index 4 ++ leBytes c.status.toNat 8 ++ leBytes c.addr.toNat 8
    ++ leBytes (bitsAt t.repidx 0 16) 2 ++ leBytes (bitsAt t.rotbase 0 16) 2 ++ leBytes s.time.toNat 8 ++ leBytes 0 12

/-- A flight lands (03 R70): its row takes its value, or stays undefined while another result to the row is in flight. -/
def landFlight (t : Thread) (k : Nat) : Thread × Bool :=
  match t.flights[k]? with
  | none => (t, false)
  | some f =>
    let rest := removeAt t.flights k
    if rest.any fun g => g.row == f.row then ({ t with flights := rest }, true)
    else
      ({ t with flights := rest, x := if h : f.row < 128 then t.x.set f.row f.val else t.x }, true)

/-- Every flight due by a clock lands, the oldest first; fuel at least the number of flights. -/
def landDue (clk : Nat) : Nat → Thread → Thread
  | 0, t => t
  | n + 1, t =>
    match t.flights.findIdx? fun f => decide (f.due ≤ clk) with
    | none => t
    | some k => landDue clk n (landFlight t k).1

/-- Every result in flight lands (03 R70: trap entry waits for them; log 16). -/
def landAll (t : Thread) : Thread :=
  let last := t.flights.foldl (fun m f => max m f.due) t.eclk
  landDue last t.flights.length { t with eclk := last }

/-- 06 R189: the thread fails: both streams stop, its store entries are discarded, every level is left; its task retires in
failure with the record's code (TASK_RETIRE), which reports the engine faults the thread still holds (R180). -/
def failThread (s : State) (core slot : Nat) (code : Code) : State :=
  let s := leaveLevels s core slot
  let t := s.thread core slot
  s.setThread core slot { t with
    failed := some code, saq := [], setAside := [], ldqAt := [], agrp := {}, egrp := {}, asleep := none, out := none
    pends := t.pends.filter fun p => !p.weak, heldUncorr := none, handUncorr := none }

/-- The record written to ctl.traprec, as the A-stream's store of 64 bytes (06 R182). -/
def writeRecord (s : State) (core slot : Nat) (c : Cause) : X State :=
  let t := s.thread core slot
  match locate s (whoA core t.ctx) t.traprec 64 .write with
  | .error e => .error e
  | .ok (s', l) => .ok (writeLoc s' (trapRecord s core slot c) l)

/-- 06 R189: the thread fails for a cause, whose record is written to ctl.traprec when that write does not itself fault; `none`
while the record waits for 17 R461. -/
def failFor (s : State) (core slot : Nat) (c : Cause) : Option State :=
  match writeRecord s core slot c with
  | .ok s' => some (failThread s' core slot c.code)
  | .error .wait => none
  | .error (.flt _ _ o) => some (failThread (o.getD s) core slot c.code)

/-- A trap entry waits: its record lies where 17 R461 holds the A-stream's accesses. -/
def trapWaits (s : State) (core slot : Nat) : Bool :=
  match writeRecord s core slot { code := 0, stream := 0, async := false, pc := 0 } with
  | .error .wait => true
  | _ => false

/-- The operation with the translation of a strong store forgotten: it is made again when the store is performed. -/
def SaOp.anew : SaOp → SaOp
  | .store e => .store { e with locs := none }
  | o => o

/-- 06 R182: trap entry with the resume PCs of R180. A handler running, no handler, or a record that cannot be written
fails the thread (R189). -/
def takeTrap (s : State) (core slot : Nat) (c : Cause) (resumeA resumeE : W64) : State :=
  let t0 := landAll (s.thread core slot)
  let s := s.setThread core slot t0
  match writeRecord s core slot c with
  | .error .wait => s
  | .error (.flt _ _ o) => failThread (o.getD s) core slot c.code
  | .ok s' =>
    if t0.inh ∨ t0.tvece = 0 then failThread s' core slot c.code
    else
      s'.setThread core slot { t0 with
        epca := resumeA &&& ~~~3, epce := resumeE &&& ~~~3
        tsavea := t0.a[30], tsavee := t0.e[30]
        tpredlo := t0.p.extractLsb' 0 64, tpredhi := t0.p.extractLsb' 64 64
        tstate := BitVec.ofNat 64 (bitsAt t0.repidx 0 16 * 65536 + bitsAt t0.rotbase 0 16)
        repidx := 0, rotbase := 0
        frozen := t0.queues, queues := {}, frozenLdq := t0.ldqRow, ldqRow := 0, ldqAt := []
        setAside := t0.saq.map SaOp.anew, saq := []
        a := t0.a.set 30 t0.traprec, e := t0.e.set 30 t0.traprec, eready := t0.eready.filter fun r => r.1 != 30
        async := c.async, inh := true, traps := t0.traps + 1, cstream := BitVec.ofNat 2 c.stream, code := c.code
        apc := t0.tveca, epc := t0.tvece
        agrp := {}, egrp := {}, halting := false, asleep := none, ecut := none, out := none }

/-- The PC of a stream. -/
def Thread.pc (t : Thread) : Stream → W64
  | .a => t.apc
  | .e => t.epc

/-- The faulting address that the record of a precise fault holds (06 R187): none for a bank conflict or the host's refusal. -/
def namedAddr (code : Code) (addr : W64) : W64 :=
  if code = fltBankConflict ∨ code = fltHostUr ∨ code = fltHostCa then 0 else addr

/-- A precise fault of the current stream at its group's address (06 R180), with what its access leaves behind; the other stream
resumes at its boundary. An A-stream access that has left the package completes first: it has issued (06 R180). -/
def raise (s : State) (code : Code) (addr : W64) (seen : Option State := none) : State :=
  let t := s.curT
  if s.cur.st = .e ∧ t.out.isSome = true then s
  else
    let s := seen.getD s
    let c : Cause := { code := code, stream := 0, async := false, pc := t.pc s.cur.st, addr := namedAddr code addr }
    takeTrap s s.cur.core s.cur.slot (match s.cur.st with | .a => c | .e => { c with stream := 1 }) t.apc t.epc

/-- A store that still waits for its sq entry (05 R125). -/
def StoreEnt.unfed (e : StoreEnt) : Bool := e.fromSq && e.data.isNone

/-- The operation is such a store. -/
def SaOp.unfed : SaOp → Bool
  | .store e => e.unfed
  | _ => false

/-- 06 R188: the return from a handler, whose stores have been performed. Its other operations still held follow the set-aside
entries in program order. -/
def returnFromTrap (t : Thread) : Thread :=
  let disc := t.tstate.getLsbD 32
  let skipped := t.setAside.countP SaOp.unfed
  { t with
    a := t.a.set 30 t.tsavea, e := t.e.set 30 t.tsavee, eready := t.eready.filter fun r => r.1 != 30
    p := t.tpredhi ++ t.tpredlo
    repidx := BitVec.ofNat 64 (bitsAt t.tstate 16 16) &&& 0x80FF
    rotbase := BitVec.ofNat 64 (bitsAt t.tstate 0 16) &&& 0x303
    saq := (if disc then t.setAside.filter (fun o => match o with | .store _ => false | _ => true) else t.setAside) ++ t.saq
    sqSkip := if disc then t.sqSkip + skipped else t.sqSkip
    setAside := []
    tstate := BitVec.ofNat 64 (bitsAt t.tstate 0 32)
    heldUncorr := match t.heldUncorr with | some a => some a | none => t.handUncorr
    handUncorr := none
    inh := false, async := false
    queues := t.frozen, frozen := {}, ldqRow := t.frozenLdq, frozenLdq := 0, ldqAt := []
    apc := t.epca, epc := t.epce, agrp := {}, egrp := {} }

/-! ### Running a word of the current stream -/

/-- The prefixes issued of a stream's group. -/
def Thread.grp (t : Thread) : Stream → Grp
  | .a => t.agrp
  | .e => t.egrp

/-- The stream continues at an address, with a new group. -/
def Thread.goto (t : Thread) (st : Stream) (pc : W64) : Thread :=
  match st with
  | .a => { t with apc := pc, agrp := {} }
  | .e => { t with epc := pc, egrp := {} }

/-- The address of the instruction a stream executes: its group's, past the prefixes issued (03 R60). -/
def Thread.here (t : Thread) (st : Stream) : W64 := t.pc st + BitVec.ofNat 64 (t.grp st).off

/-- The stream moves past the instruction it executes (03 R60). -/
def Thread.advance (t : Thread) (st : Stream) : Thread := t.goto st (t.here st + 4)

/-- A scalar register of a stream's file (03 R63). -/
def Thread.rd (t : Thread) (st : Stream) (i : BitVec 5) : W64 :=
  match st with
  | .a => t.a[i.toNat]'i.isLt
  | .e => t.e[i.toNat]'i.isLt

/-- A scalar register of a stream's file written. No register is hard-wired (03 R63). -/
def Thread.wr (t : Thread) (st : Stream) (i : BitVec 5) (v : W64) : Thread :=
  match st with
  | .a => { t with a := t.a.set i.toNat v i.isLt }
  | .e => { t with e := t.e.set i.toNat v i.isLt, eready := t.eready.filter fun r => r.1 != i.toNat }

/-- 05 R127, 07 R195: a reader of a register just written by the E-stream issues no earlier than n clocks after this issue; a
tile word only if `tile`. -/
def Thread.slow (t : Thread) (st : Stream) (i : BitVec 5) (n : Nat) (tile : Bool) : Thread :=
  match st with
  | .a => t
  | .e => { t with eready := (i.toNat, t.eclk + n, tile) :: t.eready }

/-- A predicate (05 R119). -/
def Thread.pred (t : Thread) (i : BitVec 7) : Bool := t.p.getLsbD i.toNat

/-- A predicate written. -/
def Thread.setPred (t : Thread) (i : BitVec 7) (b : Bool) : Thread :=
  { t with p := if b then t.p ||| BitVec.twoPow 128 i.toNat else t.p &&& ~~~(BitVec.twoPow 128 i.toNat) }

/-- A wait: nothing has happened (05 R122, 06 R160); a clock has passed on the E port (log 5). -/
def waiting (s : State) : State :=
  match s.cur.st with
  | .a => s
  | .e => s.setCurT { s.curT with eclk := s.curT.eclk + 1 }

/-- The thread may issue on the current stream: live, not ended or cancelled, its A-stream not stopped by HALT (an access that
has left the package completes first, 05 R123), its core on. -/
def mayIssue (s : State) : Bool :=
  let t := s.curT
  t.live && !t.halted && !t.cancelled && t.failed.isNone && !(s.cur.st == .a && t.halting && t.out.isNone) && s.coreOn s.cur.core

/-- The operations of 17 R461 wait on the current core. -/
def gated (s : State) : Bool := (s.core s.cur.core).gate

/-- A word executed by the current stream: its effect, a wait, or its precise fault (06 R160, R180). -/
def runWord (s : State) (body : Thread → X State) : Host.Outcome State Fault Refusal :=
  if !mayIssue s then .fault .noThread
  else match body s.curT with
    | .ok s' => .next s'
    | .error .wait => .next (waiting s)
    | .error (.flt c a o) => .next (raise s c a o)

/-- The E port's clock after an issue: one clock and the stall clocks of the word (03 R70). -/
def Thread.tick (t : Thread) (st : Stream) (stall : Nat := 0) : Thread :=
  match st with
  | .a => t
  | .e => { t with eclk := t.eclk + 1 + stall }

/-- A word that acts on its thread alone and moves to the next group. -/
def scalar (s : State) (f : Stream → Thread → Thread) : Host.Outcome State Fault Refusal :=
  runWord s fun t => .ok (s.setCurT (((f s.cur.st t).tick s.cur.st).advance s.cur.st))

end Sys2Proof.Machine
end

