-- ==== Sys2Proof/Machine/Operands.lean ====
section
/-! DEFINITION. Operand forms: access sizes and effective addresses of the A-stream (spec 03 R63, 05 R139-R146), the tile
operand mapping (03 R68). -/

namespace Sys2Proof.Machine

/-- The size a sz field names (03 R63). -/
def sizeOf (z : BitVec 2) : Size :=
  match z.toNat with
  | 0 => .b1 | 1 => .b2 | 2 => .b4 | _ => .b8

/-- ea := a[base] + sext(off) × scale, modulo 2^64 (05 R139). -/
def effAddr {n : Nat} (t : Thread) (b : BitVec 5) (off : BitVec n) (scale : Nat) : W64 :=
  t.rd .a b + off.signExtend 64 * BitVec.ofNat 64 scale

/-- The size of an atomic: 4 bytes (z 0) or 8 (05 R144). -/
def atomSize (z : BitVec 1) : Nat := if z = 1 then 8 else 4

/-- EBASE (03 R69). -/
def Thread.ebase (t : Thread) : Nat := bitsAt t.rotbase 0 2

/-- 03 R68: the physical register of an architectural one. -/
def physReg (ebase n : Nat) : Nat := if n < 4 then n else 4 + (n - 4 + ebase) % 4

/-- 03 R68: the physical row, register × 16 + row, of an operand field. -/
def physRow (ebase : Nat) (v : BitVec 7) : Nat := physReg ebase (v.toNat / 16) * 16 + v.toNat % 16

/-- A physical row of a thread's tile registers. -/
def Thread.row (t : Thread) (k : Nat) : Row := if h : k < 128 then t.x[k] else {}

/-- A row's element codes as numbers of the format's width. -/
def Row.codes (r : Row) (f : Fmt) : List Nat := rowCodes f r.data

end Sys2Proof.Machine
end

