-- ==== Sys2Proof/Machine/Access.lean ====
section
/-! DEFINITION. The access processor (spec 05 R119-R155): loads, stores and their queue, forwarding, atomics, fences, engine
commands and result elements, slot counters, messages. -/

namespace Sys2Proof.Machine

/-! ### The store-address queue (05 R125, R126, 04 R113) -/

/-- The bytes of two accesses overlap. -/
def overlaps (a n b m : Nat) : Bool := decide (a < b + m) && decide (b < a + n)

/-- The operation is a store that overlaps an access. -/
def SaOp.touches (ea n : Nat) : SaOp → Bool
  | .store e => overlaps ea n e.ea.toNat e.size.bytes
  | _ => false

/-- The operation is a store. -/
def SaOp.isStore : SaOp → Bool
  | .store _ => true
  | _ => false

/-- Stores the queue holds (05 R119). -/
def storeCount (q : List SaOp) : Nat := q.countP SaOp.isStore

/-- Entries of a thread's store-address queue: 32, or 8 in a handler (06 R183). -/
def storeDepth (t : Thread) : Nat := if t.inh then 8 else 32

/-- What a load finds in the queue (04 R113): nothing that overlaps, its bytes, or a wait. -/
inductive Fwd where
  | memory
  | bytes (v : Nat)
  | wait
  deriving DecidableEq, Repr

/-- 04 R113, 05 R126: a load waits while any earlier store that overlaps it lacks its data (05 R122); the youngest overlapping
store forwards when it covers every byte, and else the load waits. -/
def forward (q : List SaOp) (ea n : Nat) : Fwd :=
  let met := q.filter (SaOp.touches ea n)
  if met.any SaOp.unfed then .wait
  else match met.getLast? with
    | some (.store e) =>
      if e.ea.toNat ≤ ea ∧ ea + n ≤ e.ea.toNat + e.size.bytes then .bytes (e.data.getD 0 / 256 ^ (ea - e.ea.toNat) % 256 ^ n) else .wait
    | some _ => .wait
    | none => .memory

/-- A place as its space and address. -/
def Loc.spot : Loc → Nat × Nat
  | .spad k => (0, k)
  | .dev pa _ => (1, pa)
  | .host pa => (2, pa)
  | .remote k => (3, k)

/-- Two places of some bytes share an 8-byte word (04 R106). -/
def sharesWord (l m : Loc × Nat) : Bool :=
  let (i, a) := l.1.spot
  let (j, b) := m.1.spot
  i == j && decide (a / 8 ≤ (b + m.2 - 1) / 8) && decide (b / 8 ≤ (a + l.2 - 1) / 8)

/-- The places a store in the queue writes, none while its translation faults or waits. -/
def StoreEnt.places (s : State) (core ctx : Nat) (e : StoreEnt) : List (Loc × Nat) :=
  match e.locs with
  | some ls => ls
  | none => match resolve s (whoA core ctx) e.ea e.size.bytes .write with
    | .ok (_, ls) => ls
    | .error _ => []

/-- A store of a queue writes an 8-byte word of some places, whatever addresses name them (04 R106); `fed`: it has its data. -/
def wordBehind (s : State) (core ctx : Nat) (q : List SaOp) (fed : Bool) (ls : List (Loc × Nat)) : Bool :=
  q.any fun o => match o with
    | .store e => !(fed && e.unfed) && (e.places s core ctx).any fun l => ls.any (sharesWord l)
    | _ => false

/-- A FENCE.ar of the thread has not been passed: later accesses wait (04 R108). -/
def fencedAll (q : List SaOp) : Bool := q.any fun o => match o with | .fence ar _ _ => ar | _ => false

/-- Some FENCE has not been passed: later stores wait (04 R108). -/
def fencedStores (q : List SaOp) : Bool := q.any fun o => match o with | .fence .. => true | _ => false

/-! ### Slot counters, results and command queues -/

/-- A post to a slot counter (05 R150, R151). -/
def postCtr (s : State) (core c : Nat) (amount : BitVec 32) : State :=
  let k := s.core core
  if h : c < 32 then s.setCore core { k with ctr := k.ctr.set c (k.ctr[c] + amount) } else s

/-- A slot counter's value. -/
def ctrOf (s : State) (core c : Nat) : BitVec 32 := if h : c < 32 then (s.core core).ctr[c] else 0

/-- 05 R151: the wait of SEMW: sext(cnt − amount, 32) ≥ 0. -/
def ctrReached (cnt want : BitVec 32) : Bool := !(cnt - want).msb

/-- The stream of an engine that takes a core's commands: SMP serves one queue for its die (12 R327). -/
def streamOf (eng core : Nat) : Nat := if eng = engSmp then dieOf core else core

/-- 01 R22: the places a core has in an engine's queue: the entries of a core-level engine, or its credits. -/
def pushPlaces (eng : Nat) : Nat :=
  match eng with
  | 0 => 16 | 1 => 8 | 2 => 8 | 3 => 4 | 4 => 2 | 5 => 1 | 6 => 2 | 7 => 2 | 8 => 1 | 9 => 2 | 10 => 1 | _ => 2

/-- The operations a thread's store-address queues hold, those a handler has set aside first (06 R183). -/
def Thread.queued (t : Thread) : List SaOp := t.setAside ++ t.saq

/-- The operations held by a core's threads. -/
def coreOps (s : State) (core : Nat) : List SaOp := (List.range 16).flatMap fun k => (s.thread core k).queued

/-- The operation is a command held for an engine. -/
def SaOp.isPush (eng : Nat) : SaOp → Bool
  | .push e _ _ _ => e == eng
  | _ => false

/-- The operation is a message held for a core. -/
def SaOp.isMail (dst : Nat) : SaOp → Bool
  | .mail d _ _ _ => d == dst
  | _ => false

/-- Its place in issue order. -/
def SaOp.place : SaOp → Nat
  | .push _ _ n _ => n
  | .mail _ _ n _ => n
  | _ => 0

/-- Commands of a core still held in its threads' store-address queues, for an engine (05 R148). -/
def heldPushes (s : State) (core eng : Nat) : Nat := (coreOps s core).countP (SaOp.isPush eng)

/-- An older command stands before a held one: of the core for a core-level engine, of the thread for a shared one (01 R20,
R21, 05 R148). -/
def pushBehind (s : State) (core slot eng seq : Nat) : Bool :=
  (if eng ≤ 2 then coreOps s core else (s.thread core slot).queued).any fun o => o.isPush eng && decide (o.place < seq)

/-- An older message of the core to the same receiver is held (05 R153). -/
def mailBehind (s : State) (core dst seq : Nat) : Bool := (coreOps s core).any fun o => o.isMail dst && decide (o.place < seq)

/-- 01 R22, R23: the places of an engine a core has in use. -/
def placesUsed (s : State) (core eng : Nat) : Nat :=
  ((s.estream eng (streamOf eng core)).queue.countP fun c => c.core == core && c.task.isNone) + heldPushes s core eng

/-- A command reaches its engine's queue with its index, the count of commands its core had delivered there (01 R20,
09 R260); SMP counts by core (12 R342). -/
def deliver (s : State) (eng : Nat) (c : Cmd) : State :=
  let k := streamOf eng c.core
  let st := s.estream eng k
  let core := s.core c.core
  let idx := if eng = engSmp then core.smpTaken else st.taken
  let s := if eng = engSmp then s.setCore c.core { core with smpTaken := idx + 1 } else s
  s.setEstream eng k { st with queue := st.queue ++ [{ c with index := idx.toNat }], taken := st.taken + 1 }

/-- 06 R179: an element for a task that has ended is discarded on arrival: its thread no longer runs that dispatch. -/
def elemLive (s : State) (core : Nat) (e : Elem) : Bool :=
  let t := s.thread core e.slot
  t.live && t.disp == e.disp && t.failed.isNone && !t.halted

/-- 01 R24: a core's result queue of an engine has room. -/
def resultRoom (s : State) (core eng : Nat) : Bool := decide ((s.result core eng).length < 8)

/-- An element enters its core's result queue (01 R24), or is discarded (06 R179). -/
def placeElem (s : State) (core eng : Nat) (e : Elem) : State :=
  if elemLive s core e then s.setResult core eng (s.result core eng ++ [e]) else s

/-! ### The head of the store-address queue -/

/-- An operation leaves the queue; one that a release of the E-stream covers counts down (06 R162). -/
def dropOp (t : Thread) (idx : Nat) : Thread :=
  { t with saq := removeAt t.saq idx, ecut := t.ecut.map fun n => if idx < n then n - 1 else n }

def Obj.dim (o : Obj) : Nat := 32 * (o.img.dq + 1)

/-- CB (14 R372). -/
def Obj.codeBytes (o : Obj) : Nat := match o.img.ck with | 3 => o.dim / 2 | 4 => o.dim / 8 | _ => o.dim

/-- ESZ (14 R380). -/
def Obj.esz (o : Obj) : Nat := 64 * ((16 + o.codeBytes + 63) / 64)

/-- A retrieval command of the thread that writes flash, pushed and not completed; one whose stream it has stopped may still run
(14 R387). -/
def appendsOut (s : State) (core slot disp : Nat) : Bool :=
  let st := s.estream engSch core
  let mine := fun (c : Cmd) => c.slot == slot && c.disp == disp && (bitsAt (c.words.getD 0 0) 58 6 == 3 || bitsAt (c.words.getD 0 0) 58 6 == 4)
  st.queue.any mine || match st.run with | some c => mine c | none => false

/-- The scope's releases wait for storage (04 R117, 14 R387). -/
def storageScope (scope : Nat) : Bool := scope == 6 || scope == 7

/-- The operation is a release at such a scope. -/
def SaOp.stores : SaOp → Bool
  | .store e => e.rel.any storageScope
  | .fence _ sc _ => storageScope sc
  | .post _ _ sc _ => storageScope sc
  | .push _ c _ _ => storageScope c.scope
  | .mail .. => false

/-- A MUSTSAVE ADD of the context pushed and not processed, by whichever thread; one of another thread may still be held behind
that thread's stores, unless behind a release of it that itself waits for storage (04 R117; log 44). -/
def declaring (s : State) (core slot ctx : Nat) : Bool :=
  let mine := fun (c : Cmd) => c.ctx == ctx && bitsAt (c.words.getD 0 0) 58 6 == 3 && bitsAt (c.words.getD 0 0) 45 2 == 0
  (s.streams.any fun kv => kv.1 / 512 == engCtx &&
    (kv.2.queue.any mine || (!kv.2.stopped && match kv.2.run with | some c => mine c && !kv.2.done | none => false)))
  || s.threads.any fun kv => kv.1 != core * 16 + slot &&
    (kv.2.queued.takeWhile fun o => !o.stores).any fun o => match o with | .push e c _ _ => e == engCtx && mine c | _ => false

/-- A log entry's position lies in an admitted extent of its object's context. -/
def entrySaved (s : State) (o : Obj) (pos : Nat) : Bool :=
  let a := o.img.logbase.toNat + o.esz * (pos % o.img.logcap)
  s.extents.any fun x => x.ctx == o.owner && decide (x.base.toNat ≤ a) && decide (a + o.esz ≤ x.base.toNat + x.size)

/-- Log entries of the thread that are neither in flash nor in the admitted extent that holds the unflushed tail (04 R117). -/
def tailOpen (s : State) (core slot disp : Nat) : Bool :=
  s.objs.any fun kv =>
    let o := kv.2
    o.live && o.writers.any fun w => w.1 == core && w.2.1 == slot && w.2.2.1 == disp
      && (List.range (w.2.2.2 - o.flushed)).any fun i => !entrySaved s o (o.flushed + i)

/-- A release at a scope is not performed yet: the storage rules of scopes 6 and 7 (04 R117, 14 R387). -/
def releaseHeld (s : State) (core slot scope : Nat) : Bool :=
  let t := s.thread core slot
  storageScope scope && (appendsOut s core slot t.disp
    || (scope == 7 && (declaring s core slot t.ctx || tailOpen s core slot t.disp)))

/-- The group of the first operation of a queue that covers a store before it: a release, FENCE, PUSH, post or message (04
R115). -/
def coverPc : List SaOp → Option W64
  | [] => none
  | .store e :: os => if e.rel.isSome then some e.pc else coverPc os
  | .fence _ _ pc :: _ => some pc
  | .post _ _ _ pc :: _ => some pc
  | .push _ _ _ pc :: _ => some pc
  | .mail _ _ _ pc :: _ => some pc

/-- A held FLT_UNCORR that an operation of the queue now covers is held as a weak-store fault at its group (15 R404, 04 R115);
that of a handler's own ATOMNR fails the thread (06 R181). -/
def uncorrCovered (s : State) (core slot : Nat) : State :=
  let t := s.thread core slot
  if t.atomsOut != 0 || t.cancelled then s
  else match coverPc t.saq with
    | none => s
    | some pc =>
      if t.inh then match t.handUncorr with
        | some a => (failFor s core slot { code := fltUncorr, stream := 0, async := true, pc := pc, addr := a }).getD s
        | none => s
      else match t.heldUncorr with
        | some a => s.setThread core slot { t with
            heldUncorr := none, pends := t.pends ++ [{ weak := true, code := fltUncorr, addr := a, pc := some pc }] }
        | none => s

/-- A weak fault of the thread awaits its delivery: no release performs before it (04 R101, R115). -/
def weakHeld (t : Thread) : Bool := !t.cancelled && if t.inh then t.handUncorr.isSome else t.pends.any Pend.weak

/-- An ordering operation at the head takes effect: every store before it is performed, and every ATOMNR (04 R108). -/
def settleHead : Nat → State → Nat → Nat → State
  | 0, s, _, _ => s
  | n + 1, s, core, slot =>
    let t := s.thread core slot
    if t.atomsOut ≠ 0 ∨ weakHeld t = true then s
    else match t.saq with
      | .fence _ sc _ :: _ => if releaseHeld s core slot sc then s else settleHead n (s.setThread core slot (dropOp t 0)) core slot
      | .post c v sc _ :: _ =>
        if (s.core core).gate || releaseHeld s core slot sc then s else settleHead n (postCtr (s.setThread core slot (dropOp t 0)) core c v) core slot
      | .push eng cmd seq _ :: _ =>
        if (decide (eng ≤ 2) && (s.core core).gate) || releaseHeld s core slot cmd.scope || pushBehind s core slot eng seq then s
        else settleHead n (deliver (s.setThread core slot (dropOp t 0)) eng cmd) core slot
      | .mail dst msg seq _ :: _ =>
        if (s.core core).gate || mailBehind s core dst seq then s
        else
        let s := s.setThread core slot (dropOp t 0)
        settleHead n { s with mails := s.mails ++ [⟨core, dst, msg⟩] } core slot
      | _ => s

/-- Every ordering operation now at the head takes effect. -/
def settle (s : State) (core slot : Nat) : State :=
  let s := uncorrCovered s core slot
  settleHead ((s.thread core slot).saq.length + 1) s core slot

/-- An operation joins the queue of the current thread, and takes effect at once when nothing stands before it. -/
def enqueueOp (s : State) (o : SaOp) : State :=
  let t := s.curT
  settle (s.setCurT { t with saq := t.saq ++ [o] }) s.cur.core s.cur.slot

/-! ### Weak-store faults (04 R101) -/

/-- 04 R106, R107: a store may be performed: it has its data, no earlier store of its words, no earlier fence, and, for a
release, nothing before it and no ATOMNR outstanding. -/
def storeReady (t : Thread) (idx : Nat) : Bool :=
  let before := t.saq.take idx
  match t.saq[idx]? with
  | some (.store e) =>
    e.data.isSome && !e.bad && !e.sent && !fencedStores before
      && !before.any (SaOp.touches (e.ea.toNat / 8 * 8) (if e.size.bytes < 8 then 8 else e.size.bytes))
      && (e.rel.isNone || (before.isEmpty && t.atomsOut == 0 && !weakHeld t))
  | _ => false

/-- A located access reaches another package. -/
def isRemote (ls : List (Loc × Nat)) : Option Nat :=
  match ls with
  | (.remote k, _) :: _ => some k
  | _ => none

/-- What a store in the queue holds against a strong access after it. -/
inductive Guard where
  | clear
  | wait
  | fault (code : Code) (addr : W64) (pc : Option W64)
  deriving DecidableEq, Repr

/-- The store at an index of a thread's queue, as a strong access finds it: its fault, its paired entry's kind, its translation and
access (05 R125, 04 R101), with the store's address. Another package checks its part: that answer is awaited, unless an sq entry
must come first (05 R122). -/
def storeGuard (s : State) (core : Nat) (t : Thread) (idx : Nat) (e : StoreEnt) : Guard :=
  match t.pends.find? fun p => !t.inh && p.weak && p.addr == e.ea with
  | some p => .fault p.code p.addr p.pc
  | none =>
    if e.bad then .fault fltIllegal e.ea none
    else if e.locs.isSome then .clear
    else match resolve s (whoA core t.ctx) e.ea e.size.bytes .write with
      | .error .wait => .wait
      | .error (.flt c _ _) => .fault c e.ea none
      | .ok (_, ls) =>
        let fed := !(t.saq.take (idx + 1)).any SaOp.unfed
        if (isRemote ls).isSome && (e.sent || storeReady t idx || fed) then .wait else .clear

/-- The first store of a queue, from an index, that holds something against it; a fault's record names the group of the store for
a release, else of the operation that covers it, if one has issued (04 R101, R115, 05 R125). -/
def guardOf (s : State) (core : Nat) (t : Thread) : Nat → List SaOp → Guard
  | _, [] => .clear
  | k, .store e :: os => match storeGuard s core t k e with
    | .clear => guardOf s core t (k + 1) os
    | .wait => .wait
    | .fault c a pc => .fault c a (match pc with | some pc => some pc | none => coverPc (.store e :: os))
  | k, _ :: os => guardOf s core t (k + 1) os

/-- A weak-store fault taken at the A-stream's boundary (06 R180): the record names the boundary, or the group of a release that
covers the store; ASYNC is set and the A-stream resumes at the boundary (log 19). -/
def takeWeak (s : State) (core slot : Nat) (code : Code) (addr : W64) (pc : Option W64) : State :=
  let t := s.thread core slot
  takeTrap s core slot { code := code, stream := 0, async := true, pc := pc.getD t.apc, addr := addr } t.apc t.epc

/-- What a strong access meets before it: it passes, waits, or takes a fault of the work before it. -/
inductive Gate where
  | pass
  | wait
  | trap (s : State)

/-- A trap a word takes before its own effect, once its record can be written. -/
def gateTrap (s : State) (core slot : Nat) (f : Thread → Thread) (code : Code) (addr : W64) (pc : Option W64) : Gate :=
  if trapWaits s core slot then .wait
  else .trap (takeWeak (s.setThread core slot (f (s.thread core slot))) core slot code addr pc)

/-- A strong access, FENCE, PUSH, SEND or BARRIER waits for every weak store's check and takes its fault (04 R101, R115); a
release, FENCE, PUSH, BARRIER or HALT takes a held FLT_UNCORR too (15 R404). -/
def weakGuard (s : State) (core slot : Nat) (rel : Bool) : Gate :=
  let t := s.thread core slot
  let weakOut := fun (t : Thread) => { t with pends := if t.inh then t.pends else t.pends.filter fun p => !p.weak }
  match guardOf s core t 0 t.saq with
  | .wait => .wait
  | .fault c a pc => gateTrap s core slot weakOut c a pc
  | .clear =>
    match (if t.inh then none else t.pends.find? Pend.weak) with
    | some p => gateTrap s core slot weakOut p.code p.addr p.pc
    | none =>
      if !rel then .pass
      else match (if t.inh then t.handUncorr else t.heldUncorr) with
        | some a => gateTrap s core slot
            (fun t => if t.inh then { t with handUncorr := none } else { t with heldUncorr := none }) fltUncorr a none
        | none => .pass

/-- A word of the A-stream that first takes any pending weak-store fault (04 R101). -/
def strong (s : State) (rel : Bool) (body : Thread → X State) : Host.Outcome State Fault Refusal :=
  if !mayIssue s then .fault .noThread
  else match weakGuard s s.cur.core s.cur.slot rel with
    | .trap s' => .next s'
    | .wait => .next s
    | .pass => runWord s body

/-- The A-stream moves to its next group. -/
def nextA (s : State) : State := s.setCurT (s.curT.advance .a)

/-- The A-stream's master of the current thread. -/
def curWho (s : State) : Who := whoA s.cur.core s.curT.ctx

/-! ### Loads -/

/-- The place of a single-piece access outside the package, with its kind of request (04 R89, R91). -/
def outside : List (Loc × Nat) → Option (Nat × Nat)
  | [(.host pa, _)] => some (0, pa)
  | [(.remote k, _)] => some (3, k)
  | _ => none

/-- An access that leaves the package: the first attempt sends the request, later ones wait for its answer, which completes
it or raises the target's fault (16 R430, R444). -/
def outAccess (s : State) (req : OutReq) (ea : W64) (done : State → Nat → State) : X State :=
  let t := s.curT
  match t.out with
  | none => .ok (s.setCurT { t with out := some req })
  | some r => match r.reply with
    | none => .error .wait
    | some (c, v) =>
      if c = 0 then .ok (done (s.setCurT { t with out := none }) v)
      else .error (.flt c (if c = fltUncorr ∧ (req.kind = 0 ∨ req.kind = 3) then 0 else ea))

/-- 05 R140: a load of n bytes at ea, at most 8: checked, then forwarded, delayed or read. It waits for an earlier store of its
8-byte word that has its data (04 R106; log 20). -/
def loadTo (s : State) (d : BitVec 5) (ea : W64) (n : Nat) : X State :=
  let t := s.curT
  let fin := fun (s : State) (v : Nat) => nextA (s.setCurT (s.curT.wr .a d (BitVec.ofNat 64 v)))
  if fencedAll t.saq then .error .wait
  else match resolve s (curWho s) ea n .read with
    | .error e => .error e
    | .ok (s, ls) => match forward t.saq ea.toNat n with
      | .wait => .error .wait
      | .bytes v => .ok (fin s v)
      | .memory =>
        if wordBehind s s.cur.core t.ctx t.saq true ls then .error .wait
        else match outside ls with
          | some (k, a) => outAccess s { kind := k, addr := a, ea := ea, size := n } ea fin
          | none => match readAll s 0 ls with
            | .error e => .error e
            | .ok (s, bs) => .ok (fin s (leValue bs))

/-- LD (05 R140): a weak load. -/
def execLd (d b : BitVec 5) (z : BitVec 2) (o : BitVec 14) (s : State) : Host.Outcome State Fault Refusal :=
  runWord s fun t => loadTo s d (effAddr t b o (sizeOf z).bytes) (sizeOf z).bytes

/-- LDA (05 R140): an acquire; every later access of the thread follows it in the model's order (log 12). -/
def execLda (d b : BitVec 5) (z : BitVec 2) (_sx : BitVec 4) (o : BitVec 10) (s : State) : Host.Outcome State Fault Refusal :=
  strong s false fun t => loadTo s d (effAddr t b o (sizeOf z).bytes) (sizeOf z).bytes

/-! ### Stores -/

/-- A store joins the queue, waiting while it is full (05 R122). -/
def queueStore (s : State) (o : SaOp) : X State :=
  if storeDepth s.curT ≤ storeCount s.curT.saq then .error .wait else .ok (nextA (enqueueOp s o))

/-- The low n bytes of a register. -/
def lowBytes (v : W64) (n : Nat) : Nat := v.toNat % 256 ^ n

/-- ST (05 R141): a weak store; only misalignment faults at once (04 R100). -/
def execSt (d b : BitVec 5) (z : BitVec 2) (o : BitVec 14) (s : State) : Host.Outcome State Fault Refusal :=
  runWord s fun t =>
    let sz := sizeOf z
    let ea := effAddr t b o sz.bytes
    if ea.toNat % alignOf sz.bytes ≠ 0 then .error (.flt fltAlign ea)
    else queueStore s (.store { ea := ea, size := sz, data := some (lowBytes (t.rd .a d) sz.bytes), pc := t.apc })

/-- A strong store joins the queue once its places are known to take it: another package checks its part first, so that the
target's fault is precise (04 R99, R100; log 45). -/
def checkedStore (s : State) (ea : W64) (sz : Size) (ls : List (Loc × Nat)) (done : State → X State) : X State :=
  if storeDepth s.curT ≤ storeCount s.curT.saq then .error .wait
  else match isRemote ls with
    | none => done s
    | some k => match s.curT.out with
      | some { reply := some (0, _), .. } => done (s.setCurT { s.curT with out := none })
      | _ => outAccess s { kind := 5, addr := k, ea := ea, size := sz.bytes } ea fun s _ => s

/-- STR (05 R141): a release at its scope; its faults are precise (04 R100, R115). -/
def execStr (d b : BitVec 5) (z : BitVec 2) (sx : BitVec 4) (o : BitVec 10) (s : State) : Host.Outcome State Fault Refusal :=
  strong s true fun t =>
    let sz := sizeOf z
    let ea := effAddr t b o sz.bytes
    match resolve s (curWho s) ea sz.bytes .write with
    | .error e => .error e
    | .ok (s, ls) => checkedStore s ea sz ls fun s => queueStore s
        (.store { ea := ea, size := sz, data := some (lowBytes (t.rd .a d) sz.bytes), rel := some sx.toNat, pc := t.apc, locs := some ls })

/-- The value an sq entry gives a store of its size, and whether its kind is the other one (05 R125). -/
def sqValue (e : SqEnt) (sz : Size) : Nat × Bool :=
  (e.val.toNat % 256 ^ sz.bytes, e.isRow != (sz == .row))

/-- Some STA of the queue still waits for its sq entry. -/
def awaitingSq (q : List SaOp) : Bool := q.any SaOp.unfed

/-- An STA joins the queue, paired with the head of sq when no earlier STA waits for it (05 R125). -/
def queueSta (s : State) (ea : W64) (sz : Size) (rel : Option Nat) (locs : Option (List (Loc × Nat))) : X State :=
  let t := s.curT
  let o : StoreEnt := { ea := ea, size := sz, data := none, fromSq := true, rel := rel, pc := t.apc, locs := locs }
  match t.queues.sq with
  | e :: rest =>
    if awaitingSq t.saq then queueStore s (.store o)
    else if storeDepth t ≤ storeCount t.saq then .error .wait
    else
      let (v, bad) := sqValue e sz
      queueStore (s.setCurT { t with queues := { t.queues with sq := rest } }) (.store { o with data := some v, bad := bad })
  | [] => queueStore s (.store o)

/-- STA and STA.row (05 R142): weak, or a release whose faults are precise. -/
def staAt (s : State) (r : BitVec 1) (scope : Nat) (ea : W64) (sz : Size) : Host.Outcome State Fault Refusal :=
  if r = 1 then
    strong s true fun _ => match resolve s (curWho s) ea sz.bytes .write with
      | .error e => .error e
      | .ok (s, ls) => checkedStore s ea sz ls fun s => queueSta s ea sz (some scope) (some ls)
  else
    runWord s fun _ =>
      if ea.toNat % alignOf sz.bytes ≠ 0 then .error (.flt fltAlign ea) else queueSta s ea sz none none

/-- STA (05 R142): data from sq. -/
def execSta (r : BitVec 1) (b : BitVec 5) (z : BitVec 2) (sx : BitVec 4) (o : BitVec 10) (s : State) :
    Host.Outcome State Fault Refusal :=
  staAt s r sx.toNat (effAddr s.curT b o (sizeOf z).bytes) (sizeOf z)

/-- STA.row (05 R142): a 256-byte row from sq; its sideband is not stored. -/
def execStaRow (r : BitVec 1) (b : BitVec 5) (sx : BitVec 4) (o : BitVec 10) (s : State) : Host.Outcome State Fault Refusal :=
  staAt s r sx.toNat (effAddr s.curT b o 256) .row

/-- 06 R164, 05 R125: an entry E places in sq: to the oldest waiting STA, or the queue's end. -/
def giveSq : List SaOp → SqEnt → Option (List SaOp)
  | [], _ => none
  | .store o :: os, e =>
    if o.unfed then
      let (v, bad) := sqValue e o.size
      some (.store { o with data := some v, bad := bad } :: os)
    else (giveSq os e).map (.store o :: ·)
  | o :: os, e => (giveSq os e).map (o :: ·)

/-- 04 R101: a store in the queue found to fault is held, once, for delivery; a handler's own store fails its thread (06 R181). -/
def holdWeak (s : State) (core slot : Nat) (code : Code) (addr : W64) (pc : Option W64) : State :=
  let t := s.thread core slot
  if t.inh then (failFor s core slot { code := code, stream := 0, async := true, pc := pc.getD t.apc, addr := addr }).getD s
  else if t.pends.any Pend.weak then s
  else s.setThread core slot { t with pends := t.pends ++ [{ weak := true, code := code, addr := addr, pc := pc }] }

/-- The store at an index of a queue faults: its fault is held, with the group of the operation that covers it (R115); a store of a
task that CANCEL has ended is dropped (10 R296; log 40). -/
def storeFails (s : State) (core slot idx : Nat) (code : Code) (addr : W64) : State :=
  let t := s.thread core slot
  if t.cancelled then settle (s.setThread core slot (dropOp t idx)) core slot
  else holdWeak s core slot code addr (coverPc (t.saq.drop idx))

/-- A fault of the entry is held and not yet delivered. -/
def faultHeld (t : Thread) (ea : W64) : Bool := t.pends.any fun p => p.weak && p.addr == ea

/-- 17 R461: an access of the A-stream to places it has checked waits while its core's exchange is under way. -/
def placesWait (s : State) (core ctx : Nat) (ls : List (Loc × Nat)) : Bool :=
  ls.any fun l => match l.1 with
    | .spad _ => (s.core core).gate
    | p => carveWaits s (whoA core ctx) p

/-- The places a store is performed at: those it was checked for at issue, or its translation now. -/
def StoreEnt.now (s : State) (core ctx : Nat) (e : StoreEnt) : X (State × List (Loc × Nat)) :=
  match e.locs with
  | some ls => if placesWait s core ctx ls then .error .wait else .ok (s, ls)
  | none => resolve s (whoA core ctx) e.ea e.size.bytes .write

/-- STORE_PERFORM (05 R125): an entry of a thread's store-address queue is performed; a remote one sends its request
(16 R430). A fault leaves the entry and is held (04 R101). An ordering operation at the head takes effect. Once the shutter
trap has stopped issue nothing leaves a queue (R118). -/
def execStorePerform (core slot idx : Nat) (s : State) : Host.Outcome State Fault Refusal :=
  let s := if s.shut.phase = 0 then uncorrCovered s core slot else s
  let t := s.thread core slot
  if s.shut.phase ≠ 0 then .next s
  else match t.saq[idx]? with
  | some (.store e) =>
    if faultHeld t e.ea && !t.cancelled then .next s
    else if e.bad then .next (storeFails s core slot idx fltIllegal e.ea)
    else if !storeReady t idx || (match e.rel with | some sc => releaseHeld s core slot sc | none => false) then .next s
    else match e.now s core t.ctx with
      | .error .wait => .next s
      | .error (.flt c _ seen) =>
        let old := match guardOf s core t 0 (t.saq.take idx) with | .clear => false | _ => true
        .next (if old && !t.cancelled then s else storeFails (seen.getD s) core slot idx c e.ea)
      | .ok (s, ls) =>
        let t := s.thread core slot
        if wordBehind s core t.ctx (t.saq.take idx) false ls then .next s
        else if (isRemote ls).isSome then
          .next (s.setThread core slot { t with saq := updAt (fun _ => .store { e with sent := true }) t.saq idx })
        else
          let s := noteWrites (writeAll s ls (leBytes (e.data.getD 0) e.size.bytes)) ls
          let t := s.thread core slot
          .next (settle (s.setThread core slot (dropOp t idx)) core slot)
  | _ => .next (settle s core slot)

/-! ### LDQ -/

/-- Rows an operand queue holds: 8, or 2 in a handler (05 R120, 06 R183). -/
def rowDepth (t : Thread) : Nat := if t.inh then 2 else 8

/-- The address of row i of an LDQ (05 R143). -/
def ldqAddr (t : Thread) (b sx : BitVec 5) (i : Nat) : W64 := t.rd .a b + BitVec.ofNat 64 i * t.rd .a sx

/-- The pieces of a row are sound: their ports' pending requests applied, no line poisoned; nothing is read yet. -/
def soundAll (s : State) (ls : List (Loc × Nat)) : X State :=
  let s := ls.foldl (fun s l => match l.1 with | .dev pa _ => settleRange s pa l.2 | _ => s) s
  if ls.any fun l => locPoisoned s l.1 l.2 then .error (.flt fltUncorr 0 (readLocs s ls).1) else .ok s

/-- 05 R143: every row from row i checked, its data found sound, before any is delivered: the rows' addresses and places. -/
def ldqCheck (s : State) (b sx : BitVec 5) (i : Nat) : Nat → X (State × List (W64 × List (Loc × Nat)))
  | 0 => .ok (s, [])
  | n + 1 => match ldqCheck s b sx i n with
    | .error e => .error e
    | .ok (s, ps) => match resolveNow s (curWho s) (ldqAddr s.curT b sx (i + n)) 256 .read with
      | .error e => .error e
      | .ok (s, ls) => match soundAll s ls with
        | .error e => .error e
        | .ok s => .ok (s, ps ++ [(ldqAddr s.curT b sx (i + n), ls)])

/-- A row with its queue's room taken; the sideband it carries is undefined (05 R143). -/
def appendRow (s : State) (q : BitVec 3) (v : RowData) : State :=
  let (k, s) := s.takeFree
  let t := s.curT
  let r : QRow := { row := { data := v, sb := Config.freeSideband k } }
  let qs := t.queues.q.set q.toNat (t.queues.q[q.toNat]'q.isLt ++ [r]) q.isLt
  s.setCurT { t with queues := { t.queues with q := qs }, ldqRow := t.ldqRow + 1, ldqAt := t.ldqAt.tail }

/-- Rows appended from the first not yet appended while the queue has room, each from its checked place; fuel the rows left. -/
def ldqRows (q : BitVec 3) (b sx : BitVec 5) : Nat → State → X State
  | 0, s => .ok s
  | n + 1, s =>
    let t := s.curT
    if rowDepth t ≤ (t.queues.q[q.toNat]'q.isLt).length then .ok s
    else
      let ea := ldqAddr t b sx t.ldqRow
      match forward t.saq ea.toNat 256 with
      | .wait => .ok s
      | .bytes v => ldqRows q b sx n (appendRow s q (BitVec.ofNat 2048 v))
      | .memory =>
        let ls := (t.ldqAt.headD (ea, [])).2
        if wordBehind s s.cur.core t.ctx t.saq true ls || placesWait s s.cur.core t.ctx ls then .ok s
        else match readAll s 0 ls with
          | .error e => .error e
          | .ok (s, bs) => ldqRows q b sx n (appendRow s q (BitVec.ofNat 2048 (leValue bs)))

/-- LDQ (05 R143): every row is checked, then the rows that find room are appended; the LDQ stays the current instruction until its
last one is, and restarts at the first row not yet appended. -/
def execLdq (q : BitVec 3) (c b sx : BitVec 5) (s : State) : Host.Outcome State Fault Refusal :=
  runWord s fun t =>
    let rows := c.toNat + 1
    if fencedAll t.saq then .error .wait
    else match (if t.ldqAt.isEmpty then ldqCheck s b sx t.ldqRow (rows - t.ldqRow) else .ok (s, t.ldqAt)) with
      | .error e => .error e
      | .ok (s, ps) => match ldqRows q b sx (rows - t.ldqRow) (s.setCurT { s.curT with ldqAt := ps }) with
        | .error e => .error e
        | .ok s =>
          let t := s.curT
          if rows ≤ t.ldqRow then .ok (nextA (s.setCurT { t with ldqRow := 0, ldqAt := [] })) else .ok s

/-! ### Atomics and fences -/

/-- An atomic's operation is carried to a host page: FetchAdd alone (05 R145). -/
def hostCarries (op : Nat) : Bool := op == 0

/-- FLT_UNCORR of an ATOMNR of the current thread held, of a handler's apart (15 R404, 06 R181). -/
def holdUncorr (s : State) (ea : W64) : State :=
  let t := s.curT
  s.setCurT (if t.inh then { t with handUncorr := some (t.handUncorr.getD ea) } else { t with heldUncorr := some (t.heldUncorr.getD ea) })

/-- 05 R144, R146: an atomic at ea: checked, after every entry of its 8-byte word (04 R106); a release after every store and ATOMNR,
and so one on a host page, which acts as acquire-release (16 R445). `d` is the register that takes the old value, `none` for
ATOMNR. -/
def atomicAt (s : State) (d : Option (BitVec 5)) (ea : W64) (n op v v2 : Nat) (ord : BitVec 2) (scope : Nat) : X State :=
  let t := s.curT
  let fin := fun (s : State) (old : Nat) =>
    nextA (match d with | some r => s.setCurT (s.curT.wr .a r (BitVec.ofNat 64 old)) | none => s)
  match resolve s (curWho s) ea n .write with
  | .error e => .error e
  | .ok (s, ls) =>
    let onHost := match ls with | (.host _, _) :: _ => hostCarries op && decide (4 ≤ n) | _ => false
    let core := s.cur.core
    let slot := s.cur.slot
    if t.saq.any (SaOp.touches (ea.toNat / 8 * 8) 8) || wordBehind s core t.ctx t.saq false ls || fencedStores t.saq then .error .wait
    else if (ord == 2 || ord == 3 || onHost) && (!t.saq.isEmpty || t.atomsOut != 0 || releaseHeld s core slot scope) then .error .wait
    else match ls with
      | [(.spad k, _)] =>
        if locPoisoned s (.spad k) n then (if d.isNone then .ok (fin (holdUncorr s ea) 0) else .error (.flt fltUncorr ea s))
        else
          let old := s.spad.readLE k n
          let new := atomicResult op (8 * n) old v v2
          .ok (fin { s with spad := s.spad.writeLE k n new } old)
      | [(.dev pa _, _)] => match d with
        | none =>
          match portOf s pa with
          | none => .error (.flt fltXlate ea s)
          | some (p, _) =>
            if (s.port p).retired then .ok (fin (holdUncorr s ea) 0)
            else
              let s := s.setPort p { s.port p with
                arr := (s.port p).arr ++ [.atomic pa n op v v2 (some ⟨s.cur.core, s.cur.slot, ea, if t.inh then some t.traps else none⟩)] }
              .ok (fin (noteWrites (s.setCurT { s.curT with atomsOut := s.curT.atomsOut + 1 }) ls) 0)
        | some _ => match portAtomic s pa n op v v2 with
          | (s, none) => .error (.flt fltUncorr ea s)
          | (s, some old) => .ok (fin (noteWrites s ls) old)
      | [(.host pa, _)] =>
        if onHost then
          match (if t.out.isNone then weakGuard s core slot true else .pass) with
          | .wait => .error .wait
          | .trap s' => .ok s'
          | .pass =>
            let first := s.hostFb && s.curT.out.isNone
            let s := if first then { s with fbq := s.fbq ++ [s.cur.core * 16 + s.cur.slot] } else s
            outAccess s { kind := if first then 2 else 1, addr := pa, ea := ea, size := n, op := op, val := v } ea fin
        else .error (.flt fltAccess ea s)
      | [(.remote k, _)] => outAccess s { kind := 4, addr := k, ea := ea, size := n, op := op, val := v, val2 := v2 } ea fin
      | _ => .error (.flt fltXlate ea s)

/-- ATOM (05 R144). -/
def execAtom (d b v : BitVec 5) (o : BitVec 4) (z : BitVec 1) (sx : BitVec 4) (r : BitVec 2) (s : State) :
    Host.Outcome State Fault Refusal :=
  strong s (r == 2 || r == 3) fun t =>
    atomicAt s (some d) (t.rd .a b) (atomSize z) o.toNat (lowBytes (t.rd .a v) (atomSize z)) 0 r sx.toNat

/-- ATOMNR (05 R144): answers nothing; FENCE.atomics and releases wait for it. -/
def execAtomnr (b v : BitVec 5) (o : BitVec 4) (z : BitVec 1) (sx : BitVec 4) (r : BitVec 2) (s : State) :
    Host.Outcome State Fault Refusal :=
  strong s (r == 2) fun t =>
    atomicAt s none (t.rd .a b) (atomSize z) o.toNat (lowBytes (t.rd .a v) (atomSize z)) 0 r sx.toNat

/-- CAS (05 R146): the expected value in a[v], the new one in a[v + 1]. -/
def execCas (d b v : BitVec 5) (z : BitVec 2) (sx : BitVec 4) (r : BitVec 2) (s : State) :
    Host.Outcome State Fault Refusal :=
  strong s (r == 2 || r == 3) fun t =>
    let n := (sizeOf z).bytes
    atomicAt s (some d) (t.rd .a b) n 10 (lowBytes (t.rd .a v) n) (lowBytes (t.rd .a (v + 1)) n) r sx.toNat

/-- FENCE (05 R147, 04 R108): orders later stores (.rel), later accesses too (.ar); .acq holds in the model's order (log 12). -/
def execFence (k sx : BitVec 4) (s : State) : Host.Outcome State Fault Refusal :=
  strong s true fun _ => .ok (nextA (if k = 1 then s else enqueueOp s (.fence (k == 0) sx.toNat s.curT.apc)))

/-- FENCE.atomics (05 R147): waits until every ATOMNR of the thread has been applied. -/
def execFenceAtomics (s : State) : Host.Outcome State Fault Refusal :=
  strong s true fun t => if t.atomsOut = 0 then .ok (nextA s) else .error .wait

/-! ### Engine commands, results and counters -/

/-- An operation joins the queue with the next place in issue order (01 R20, 05 R153). -/
def enqueueNext (s : State) (o : Nat → SaOp) : State := enqueueOp { s with opSeq := s.opSeq + 1 } (o s.opSeq)

/-- PUSH (05 R148): the words are read at issue; the command is delivered once the accesses it covers are performed. The engine
checks it at the head of its queue (03 R75, 04 R102). -/
def execPush (e f : BitVec 5) (n : BitVec 3) (sx : BitVec 4) (s : State) : Host.Outcome State Fault Refusal :=
  strong s true fun t =>
    let core := s.cur.core
    let eng := e.toNat
    if decide (eng ≤ 2) && gated s then .error .wait
    else if pushPlaces eng ≤ placesUsed s core eng then .error .wait
    else
      let ws := (List.range (n.toNat + 1)).map fun i => t.rd .a (f + BitVec.ofNat 5 i)
      let c : Cmd := ⟨ws, core, s.cur.slot, t.disp, t.inh, t.traps, t.ctx, sx.toNat, none, 0⟩
      .ok (nextA (enqueueNext s fun k => .push eng c k t.apc))

/-- The element a POPR of a thread may take (05 R149, 06 R179, R183). -/
def popsElem (slot : Nat) (t : Thread) (e : Elem) : Bool := e.slot == slot && e.disp == t.disp && e.hand == t.inh

/-- Registers a[f] to a[f + n] from an element's words, zero beyond them (03 R76). -/
def popRegs (f : BitVec 5) (ws : List W64) : Nat → Thread → Thread
  | 0, t => t
  | n + 1, t => (popRegs f ws n t).wr .a (f + BitVec.ofNat 5 n) (ws.getD n 0)

/-- POPR (05 R149): the oldest element of the issuing thread, waiting while there is none. -/
def execPopr (e f : BitVec 5) (n : BitVec 3) (_sx : BitVec 4) (s : State) : Host.Outcome State Fault Refusal :=
  runWord s fun t =>
    let q := s.result s.cur.core e.toNat
    match q.findIdx? (popsElem s.cur.slot t) with
    | none => .error .wait
    | some k =>
      let ws := match q[k]? with | some el => el.words | none => []
      .ok (nextA ((s.setResult s.cur.core e.toNat (removeAt q k)).setCurT (popRegs f ws (n.toNat + 1) t)))

/-- SEMW (05 R151). -/
def execSemw (c a : BitVec 5) (_sx : BitVec 4) (s : State) : Host.Outcome State Fault Refusal :=
  runWord s fun t =>
    if gated s then .error .wait
    else if ctrReached (ctrOf s s.cur.core c.toNat) ((t.rd .a a).setWidth 32) then .ok (nextA s) else .error .wait

/-- SEMP (05 R151): a post, a release of everything before it. -/
def execSemp (c a : BitVec 5) (sx : BitVec 4) (s : State) : Host.Outcome State Fault Refusal :=
  strong s true fun t =>
    if gated s then .error .wait else .ok (nextA (enqueueOp s (.post c.toNat ((t.rd .a a).setWidth 32) sx.toNat t.apc)))

/-- BQPUSH (05 R138): waits while bq is full: 32 entries, 4 in a handler (06 R183). -/
def execBqpush (p : BitVec 7) (s : State) : Host.Outcome State Fault Refusal :=
  runWord s fun t =>
    if (if t.inh then 4 else 32) ≤ t.queues.bq.length then .error .wait
    else .ok (nextA (s.setCurT { t with queues := { t.queues with bq := t.queues.bq ++ [t.pred p] } }))

/-- FQPOP (05 R138): waits while fq is empty. -/
def execFqpop (d : BitVec 5) (s : State) : Host.Outcome State Fault Refusal :=
  runWord s fun t => match t.queues.fq with
    | [] => .error .wait
    | v :: rest => .ok (nextA (s.setCurT ({ t with queues := { t.queues with fq := rest } }.wr .a d v)))

/-! ### Messages between cores (05 R153-R155) -/

/-- Messages a core's mailbox holds or will hold, those held behind stores among them: at most 8 (05 R153, R154). -/
def mailCount (s : State) (core : Nat) : Nat :=
  s.threads.foldl (fun n kv => n + kv.2.queued.countP (SaOp.isMail core))
    ((s.core core).mailbox.length + s.mails.countP fun m => m.dst == core)

/-- 05 R154: the fault of a scratchpad message buffer; 09 R241 for a held bank group. -/
def mailBuffer (s : State) (addr : W64) (kind : Kind) : Option Code :=
  let a := addr.toNat
  if a % 64 ≠ 0 then some fltAlign
  else if spadSize ≤ a then some fltAccess
  else if carveBase (s.core s.cur.core).ways < a + 64 then some fltAccess
  else if bankRefused s s.cur.core a kind then some fltBankConflict
  else none

/-- SEND (05 R154): 64 bytes of scratchpad to another core's mailbox, a release. -/
def execSend (d b : BitVec 5) (s : State) : Host.Outcome State Fault Refusal :=
  strong s true fun t =>
    let dst := (t.rd .a d).toNat
    let src := t.rd .a b
    let own := (s.core dst).owner
    if 255 < dst ∨ s.masks.cores.getLsbD dst = true then .error (.flt fltAccess (t.rd .a d))
    else if own ≠ 0 ∧ own ≠ t.ctx then .error (.flt fltAccess (t.rd .a d))
    else if gated s then .error .wait
    else match mailBuffer s src .read with
      | some c => .error (.flt c src)
      | none =>
        let key := spadSize * s.cur.core + src.toNat
        if fencedAll t.saq || t.saq.any (SaOp.touches src.toNat 64) || 8 ≤ mailCount s dst then .error .wait
        else if locPoisoned s (.spad key) 64 then .error (.flt fltUncorr 0)
        else .ok (nextA (enqueueNext s fun k => .mail dst (BitVec.ofNat 2048 (s.spad.readLE key 64)) k t.apc))

/-- RECV (05 R155): the oldest message into scratchpad, its sender into a[d]. -/
def execRecv (d b : BitVec 5) (s : State) : Host.Outcome State Fault Refusal :=
  runWord s fun t =>
    let dst := t.rd .a b
    if gated s then .error .wait
    else match mailBuffer s dst .write with
    | some c => .error (.flt c dst)
    | none => match (s.core s.cur.core).mailbox with
      | [] => .error .wait
      | m :: rest =>
        if fencedAll t.saq || t.saq.any (SaOp.touches dst.toNat 64) then .error .wait
        else
          let s := s.setCore s.cur.core { s.core s.cur.core with mailbox := rest }
          let s := writeLoc s (leBytes m.msg.toNat 64) (.spad (spadSize * s.cur.core + dst.toNat))
          .ok (nextA (s.setCurT (s.curT.wr .a d (BitVec.ofNat 64 m.src))))

/-- MAILBOX_DELIVER (05 R153): a message in flight arrives, behind every earlier one of its sender to its receiver. -/
def execMailboxDeliver (idx : Nat) (s : State) : Host.Outcome State Fault Refusal :=
  match s.mails[idx]? with
  | none => .next s
  | some m =>
    if (s.mails.take idx).any (fun x => x.src == m.src && x.dst == m.dst) || 8 ≤ (s.core m.dst).mailbox.length then .next s
    else
      let s := { s with mails := removeAt s.mails idx }
      .next (s.setCore m.dst { s.core m.dst with mailbox := (s.core m.dst).mailbox ++ [m] })

end Sys2Proof.Machine
end

