-- ==== Sys2Proof/Machine/Engine.lean ====
section
/-! DEFINITION. What the engines share (spec 01 R18-R27, 10 R275, R287, 11 R307-R309): command streams, completion, result
elements and posts, engine faults, the queue managers' event log. -/

namespace Sys2Proof.Machine

/-! ### The queue managers' state and log -/

namespace State

/-- A die's queue manager. -/
def qmg (s : State) (die : Nat) : Qmg := Tab.get {} s.qmgs die

def setQmg (s : State) (die : Nat) (q : Qmg) : State := { s with qmgs := Tab.set s.qmgs die q }

end State

/-- 10 R287: an entry of a die's event log; SLIPS and LOST count whether or not the log is set up (18 R495). -/
def qmgLog (s : State) (die kind grid x y : Nat) (code : Code) (core : Nat) (value : W64) : State :=
  let q := s.qmg die
  let bs := leBytes kind 1 ++ leBytes grid 1 ++ leBytes x 1 ++ leBytes y 1 ++ leBytes code.toNat 2 ++ leBytes core 2
    ++ leBytes value.toNat 8
  let (s', lg) := logWrite s q.log 16 4096 bs
  s'.setQmg die { q with
    log := lg
    since := if q.log.base = 0 then q.since else q.since + 1
    slips := if kind = 0 then min 65535 (q.slips + 1) else q.slips }

/-- The entry of a task in its queue manager. -/
def taskOf (s : State) (die entry : Nat) : Option Task := Tab.find (s.qmg die).tasks entry

def setTask (s : State) (die entry : Nat) (t : Task) : State :=
  let q := s.qmg die
  s.setQmg die { q with tasks := Tab.set q.tasks entry t }

/-- The entry is free (10 R273). When the last overrunning task goes, the frame counter rises at the next multiple of 128 ns
(10 R276). -/
def freeTask (s : State) (die entry : Nat) : State :=
  let q := s.qmg die
  let ts := Tab.drop q.tasks entry
  let resumes := (q.tasks.any fun kv => kv.2.overrun) && !(ts.any fun kv => kv.2.overrun)
  s.setQmg die { q with tasks := ts, tick := if resumes then s.now / 128 else q.tick }

/-! ### Masters, masters' threads -/

/-- The master of an engine's access (04 R96, R102): a core's engine reaches its scratchpad (04 R88), and a core's or a
cluster's engine uses the cluster's translation cache. -/
def whoE (eng core ctx : Nat) : Who :=
  if eng ≤ 2 then ⟨some core, ctx, 2 + eng, some (clusterOf core), false⟩
  else if eng ≤ 4 then ⟨none, ctx, 2 + eng, some (clusterOf core), false⟩
  else ⟨none, ctx, 2 + eng, none, false⟩

/-- The thread that pushed a command still runs the task that pushed it (06 R179, R180). -/
def pusherLive (s : State) (c : Cmd) : Bool :=
  let t := s.thread c.core c.slot
  c.task.isNone && t.live && t.disp == c.disp && !t.halted && !t.cancelled && t.failed.isNone

/-- The image that holds the thread that pushed a command (17 R460). -/
def outOf (s : State) (core slot disp : Nat) : Option OutThread :=
  s.outs.find? fun o => o.core == core && o.slot == slot && o.disp == disp

/-! ### Faults of engines -/

/-- An engine's fault reaches its thread, which holds it; one of a command that the running handler pushed fails the thread
(06 R180, R181). -/
def giveFault (s : State) (core slot : Nat) (f : OutFault) : State :=
  let t := s.thread core slot
  let p := f.pend
  if f.hand && t.inh && f.trap == t.traps then
    match failFor s core slot
      { code := p.code, stream := 2, async := true, pc := t.epc, eng := p.eng, index := p.index, status := p.status, addr := p.addr } with
    | some s => s
    | none => s.setThread core slot { t with pends := t.pends ++ [{ p with hand := true }] }
  else s.setThread core slot { t with pends := t.pends ++ [p] }

/-- An engine's fault: delivered to the pushing thread, which may lie in an image; reported when the thread has retired or there
is none (06 R180, 10 R275, R287). -/
def engineFault (s : State) (eng : Nat) (c : Cmd) (code : Code) (status addr : W64) : State :=
  match c.task with
  | some (die, entry) =>
    let s := qmgLog s die 5 eng 0 0 code 0xFFFF 0
    match taskOf s die entry with
    | some t => setTask s die entry { t with ended := some code }
    | none => s
  | none =>
    let f : OutFault :=
      ⟨c.hand, c.trap, { weak := false, code := code, eng := eng, index := c.index, status := status, addr := addr }⟩
    let mine := fun (o : OutThread) => o.core == c.core && o.slot == c.slot && o.disp == c.disp && !o.dead
    if pusherLive s c then giveFault s c.core c.slot f
    else if s.outs.any mine then { s with outs := s.outs.map fun o => if mine o then { o with faults := o.faults ++ [f] } else o }
    else qmgLog s (dieOf c.core) 5 eng 0 0 code c.core (BitVec.ofNat 64 c.index)

/-! ### Posts and elements -/

/-- A thread has come in with an exchange whose RESTORE is still to put its core section in place (17 R463). -/
def comesIn (s : State) (core slot disp : Nat) : Bool :=
  let w := s.swap core
  let t := s.thread core slot
  w.swaps && decide (4 ≤ w.phase) && t.live && t.disp == disp

/-- A post to a thread's counter, which may stand in the core section that RESTORE is to put in place. -/
def postFor (s : State) (core slot disp ctr : Nat) (amount : BitVec 32) : State :=
  if comesIn s core slot disp then
    let w := s.swap core
    if h : ctr < 32 then s.setSwap core { w with image := { w.image with ctr := w.image.ctr.set ctr (w.image.ctr[ctr] + amount) } } else s
  else postCtr s core ctr amount

/-- A post by an engine to a slot counter of the pushing core (05 R150); one of a swapped-out thread is parked (17 R460). -/
def enginePost (s : State) (c : Cmd) (ctr : Nat) (amount : BitVec 32) : State :=
  if c.task.isSome then s
  else match outOf s c.core c.slot c.disp with
    | some _ => { s with parks := s.parks ++ [⟨c.core, c.slot, c.disp, c.hand, false, ctr, [amount.zeroExtend 64]⟩] }
    | none => postFor s c.core c.slot c.disp ctr amount

/-- The entries of a park area that a post, or an element of n words, takes (17 R460). -/
def parkLen (n : Nat) : Nat := max 1 ((n + 2) / 3)

/-- Two threads lie in one image. -/
def OutThread.with (o x : OutThread) : Bool := x.core == o.core && x.image == o.image && x.ctx == o.ctx

/-- The entries appended to the park area of a thread's image, and those handed over for it that have not been appended yet. -/
def parkCount (s : State) (o : OutThread) : Nat :=
  s.parks.foldl (fun n p => if (outOf s p.core p.slot p.disp).any o.with then n + parkLen p.words.length else n)
    ((s.outs.filter o.with).foldl (fun n x => n + x.parked) 0)

/-- The park area holds room for n entries of a command whose thread lies in an image: 2,040 in all (17 R460). -/
def parkRoom (s : State) (c : Cmd) (n : Nat) : Bool :=
  c.task.isSome || match outOf s c.core c.slot c.disp with
    | some o => decide (parkCount s o + n ≤ 2040)
    | none => true

/-- The element a command places. -/
def elemOf (c : Cmd) (ws : List W64) : Elem := ⟨ws, c.slot, c.disp, c.hand⟩

/-- There is room for a command's element, or it will not enter a queue: its thread has ended, or is swapped out and the park
area has room. -/
def elemRoom (s : State) (eng : Nat) (c : Cmd) (e : Elem) : Bool :=
  (resultRoom s c.core eng || !elemLive s c.core e) && parkRoom s c (parkLen e.words.length)

/-- A command's element placed, parked or discarded (01 R24, 06 R179, 17 R460). -/
def giveElem (s : State) (eng : Nat) (c : Cmd) (e : Elem) : State :=
  if c.task.isSome then s
  else match outOf s c.core c.slot c.disp with
    | some _ => { s with parks := s.parks ++ [⟨c.core, c.slot, c.disp, e.hand, true, eng, e.words⟩] }
    | none => placeElem s c.core eng e

/-! ### Atomics of engines -/

/-- The line an address lies in. -/
def lineAddr (ea : W64) : W64 := ea &&& ~~~63

/-- An engine's atomic at a virtual address, checked as a write (04 R95, R102, R114): the old value. -/
def engineAtomic (s : State) (w : Who) (ea : W64) (n op v v2 : Nat) : X (State × Nat) :=
  match resolveNow s w ea n .write with
  | .error e => .error e
  | .ok (s, ls) => match ls with
    | [(.dev pa _, _)] => match portAtomic s pa n op v v2 with
      | (s, some old) => .ok (s, old)
      | (s, none) => .error (.flt fltUncorr (lineAddr ea) s)
    | [(.spad k, _)] =>
      let old := s.spad.readLE k n
      .ok ({ s with spad := s.spad.writeLE k n (atomicResult op (8 * n) old v v2) }, old)
    | [(.remote k, _)] =>
      let old := s.remote.readLE k n
      .ok ({ s with remote := s.remote.writeLE k n (atomicResult op (8 * n) old v v2) }, old)
    | _ => .error (.flt fltAccess ea s)

/-! ### Streams -/

/-- The stream with no running command. -/
def EStream.idle (st : EStream) : EStream :=
  { st with
    run := none, wait := 0, stopped := false, code := 0, held := none, done := false, prog := 0, data := [], since := 0, paused := 0 }

/-- How many commands of different streams run at once, where more streams than that may ask (13 R351, 16 R422; SCH's limit of 14
R374 passes its number of streams). -/
def runLimit (eng : Nat) : Option Nat :=
  if eng = engTre then some 32 else if eng = engLnk then some 256 else if eng = engXfr then some 64 else none

/-- The instance of an engine that serves a stream: a die's TRE, the package's LNK and XFR. -/
def instanceOf (eng src : Nat) : Nat := if eng = engTre then (if src < 256 then dieOf src else src - 256) else 0

/-- A command runs: it neither waits nor stands stopped, and has not done its work. A waiting one holds only its own stream. -/
def EStream.working (st : EStream) : Bool := st.run.isSome && !st.stopped && st.wait == 0 && !st.done

/-- The commands of a stream's engine that run. -/
def workingCount (s : State) (eng src : Nat) : Nat :=
  s.streams.countP fun kv => kv.1 / 512 == eng && instanceOf eng (kv.1 % 512) == instanceOf eng src && kv.2.working

/-- A command may go on after a wait: fewer than the limit run. -/
def runRoom (s : State) (eng src : Nat) : Bool := match runLimit eng with
  | none => true
  | some n => decide (workingCount s eng src < n)

/-- How far round a stream is from the one after the last served (13 R351, 16 R422; log 47). -/
def roundPlace (s : State) (eng src : Nat) : Nat := (src + 512 - Tab.get 0 s.served (2 * eng + instanceOf eng src)) % 512

/-- Streams beyond the limit are served round-robin: there is room for this one and for each that stands ready before it. -/
def runTurn (s : State) (eng src : Nat) : Bool := match runLimit eng with
  | none => true
  | some n =>
    let ahead := s.streams.countP fun kv => kv.1 / 512 == eng && instanceOf eng (kv.1 % 512) == instanceOf eng src
      && kv.2.run.isNone && !kv.2.queue.isEmpty && decide (roundPlace s eng (kv.1 % 512) < roundPlace s eng src)
    decide (workingCount s eng src + ahead < n)

/-- A stream starts commands: its engine takes any and has room, and a core that is being swapped starts none at CHK (09 R257, 17
R461). -/
def mayStart (s : State) (eng src : Nat) : Bool :=
  s.engineOn eng src && !(decide (eng ≤ 4) && eng != engAtt && (s.core src).gate) && runTurn s eng src

/-- The command a stream may start: its head, when nothing runs and it has not stopped (11 R307). -/
def nextCmd (s : State) (eng src : Nat) : Option Cmd :=
  let st := s.estream eng src
  if st.run.isSome || !mayStart s eng src then none else st.queue.head?

/-- The head starts. -/
def startCmd (s : State) (eng src : Nat) : State :=
  let st := s.estream eng src
  let s := if (runLimit eng).isSome then { s with served := Tab.set s.served (2 * eng + instanceOf eng src) (src + 1) } else s
  s.setEstream eng src { st.idle with run := st.queue.head?, queue := st.queue.tail, since := engClock s eng src }

/-- A command that faults stops its stream before any later one; one of a dispatched task is discarded (10 R275). -/
def stopCmd (s : State) (eng src : Nat) (c : Cmd) (code : Code) (addr : W64) (status : State → W64) : State :=
  let st := s.estream eng src
  if c.task.isSome then engineFault (s.setEstream eng src st.idle) eng c code 0 addr
  else
    let s := s.setEstream eng src { st.idle with run := some c, stopped := true, code := code }
    engineFault s eng c code (status s) addr

/-- FLUSH of a stream's control register (11 R325): the commands not started and a stopped one are discarded. -/
def flushStream (s : State) (eng src : Nat) : State :=
  let st := s.estream eng src
  s.setEstream eng src (if st.stopped then { st.idle with queue := [] } else { st with queue := [] })

/-- SKIP (11 R325): the stopped command is discarded. -/
def skipStream (s : State) (eng src : Nat) : State :=
  let st := s.estream eng src
  if st.stopped then s.setEstream eng src st.idle else s

/-- RESUME (11 R325): the stopped command is run again whole. -/
def resumeStream (s : State) (eng src : Nat) : State :=
  let st := s.estream eng src
  if st.stopped then s.setEstream eng src { st.idle with queue := st.run.toList ++ st.queue } else s

/-! ### Word 0 and completion (11 R308, R309) -/

/-- Word i of a command. -/
def Cmd.w (c : Cmd) (i : Nat) : W64 := c.words.getD i 0

/-- A command's code (03 R75). -/
def Cmd.op (c : Cmd) : Nat := bitsAt (c.w 0) 58 6

/-- Completion scope, bits 57-54 (11 R308). -/
def Cmd.doneScope (c : Cmd) : Nat := bitsAt (c.w 0) 54 4

/-- NOTE, bit 53 (11 R308). -/
def Cmd.note (c : Cmd) : Bool := (c.w 0).getLsbD 53

/-- PEN, bit 52 (11 R308). -/
def Cmd.pen (c : Cmd) : Bool := (c.w 0).getLsbD 52

/-- PCTR, bits 51-47 (11 R308). -/
def Cmd.pctr (c : Cmd) : Nat := bitsAt (c.w 0) 47 5

/-- 11 R308: the fault of a command's word count and of the fields all such commands share. -/
def commonFault (c : Cmd) (words : Nat) : Option Code :=
  if c.words.length ≠ words then some fltBadCmd
  else if 10 < c.doneScope then some fltBadScope
  else if !c.pen && c.pctr != 0 then some fltBadCmd
  else none

/-- The running command has done its work; it completes with an element when `ws` holds one (11 R309). -/
def workDone (s : State) (eng src : Nat) (c : Cmd) (ws : Option (List W64)) : State :=
  let st := s.estream eng src
  s.setEstream eng src { st with done := true, wait := 0, held := ws.map (elemOf c) }

/-- The element of a command whose NOTE asks for one. -/
def noted (c : Cmd) (ws : List W64) : Option (List W64) := if c.note then some ws else none

/-- The task of a dispatched command has ended well; TASK_RETIRE retires it (10 R273). -/
def taskDone (s : State) (c : Cmd) : State :=
  match c.task with
  | none => s
  | some (die, entry) => match taskOf s die entry with
    | some t => setTask s die entry { t with ended := some 0 }
    | none => s

/-- A command's post makes an entry of its own (05 R150); QMG's commands post nothing (10 R290). -/
def Cmd.posts (c : Cmd) (eng : Nat) : Bool := c.pen && eng != engQmg

/-- There is room for what a command hands over when it completes: its post and the element it holds (01 R24, 17 R460). -/
def handRoom (s : State) (eng : Nat) (c : Cmd) (held : Option Elem) : Bool :=
  (match held with
    | some e => elemRoom s eng c e
    | none => true)
  && parkRoom s c ((if c.posts eng then 1 else 0) + match held with | some e => parkLen e.words.length | none => 0)

/-- Who has written a log entry (14 R381): the thread that pushed a command, or the task that dispatched it. -/
def Cmd.writer (c : Cmd) : Nat × Nat × Nat := match c.task with
  | none => (c.core, c.slot, c.disp)
  | some (die, entry) => (512 + die, entry, 0)

/-- A completion is a release at its SCOPE (11 R309): at durable scope it waits for declarations and, at SCH, until its log entries
are durable (04 R117; log 44). CTX's commands, which make and process declarations, do not wait. -/
def durableHeld (s : State) (eng : Nat) (c : Cmd) : Bool :=
  let (core, slot, disp) := c.writer
  c.doneScope == 7 && decide (engAtt ≤ eng) && eng != engQmg && eng != engCtx
    && (declaring s core slot c.ctx || (eng == engSch && tailOpen s core slot disp))

/-- 11 R309, 01 R24: a command that has done its work completes: it posts (QMG's commands post nothing, 10 R290), and its
element enters the result queue, which it waits for while the queue is full. -/
def completeCmd (s : State) (eng src : Nat) : State :=
  let st := s.estream eng src
  match st.run with
  | none => s
  | some c =>
    if !st.done || st.stopped then s
    else if durableHeld s eng c || !handRoom s eng c st.held then s
    else
      let s := s.setEstream eng src st.idle
      let s := if c.posts eng then enginePost s c c.pctr 1 else s
      let s := match st.held with
        | some e => giveElem s eng c e
        | none => s
      taskDone s c

/-- 04 R102, R100: the engine queue's access table denies a pushed command its master, the thread's A-stream. -/
def pushDenied (s : State) (eng : Nat) (c : Cmd) : Bool := c.task.isNone && !mayCommand s (engineTarget eng c.core) c.ctx 0

/-- The fault that meets a command at the head before its own checks: the access table's (04 R102), an undefined code
(03 R75). The faulting address is 0 (log 43). -/
def headFault (s : State) (eng : Nat) (known : Nat → Bool) (c : Cmd) : Option Code :=
  if pushDenied s eng c then some fltAccess else if !known c.op then some fltBadCmd else none

/-- A step of an engine on the head of a stream: `ops` says which codes the engine defines, `mine` is the code of the step.
A head with an undefined code stops the stream with FLT_BADCMD at whichever step meets it (03 R75); a head of another
code leaves the state as it stands. -/
def onHead (s : State) (eng src : Nat) (known : Nat → Bool) (mine : Nat → Bool) (status : State → W64)
    (body : State → Cmd → State) : Host.Outcome State Fault Refusal :=
  match nextCmd s eng src with
  | none => .next s
  | some c => match headFault s eng known c with
    | some code => .next (stopCmd (startCmd s eng src) eng src c code 0 status)
    | none => if mine c.op then .next (body (startCmd s eng src) c) else .next s

/-- A step of an engine on commands of codes: the work of the running one, or the start of the head. `check` makes every check
of its fields before it has an effect (11 R308), `begins` what a start does; a head with an undefined code stops the stream at
whichever step meets it. -/
def runOrStart (s : State) (eng src : Nat) (known mine : Nat → Bool) (status : State → W64) (check : State → Cmd → Option (Code × W64))
    (work : State → Cmd → State) (begins : State → Cmd → State := fun s _ => s) : Host.Outcome State Fault Refusal :=
  let st := s.estream eng src
  match st.run with
  | some c => if mine c.op && !st.stopped && !st.done && st.wait == 0 then .next (work s c) else .next s
  | none => match st.queue.head? with
    | none => .next s
    | some c =>
      if !mayStart s eng src then .next s
      else match headFault s eng known c with
        | some code => .next (stopCmd (startCmd s eng src) eng src c code 0 status)
        | none =>
          if mine c.op then match check s c with
            | some (code, a) => .next (stopCmd (startCmd s eng src) eng src c code a status)
            | none => .next (begins (startCmd s eng src) c)
          else .next s

/-- The clocks that FLT_CMDBOUND allows (00 R14). -/
def boundClocks : Nat := 65536

/-- Tenths of a clock exceed FLT_CMDBOUND's clocks beyond `work` clocks (log 48). -/
def pastBound (tenths work : Nat) : Bool := decide (10 * (boundClocks + work) ≤ tenths)

/-- A running command has passed its bound: 65,536 clocks of its island beyond `work` clocks since its start, its waits not counted
(11 R324, 12 R341, 13 R364, 14 R390, 16 R451). -/
def boundDue (s : State) (eng src work : Nat) : Bool := pastBound (engClock s eng src - (s.estream eng src).since) work

/-- The FLT_CMDBOUND of a running command that neither waits nor has ended and has passed its bound. -/
def boundCmd (s : State) (eng src : Nat) (status : State → W64) (work : Nat := 0) : State :=
  let st := s.estream eng src
  match st.run with
  | some c => if st.working && boundDue s eng src work then stopCmd s eng src c fltCmdBound 0 status else s
  | none => s

/-- A stream's running command waits, in the state its chapter numbers so, with what it waits for. -/
def holdCmd (s : State) (eng src kind : Nat) (data : List W64) : State :=
  s.setEstream eng src { s.estream eng src with wait := kind, data := data, paused := engClock s eng src }

/-- What a stream carries with what it waits for from word 8 on. -/
def waitData (s : State) (eng src : Nat) (d : List W64) : List W64 :=
  let st := s.estream eng src
  st.data.take 8 ++ List.replicate (8 - st.data.length) 0 ++ d

/-- Clocks that do not count toward the bound begin, or have passed. -/
def EStream.pause (st : EStream) (now : Nat) : EStream := { st with paused := now }
def EStream.unpause (st : EStream) (now : Nat) : EStream := { st with since := st.since + (now - st.paused) }

/-! ### Memory ranges of engines -/

/-- The pieces of a range, each inside a line; fuel at least the lines. -/
def rangePieces : Nat → W64 → Nat → List (W64 × Nat)
  | 0, _, _ => []
  | k + 1, ea, n =>
    let m := min n (64 - ea.toNat % 64)
    if n = 0 then [] else (ea, m) :: rangePieces k (ea + BitVec.ofNat 64 m) (n - m)

/-- Bytes read piece by piece; FLT_UNCORR at the line's address (15 R406). -/
def readPieces (w : Who) : List (W64 × Nat) → State → X (State × List Byte)
  | [], s => .ok (s, [])
  | (ea, n) :: ps, s =>
    match locate s w ea n .read with
    | .error e => .error e
    | .ok (s, l) => match remoteAnswer s ea [(l, n)] with
      | .error e => .error e
      | .ok s => match readAll s (lineAddr ea) [(l, n)] with
        | .error e => .error e
        | .ok (s, bs) => match readPieces w ps s with
          | .error e => .error e
          | .ok (s, rest) => .ok (s, bs ++ rest)

/-- n bytes read from an address of any alignment. -/
def readRange (s : State) (w : Who) (ea : W64) (n : Nat) : X (State × List Byte) := readPieces w (rangePieces (n / 64 + 2) ea n) s

/-- The places that a write's pieces name, each checked, another package's by its answer. -/
def locatePieces (w : Who) : List (W64 × Nat) → State → X (State × List (Loc × Nat))
  | [], s => .ok (s, [])
  | (ea, n) :: ps, s =>
    match locate s w ea n .write with
    | .error e => .error e
    | .ok (s, l) => match remoteAnswer s ea [(l, n)] with
      | .error e => .error e
      | .ok s => match locatePieces w ps s with
        | .error e => .error e
        | .ok (s, ls) => .ok (s, (l, n) :: ls)

/-- Bytes written piece by piece, once every piece is checked. -/
def writePieces (w : Who) (ps : List (W64 × Nat)) (bs : List Byte) (s : State) : X State :=
  match locatePieces w ps s with
  | .error e => .error e
  | .ok (s, ls) => .ok (writeAll s ls bs)

/-- Bytes written from an address of any alignment up. -/
def writeRange (s : State) (w : Who) (ea : W64) (bs : List Byte) : X State :=
  writePieces w (rangePieces (bs.length / 64 + 2) ea bs.length) bs s

/-- An aligned value of n bytes, at most 8, read or written; misalignment faults (04 R92), and an uncorrectable error names the
line read. -/
def readVal (s : State) (w : Who) (ea : W64) (n : Nat) : X (State × Nat) :=
  match readMem s w ea n with
  | .error (.flt c a seen) => .error (.flt c (if c = fltUncorr then lineAddr a else a) seen)
  | .error .wait => .error .wait
  | .ok (s, bs) => .ok (s, leValue bs)

def writeVal (s : State) (w : Who) (ea : W64) (n v : Nat) : X State := writeMem s w ea (leBytes v n)

/-- A running command's work: its result, or its fault at an address. -/
def ranTo (s : State) (eng src : Nat) (c : Cmd) (status : State → W64) (r : X (State × Option (List W64))) : State :=
  match r with
  | .ok (s, ws) => workDone s eng src c ws
  | .error (.flt code a seen) => stopCmd (seen.getD s) eng src c code a status
  | .error .wait => s

/-! ### Commands with several accesses -/

/-- Why an engine's command does not go on: a fault, or a wait its chapter numbers, with what it waits for. -/
inductive Stop where
  | flt (code : Code) (addr : W64)
  | wait (kind : Nat) (data : List W64)

/-- A command's work: what it has done to the state stands when it stops. -/
abbrev Eng := ExceptT Stop (StateM State)

/-- An access inside a command; what it leaves behind when it faults stands. -/
def Eng.acc {α : Type} (f : State → X (State × α)) : Eng α := fun s =>
  match f s with
  | .ok (s, a) => (.ok a, s)
  | .error (.flt c a seen) => (.error (.flt c a), seen.getD s)
  | .error .wait => (.error (.wait 0 []), s)

/-- A write inside a command. -/
def Eng.put (f : State → X State) : Eng Unit := Eng.acc fun s => match f s with | .ok s => .ok (s, ()) | .error e => .error e

/-- A fault. -/
def Eng.fail {α : Type} (code : Code) (addr : W64) : Eng α := fun s => (.error (.flt code addr), s)

/-- A wait. -/
def Eng.hold {α : Type} (kind : Nat) (data : List W64) : Eng α := fun s => (.error (.wait kind data), s)

/-- The state as a command finds it. -/
def Eng.now : Eng State := fun s => (.ok s, s)

/-- A change that cannot fail. -/
def Eng.change (f : State → State) : Eng Unit := fun s => (.ok (), f s)

/-- A fault unless a condition holds. -/
def Eng.check (b : Bool) (code : Code) (addr : W64) : Eng Unit := if b then pure () else Eng.fail code addr

/-- A part that `after` follows when it stops. -/
def Eng.cleanup {α : Type} (m : Eng α) (after : State → State) : Eng α := fun s =>
  match m s with
  | (.ok a, s') => (.ok a, s')
  | (.error e, s') => (.error e, after s')

def engRead (w : Who) (ea : W64) (n : Nat) : Eng (List Byte) := Eng.acc fun s => readRange s w ea n
def engVal (w : Who) (ea : W64) (n : Nat) : Eng Nat := Eng.acc fun s => readVal s w ea n
def engWrite (w : Who) (ea : W64) (bs : List Byte) : Eng Unit := Eng.put fun s => writeRange s w ea bs
def engPut (w : Who) (ea : W64) (n v : Nat) : Eng Unit := Eng.put fun s => writeVal s w ea n v
def engAtomic (w : Who) (ea : W64) (n op v v2 : Nat) : Eng Nat := Eng.acc fun s => engineAtomic s w ea n op v v2

/-- The 64-bit words of bytes. -/
def words64 (bs : List Byte) : List W64 := (List.range (bs.length / 8)).map fun i => BitVec.ofNat 64 (leValue ((bs.drop (8 * i)).take 8))

/-- A command's work run: its completion, its fault, or its wait, noted in the stream with what it waits for. -/
def runEng (s : State) (eng src : Nat) (c : Cmd) (status : State → W64) (m : Eng (Option (List W64))) : State :=
  match m s with
  | (.ok ws, s) => workDone s eng src c ws
  | (.error (.flt code a), s) => stopCmd s eng src c code a status
  | (.error (.wait k d), s) => holdCmd s eng src k (waitData s eng src d)

/-- Word i of what a running command carries from step to step: its own in 0 to 7, what it waits for from 8. -/
def carried (s : State) (eng src i : Nat) : W64 := (s.estream eng src).data.getD i 0

/-- A word carried. -/
def carry (eng src i : Nat) (v : W64) : Eng Unit := Eng.change fun s =>
  let st := s.estream eng src
  let d := st.data ++ List.replicate (i + 1 - st.data.length) 0
  s.setEstream eng src { st with data := updAt (fun _ => v) d i }

/-- The wait of a stream is over. -/
def endWait (s : State) (eng src : Nat) : State :=
  let st := s.estream eng src
  s.setEstream eng src { st.unpause (engClock s eng src) with wait := 0, data := st.data.take 8 }

end Sys2Proof.Machine
end

