-- ==== Sys2Proof/Machine/Chain.lean ====
section
/-! DEFINITION. The loader and storer chain engines (spec 08 R213-R234), WAITID and RESIZE (05 R152, R156). -/

namespace Sys2Proof.Machine

namespace State

/-- A core's chain channel: 0-3 of LDC (engine 1), then of STC (engine 2), as the registers number them (08 R233). -/
def chan (s : State) (core eng ch : Nat) : Chan := Tab.get {} s.chans (core * 8 + (eng - 1) * 4 + ch % 4)

def setChan (s : State) (core eng ch : Nat) (c : Chan) : State :=
  { s with chans := Tab.set s.chans (core * 8 + (eng - 1) * 4 + ch % 4) c }

end State

/-! ### Registers (08 R233) -/

/-- STATE of ctl.chst. -/
def Chan.stateCode (c : Chan) : Nat := if c.refill.isSome then 4 else c.state

/-- Word i of a list of words. -/
def wordAt (ws : List W64) (i : Nat) : W64 := ws.getD i 0

/-- ctl.chst. -/
def Chan.status (c : Chan) : W64 :=
  let w := c.stateCode == 2
  BitVec.ofNat 64 ((if w then bitsAt (wordAt c.entry 1) 0 32 else 0) * 2 ^ 32 + c.stateCode * 2 ^ 29
    + (if w then bitsAt (wordAt c.entry 0) 54 5 else 0) * 2 ^ 24 + c.pend.length * 2 ^ 22 + c.runs * 2 ^ 20
    + (match c.kick with | some k => if (k.w 0).getLsbD 55 then 2 ^ 19 else 0 | none => 0)
    + (if c.state = 5 then c.code.toNat else 0))

/-- ctl.chid: ISSUED and DONE. -/
def Chan.ids (c : Chan) : W64 := BitVec.ofNat 64 (c.issued.toNat * 2 ^ 32 + c.done.toNat)

/-- ctl.chph; its read clears RCNT. -/
def Chan.phaseWord (c : Chan) : W64 := BitVec.ofNat 64 (c.rcnt * 2 ^ 56 + c.phase.toNat)

/-- The chain's HNG bit (08 R215). -/
def Chan.hinged (c : Chan) : Bool := match c.kick with | some k => (k.w 0).getLsbD 55 | none => false

/-! ### Entries (08 R218, R219, R224, R225) -/

def entryKind (ws : List W64) : Nat := bitsAt (wordAt ws 0) 60 4

/-- The bytes an entry takes. -/
def entryLen (ws : List W64) : Nat := if entryKind ws = 4 then 128 else 64

def entryToq (ws : List W64) : Bool := (wordAt ws 0).getLsbD 43

/-- A value of n bits as a signed number. -/
def signedOf (v n : Nat) : Int := if v < 2 ^ (n - 1) then v else (v : Int) - 2 ^ n

/-- A coordinate program (08 R224): unset fields are `none`. -/
structure Coord where
  log2 : Option Nat := none
  n : Tab Nat := []
  sstr : Tab Int := []
  dstr : Tab Int := []
  /-- By level × 2 + axis. -/
  cstr : Tab Int := []
  bound : Tab (Int × Int) := []
  pad : Option Nat := none
  group : Tab (Nat × Int) := []

/-- A field set once; `none` when it is set already. -/
def setOnce {α : Type} (t : Tab α) (k : Nat) (v : α) : Option (Tab α) := if (Tab.find t k).isSome then none else some (Tab.set t k v)

/-- 08 R225: a micro-order; `none` when it is malformed. -/
def Coord.order (c : Coord) (m : Nat) : Option Coord :=
  let f := fun (lo len : Nat) => m >>> lo % 2 ^ len
  let lvl := f 27 2
  match f 29 3 with
  | 0 => if f 4 25 = 0 ∧ f 0 4 ≤ 8 ∧ c.log2.isNone then some { c with log2 := some (f 0 4) } else none
  | 1 => if f 16 11 = 0 then (setOnce c.n lvl (f 0 16 + 1)).map fun t => { c with n := t } else none
  | 2 => (setOnce c.sstr lvl (signedOf (f 0 27) 27)).map fun t => { c with sstr := t }
  | 3 => (setOnce c.dstr lvl (signedOf (f 0 27) 27)).map fun t => { c with dstr := t }
  | 4 => if f 16 10 = 0 then (setOnce c.cstr (lvl * 2 + f 26 1) (signedOf (f 0 16) 16)).map fun t => { c with cstr := t } else none
  | 5 =>
    let lo := signedOf (f 14 14) 14
    let hi := signedOf (f 0 14) 14
    if lo ≤ hi then (setOnce c.bound (f 28 1) (lo, hi)).map fun t => { c with bound := t } else none
  | 6 => if f 8 21 = 0 ∧ c.pad.isNone then some { c with pad := some (f 0 8) } else none
  | _ => (setOnce c.group lvl (f 16 11 + 1, signedOf (f 0 16) 16)).map fun t => { c with group := t }

/-- The coordinate program of a COORD entry. -/
def coordOf (ws : List W64) : Option Coord :=
  let k := bitsAt (wordAt ws 0) 36 4 + 1
  ((List.range k).map fun i => bitsAt (wordAt ws (8 + i / 2)) (32 * (i % 2)) 32).foldl
    (fun (c : Option Coord) m => c.bind fun c => c.order m) (some {})

def Coord.count (c : Coord) (l : Nat) : Nat := Tab.get 1 c.n l
def Coord.elem (c : Coord) : Nat := 2 ^ c.log2.getD 6
def Coord.points (c : Coord) : Nat := c.count 0 * c.count 1 * c.count 2 * c.count 3

/-- Every word of a list is zero. -/
def zeros (ws : List W64) : Bool := ws.all fun w => w == 0

/-- 08 R213, R218, R219, R224-R226: why an entry is malformed for an engine, in a chain hinged or not, with a carve of
`ways`; FLT_BADSCOPE where its scope is its only fault. -/
def entryBad (eng : Nat) (hng : Bool) (ways : Nat) (ws : List W64) : Option Code :=
  let w := wordAt ws
  let toq := entryToq ws
  let low := fun (len : Nat) => bitsAt (w 0) 0 len == 0
  let m64 := fun (x : W64) => bitsAt x 0 6 == 0
  let toqOk := if toq then eng == 1 && w 3 == 0 else bitsAt (w 0) 40 3 == 0
  let rowOk := decide (1 ≤ bitsAt (w 4) 32 32) && decide (bitsAt (w 4) 32 32 ≤ 65536) && decide (bitsAt (w 4) 0 32 % 64 = 0)
    && decide (64 ≤ bitsAt (w 4) 0 32) && decide (bitsAt (w 4) 0 32 ≤ 4096) && m64 (w 2) && m64 (w 3) && m64 (w 6) && w 7 == 0
  let ok := match entryKind ws with
    | 1 =>
      let n := (w 4).toNat
      low 40 && toqOk && n % 64 == 0 && decide (64 ≤ n) && decide (n ≤ 2 ^ 22) && (!toq || n % 256 == 0) && m64 (w 2) && m64 (w 3)
        && (if toq then bitsAt (w 5) 0 3 == 0 && bitsAt (w 5) 57 7 == 0 else w 5 == 0) && w 6 == 0 && w 7 == 0
    | 2 => eng == 1 && low 40 && toqOk && rowOk && (!toq || bitsAt (w 4) 0 32 % 256 == 0)
    | 3 => eng == 2 && low 44 && rowOk
    | 4 => bitsAt (w 0) 32 4 == 0 && toqOk && zeros [w 4, w 5, w 6, w 7] && match coordOf ws with
      | none => false
      | some c => decide (c.points ≤ 65536) && decide (c.points * c.elem ≤ 2 ^ 22) && (!toq || c.points * c.elem % 256 == 0)
    | 5 => hng && low 44 && m64 (w 2) && m64 (w 3) && decide (64 ≤ (w 3).toNat) && decide ((w 3).toNat ≤ 2 ^ 22)
      && decide ((w 2).toNat + (w 3).toNat ≤ carveBase ways) && zeros [w 4, w 5, w 6, w 7]
    | 6 => low 43 && m64 (w 2) && (!toq || w 2 == 0) && zeros [w 3, w 4, w 5, w 6, w 7]
    | _ => false
  if !ok then some fltBadCmd else if 10 < bitsAt (w 0) 44 4 then some fltBadScope else none

/-! ### Beats -/

/-- One movement of at most 64 bytes: its source (`none` writes padding) and destination (`none` is the operand queue). -/
structure Beat where
  src : Option W64
  dst : Option W64
  n : Nat
  pad : Byte := 0

/-- The beats of a run of bytes, 64 at a time. -/
def runBeats (src dst : Option W64) (n : Nat) : List Beat :=
  (List.range (n / 64)).map fun i => ⟨src.map (· + BitVec.ofNat 64 (64 * i)), dst.map (· + BitVec.ofNat 64 (64 * i)), 64, 0⟩

/-- The destination of an entry, `none` with TOQ. -/
def entryDst (ws : List W64) : Option W64 := if entryToq ws then none else some (wordAt ws 3)

/-- The indices of a point of a coordinate program, numbered with level 0 fastest (08 R224). -/
def Coord.index (c : Coord) (i l : Nat) : Nat :=
  let n := c.count
  match l with
  | 0 => i % n 0 | 1 => i / n 0 % n 1 | 2 => i / (n 0 * n 1) % n 2 | _ => i / (n 0 * n 1 * n 2)

/-- A sum over the four levels. -/
def levelSum (f : Nat → Int) : Int := ((List.range 4).map f).foldl (· + ·) 0

/-- The destination address of a point (08 R224). -/
def Coord.dstAt (c : Coord) (ws : List W64) (i : Nat) : W64 :=
  let dense : Nat → Int := fun l => (c.elem * ((List.range l).map c.count).foldl (· * ·) 1 : Nat)
  wordAt ws 3 + BitVec.ofInt 64 (levelSum fun l => (Tab.find c.dstr l).getD (dense l) * c.index i l)

/-- 08 R224: a point of a coordinate program; a misaligned point is its address, a padded one's source too. -/
def Coord.point (c : Coord) (ws : List W64) (i : Nat) : Except W64 (List Beat) :=
  let k := c.index i
  let soff := levelSum fun l => match Tab.find c.group l with
    | some (g, gs) => Tab.get 0 c.sstr l * (k l % g : Nat) + 64 * gs * (k l / g : Nat)
    | none => Tab.get 0 c.sstr l * k l
  let at_ := fun (axis : Nat) => signedOf (bitsAt (wordAt ws 0) (16 * axis) 16) 16 + levelSum fun l => Tab.get 0 c.cstr (l * 2 + axis) * k l
  let off := fun (axis : Nat) => match Tab.find c.bound axis with
    | some (lo, hi) => decide (at_ axis < lo) || decide (hi < at_ axis)
    | none => false
  let src := wordAt ws 2 + BitVec.ofInt 64 soff
  let dst := c.dstAt ws i
  let padded := off 0 || off 1
  if src.toNat % c.elem != 0 then .error src
  else if !entryToq ws && dst.toNat % c.elem != 0 then .error dst
  else
    let b := min c.elem 64
    .ok ((List.range (c.elem / b)).map fun j =>
      let o := BitVec.ofNat 64 (b * j)
      ⟨if padded then none else some (src + o), if entryToq ws then none else some (dst + o), b, BitVec.ofNat 8 (c.pad.getD 0)⟩)

/-- The destination bytes of a point, as beats; none for a queue or a misaligned destination. -/
def Coord.dsts (c : Coord) (ws : List W64) (i : Nat) : List Beat :=
  let dst := c.dstAt ws i
  let b := min c.elem 64
  if entryToq ws || dst.toNat % c.elem != 0 then []
  else (List.range (c.elem / b)).map fun j => ⟨none, some (dst + BitVec.ofNat 64 (b * j)), b, 0⟩

/-- The points from number i on, as far as they are aligned, and the first misaligned address. -/
def Coord.beats (c : Coord) (ws : List W64) : Nat → Nat → List Beat × Option W64
  | 0, _ => ([], none)
  | n + 1, i => match c.point ws i with
    | .error a => ([], some a)
    | .ok bs => let (rest, e) := Coord.beats c ws n (i + 1); (bs ++ rest, e)

/-! ### Reading and writing pieces -/

/-- A read of at most one line: its bytes, and whether they are marked uncorrectable (15 R406). -/
def readPiece (s : State) (w : Who) (ea : W64) (n : Nat) : X (State × List Byte × Bool) :=
  match locate s w ea n .read with
  | .error e => .error e
  | .ok (s, l) => match remoteAnswer s ea [(l, n)] with
    | .error e => .error e
    | .ok s =>
      let (s, bs) := readLoc s n l
      .ok (s, bs, locPoisoned s l n)

/-- A write of at most one line to a place, with the mark of its data (15 R406). -/
def writeMarked (s : State) (bs : List Byte) (bad : Bool) (l : Loc) : State :=
  if !bad then writeLoc s bs l
  else match l with
    | .spad k =>
      let s := writeLoc s bs l
      { s with spadPoison := (List.range bs.length).map (k + ·) ++ s.spadPoison }
    | .dev pa _ => portWrite s pa bs true
    | _ => writeLoc s bs l

/-- A write of at most one line, with its mark when `bad`. -/
def writePiece (s : State) (w : Who) (ea : W64) (bs : List Byte) (bad : Bool) : X State :=
  match locate s w ea bs.length .write with
  | .error e => .error e
  | .ok (s, l) => match remoteAnswer s ea [(l, bs.length)] with
    | .error e => .error e
    | .ok s => .ok (writeMarked s bs bad l)

/-- n undefined bytes (00 R10). -/
def freeBytes (s : State) (n : Nat) : State × List Byte :=
  ({ s with freeCtr := s.freeCtr + n }, (List.range n).map fun i => Config.freeByte (s.freeCtr + i))

/-- The address of a read that carries the uncorrectable mark. -/
def markedAt (bad : Bool) (ea : W64) : Option W64 := if bad then some ea else none

/-- The indices of a list of 32-bit values in scratchpad, as far as they can be read (08 R219), the first that is marked
uncorrectable, and the fault that ends them. -/
def readIndices (s : State) (w : Who) (base : W64) : Nat → State × List Nat × Option W64 × Option Exc
  | 0 => (s, [], none, none)
  | n + 1 => match readIndices s w base n with
    | (s, xs, bad, some e) => (s, xs, bad, some e)
    | (s, xs, bad, none) =>
      let ea := base + BitVec.ofNat 64 (4 * n)
      if spadSize ≤ ea.toNat then (s, xs, bad, some (.flt fltAccess ea))
      else if ea.toNat % 4 ≠ 0 then (s, xs, bad, some (.flt fltAlign ea))
      else match readPiece s w ea 4 with
        | .error e => (s, xs, bad, some e)
        | .ok (s, bs, b) => (s, xs ++ [leValue bs], bad <|> markedAt b ea, none)

/-- A row's source or destination under an index (08 R219). -/
def indexed (base stride : W64) (x : Nat) : W64 := base + BitVec.ofNat 64 x * stride

/-- What a data entry is to move (08 R219, R224), its index list read: the state after that; the first index that was marked; the
beats up to `after`, the fault that ends them; and the beats that name all its destination bytes. -/
structure Plan where
  s : State
  bad : Option W64
  beats : List Beat
  dsts : List Beat
  /-- The list could not be read: nothing moves. -/
  unread : Option Exc := none
  after : Option Exc := none

/-- The plan of a data entry. The destinations of a SCATTER whose list breaks off are those it names. -/
def entryPlan (s : State) (w : Who) (ws : List W64) : Plan :=
  match entryKind ws with
  | 1 =>
    let bs := runBeats (some (wordAt ws 2)) (entryDst ws) (wordAt ws 4).toNat
    { s := s, bad := none, beats := bs, dsts := bs }
  | 4 => match coordOf ws with
    | none => { s := s, bad := none, beats := [], dsts := [] }
    | some c =>
      let (bs, e) := c.beats ws c.points 0
      { s := s, bad := none, beats := bs, dsts := (List.range c.points).flatMap (c.dsts ws), after := e.map (.flt fltAlign ·) }
  | kind =>
    let row := bitsAt (wordAt ws 4) 0 32
    let count := bitsAt (wordAt ws 4) 32 32
    let (s, xs, bad, e) := readIndices s w (wordAt ws 5) count
    let row_ := fun (i : Nat) => (entryDst ws).map (· + BitVec.ofNat 64 (row * i))
    let step := fun (p : Nat × Nat) =>
      let (x, i) := p
      if kind = 2 then runBeats (if x = 0xFFFFFFFF then none else some (indexed (wordAt ws 2) (wordAt ws 6) x)) (row_ i) row
      else if x = 0xFFFFFFFF then []
      else runBeats (some (wordAt ws 2 + BitVec.ofNat 64 (row * i))) (some (indexed (wordAt ws 3) (wordAt ws 6) x)) row
    let bs := (xs.zipIdx.map step).flatten
    { s := s, bad := bad, beats := bs, unread := e
      dsts := if kind = 2 then (List.range count).flatMap fun i => runBeats none (row_ i) row else bs }

/-- 08 R213: an address outside its engine's column. -/
def outOfColumn (eng : Nat) (bs : List Beat) : Option W64 :=
  (bs.filterMap fun b => if eng = 1 then b.dst else b.src).find? fun a => decide (spadSize ≤ a.toNat)

/-- The scratchpad line a storer's entry reads first that is marked uncorrectable, as its address (08 R228). -/
def markedSource (s : State) (core : Nat) (ws : List W64) (bs : List Beat) : Option W64 :=
  let list := if entryKind ws = 3 then (List.range (bitsAt (wordAt ws 4) 32 32)).map fun i => wordAt ws 5 + BitVec.ofNat 64 (4 * i) else []
  (list ++ bs.filterMap Beat.src).find? fun a => decide (a.toNat < spadSize) && locPoisoned s (.spad (spadSize * core + a.toNat)) 1

/-- Beats moved to memory in order (08 R219, R223); a marked read stops the entry, or is written with its mark (R227). -/
def moveBeats (w : Who) (stops : Bool) : List Beat → State → Bool → X (State × Bool)
  | [], s, bad => .ok (s, bad)
  | b :: bs, s, bad =>
    let got : X (State × List Byte × Bool) := match b.src with
      | none => .ok (s, List.replicate b.n b.pad, false)
      | some a => readPiece s w a b.n
    match got with
    | .error e => .error e
    | .ok (s, bytes, p) =>
      if p && stops then .error (.flt fltUncorr (b.src.getD 0) s)
      else match b.dst with
        | none => moveBeats w stops bs s (bad || p)
        | some d => match writePiece s w d bytes p with
          | .error e => .error e
          | .ok s => moveBeats w stops bs s (bad || p)

/-- The data of beats read for a row of a queue (08 R214): its bytes and the first address that carries the mark. -/
def rowBytes (w : Who) : List Beat → State → X (State × List Byte × Option W64)
  | [], s => .ok (s, [], none)
  | b :: bs, s =>
    let got : X (State × List Byte × Bool) := match b.src with
      | none => .ok (s, List.replicate b.n b.pad, false)
      | some a => readPiece s w a b.n
    match got with
    | .error e => .error e
    | .ok (s, bytes, p) => match rowBytes w bs s with
      | .error e => .error e
      | .ok (s, rest, q) => .ok (s, bytes ++ rest, markedAt p (b.src.getD 0) <|> q)

/-- A list cut into pieces of k; fuel at least its length. -/
def chunk {α : Type} (k : Nat) : Nat → List α → List (List α)
  | 0, _ => []
  | n + 1, xs => if xs.isEmpty then [] else xs.take k :: chunk k n (xs.drop k)

/-- A sideband of 40 bytes at an address of device memory or scratchpad (08 R219), and the first address that carries the mark. -/
def readSideband (s : State) (w : Who) (a : W64) : X (State × Sideband × Option W64) :=
  let go : X (State × List Byte × Option W64) := (List.range 5).foldl (fun r j => match r with
    | .error e => .error e
    | .ok (s, bs, p) =>
      let ea := a + BitVec.ofNat 64 (8 * j)
      match readPiece s w ea 8 with
      | .error e => .error e
      | .ok (s, more, q) => .ok (s, bs ++ more, p <|> markedAt q ea)) (.ok (s, [], none))
  match go with
  | .error e => .error e
  | .ok (s, bs, p) => .ok (s, BitVec.ofNat 320 (leValue bs), p)

/-- Where a chain's rows go (08 R214, 06 R183): nowhere when the kicking thread or the handler that kicked it has ended (log 33), else
its queues or the frozen ones. -/
def rowTarget (s : State) (k : Cmd) : Option Bool :=
  let t := s.thread k.core k.slot
  if !(t.live && t.disp == k.disp && !t.halted && !t.cancelled && t.failed.isNone) then none
  else if k.hand then (if t.inh && k.trap == t.traps then some false else none)
  else some t.inh

/-- A row appended to queue q of the kicking thread; `none` when the queue is full, or has left with its thread (08 R214, R232). -/
def appendChainRow (s : State) (k : Cmd) (q : Nat) (r : QRow) : Option State :=
  let t := s.thread k.core k.slot
  let put := fun (qs : QSet) (depth : Nat) =>
    if h : q < 8 then (if depth ≤ (qs.q[q]).length then none else some { qs with q := qs.q.set q (qs.q[q] ++ [r]) }) else none
  if (outOf s k.core k.slot k.disp).isSome then none
  else match rowTarget s k with
  | none => some s
  | some true => (put t.frozen 8).map fun qs => s.setThread k.core k.slot { t with frozen := qs }
  | some false => (put t.queues (rowDepth t)).map fun qs => s.setThread k.core k.slot { t with queues := qs }

/-- The state with what a fault leaves behind. -/
def Exc.after (s : State) : Exc → State
  | .flt _ _ seen => seen.getD s
  | .wait => s

/-- What moving an entry came to: the state, the rows its queue has been given, the mark of what it read, and why it has
not finished. -/
structure Moved where
  s : State
  given : Nat
  bad : Bool
  res : Option Exc

/-- Rows moved to a queue from row i on, each read once and appended when `give` (08 R214). -/
def moveRows (w : Who) (k : Cmd) (ws : List W64) (stops give : Bool) : List (List Beat) → Nat → State → Bool → Moved
  | [], i, s, bad => ⟨s, i, bad, none⟩
  | bs :: rows, i, s, bad =>
    match rowBytes w bs s with
    | .error e => ⟨s, i, bad, some e⟩
    | .ok (s1, bytes, p) =>
      let scl := wordAt ws 5
      let side : X (State × Sideband × Option W64) := if entryKind ws = 1 ∧ scl ≠ 0 then readSideband s1 w (scl + BitVec.ofNat 64 (40 * i)) else
        .ok (s1.takeFree.2, Config.freeSideband s1.freeCtr, none)
      match side with
      | .error e => ⟨s, i, bad, some e⟩
      | .ok (s1, sb, q) =>
        let mark := p <|> q
        if mark.isSome && stops then ⟨s, i, bad, some (.flt fltUncorr (mark.getD 0) s1)⟩
        else if give then
          match appendChainRow s1 k (bitsAt (wordAt ws 0) 40 3) { row := { data := BitVec.ofNat 2048 (leValue bytes), sb := sb }, bad := mark.isSome } with
          | none => ⟨s, i, bad, some .wait⟩
          | some s2 => moveRows w k ws stops give rows (i + 1) s2 (bad || mark.isSome)
        else moveRows w k ws stops give rows (i + 1) s1 (bad || mark.isSome)

/-- The destination bytes of beats become undefined (08 R229-R231), those outside the engine's column apart (R213). -/
def freeDst (w : Who) : List Beat → State → State
  | [], s => s
  | b :: bs, s =>
    match b.dst with
    | none => freeDst w bs s
    | some d =>
      if w.unit = 2 + engLdc ∧ spadSize ≤ d.toNat then freeDst w bs s
      else
        let (s1, bytes) := freeBytes s b.n
        match writePiece s1 w d bytes false with
        | .error _ => freeDst w bs s
        | .ok s2 => freeDst w bs s2

/-- Every destination byte of an entry becomes undefined. -/
def freeEntry (s : State) (w : Who) (ws : List W64) : State := freeDst w (entryPlan s w ws).dsts s

/-- The rows of 256 bytes that beats make; those a misaligned point cuts short make none (08 R214, R224). -/
def wholeRows (bs : List Beat) : List (List Beat) :=
  let n := 256 / ((bs.map Beat.n).headD 256)
  (chunk n bs.length bs).filter fun r => r.length == n

/-- An entry's data moved. `stops`: a marked read ends it (08 R227); `give`: its rows have not been given yet. -/
def runEntry (s : State) (eng : Nat) (w : Who) (k : Cmd) (ws : List W64) (stops give : Bool) (given : Nat) : Moved :=
  let p := entryPlan s w ws
  let bs := p.beats
  let fail := fun (s : State) (g : Nat) (e : Exc) => (⟨freeDst w p.dsts (e.after s), g, false, some e⟩ : Moved)
  match p.unread with
  | some .wait => ⟨s, given, false, some .wait⟩
  | some e => fail p.s given e
  | none =>
    if p.bad.isSome && stops then fail p.s given (.flt fltUncorr (p.bad.getD 0))
    else match outOfColumn eng bs with
      | some a => ⟨p.s, given, false, some (.flt fltAccess a)⟩
      | none =>
        let m : Moved :=
          if entryToq ws then
            let rows := wholeRows bs
            if give then moveRows w k ws stops true (rows.drop given) given p.s p.bad.isSome
            else moveRows w k ws stops false rows 0 p.s p.bad.isSome
          else match moveBeats w stops bs p.s p.bad.isSome with
            | .error e => ⟨p.s, given, false, some e⟩
            | .ok (s2, bad) => ⟨s2, given, bad, none⟩
        match m.res with
        | none => match p.after with
          | some e => fail m.s m.given e
          | none => m
        | some .wait => m
        | some e => fail m.s m.given e

/-! ### Channels -/

/-- The channel's access of memory for its kick (08 R213). -/
def chanWho (eng core : Nat) (k : Cmd) (exempt : Bool) : Who := { whoE eng core k.ctx with exempt := exempt }

/-- A channel stops with its fault (08 R229, R230). -/
def stopChan (s : State) (core eng ch : Nat) (c : Chan) (code : Code) (addr : W64) : State :=
  let c := { c with state := 5, code := code }
  let s := s.setChan core eng ch c
  match c.kick with
  | none => s
  | some k =>
    engineFault s eng { k with index := ch % 4 * 2 ^ 30 + c.num % 2 ^ 30 } code c.status addr

/-- A chain starts (08 R216, R229). -/
def Chan.begin (c : Chan) (k : Cmd) : Chan :=
  { c with
    kick := some k, state := 1, ptr := k.w 1, num := 0, high := 0, code := 0, runs := 0, entry := [], waited := false
    named := false, moved := false, given := 0, badLen := none, third := false, ahead := [], first := k.w 1, firstNum := 0
    transfers := 0, posts := [], poisoned := false, asks := none, askFailed := false }

/-- The channel becomes IDLE and starts its oldest pending kick (08 R220). -/
def Chan.finish (c : Chan) : Chan :=
  let c := { c with kick := none, state := 0, entry := [], ahead := [], runs := 0, code := 0 }
  match c.pend with
  | [] => c
  | k :: rest => { c with pend := rest }.begin k

/-- The entries fetched ahead past the current one. -/
def Chan.rest (c : Chan) : List (W64 × List W64) :=
  match c.ahead with
  | (a, _) :: more => if a = c.ptr then more else []
  | [] => []

/-- The next entry begins (08 R220). -/
def Chan.advance (c : Chan) (ptr : W64) : Chan :=
  { c with
    state := 1, ptr := ptr, num := c.num + 1, high := max c.high (c.num + 1), entry := [], waited := false, named := false
    moved := false, given := 0, badLen := none, third := false, asks := none, askFailed := false
    ahead := c.rest }

/-- The current entry has been passed before: it skips its wait, keeps its identifier and makes no post (08 R227). -/
def Chan.again (c : Chan) : Bool := decide (c.num < c.high)

/-- The post an entry asks for (08 R218). -/
def entryPost (ws : List W64) : Option (Nat × BitVec 32) :=
  if (wordAt ws 0).getLsbD 53 then some (bitsAt (wordAt ws 0) 48 5, BitVec.ofNat 32 (bitsAt (wordAt ws 1) 32 32)) else none

/-- Posts made to the core's slot counters (08 R221, R226). -/
def makePosts (s : State) (core : Nat) (ps : List (Nat × BitVec 32)) : State := ps.foldl (fun s p => postCtr s core p.1 p.2) s

/-- An entry ends: its post is made, or kept for its phase's commit (08 R221, R226); an unhinged transfer completes. -/
def endEntry (s : State) (core eng ch : Nat) (ws : List W64) (next : W64) : State :=
  let c := s.chan core eng ch
  let ps := if c.again then [] else (entryPost ws).toList
  let c' := c.advance next
  if c.hinged then s.setChan core eng ch { c' with posts := c.posts ++ ps }
  else makePosts (s.setChan core eng ch { c' with done := if c.named then c.issued else c.done }) core ps

/-- The words of an entry at an address of device memory or scratchpad (08 R213, R218). Words that carry the uncorrectable mark stop
the channel with FLT_UNCORR at the entry, in a hinged chain too: the mark of R227 is that of data (log 28). -/
def fetchEntry (s : State) (w : Who) (ea : W64) : X (State × List W64) :=
  let words : List Byte → List W64 := fun bs => (List.range 8).map fun i => BitVec.ofNat 64 (leValue ((bs.drop (8 * i)).take 8))
  let part : State → W64 → X (State × List W64) := fun s ea => match readPiece s w ea 64 with
    | .error e => .error e
    | .ok (s, bs, bad) => if bad then .error (.flt fltUncorr ea s) else .ok (s, words bs)
  match part s ea with
  | .error e => .error e
  | .ok (s, ws) =>
    if entryKind ws ≠ 4 then .ok (s, ws)
    else match part s (ea + 64) with
      | .error e => .error e
      | .ok (s, more) => .ok (s, ws ++ more)

/-- The entries a channel fetches ahead, at most n, none past an unsatisfied wait (08 R223). -/
def fetchAhead (w : Who) : Nat → State → W64 → State × List (W64 × List W64)
  | 0, s, _ => (s, [])
  | n + 1, s, ea =>
    match fetchEntry s w ea with
    | .error _ => (s, [])
    | .ok (s, ws) =>
      if (wordAt ws 0).getLsbD 59 || (entryKind ws == 6 && entryToq ws) then (s, [(ea, ws)])
      else
        let (s, rest) := fetchAhead w n s (if entryKind ws = 6 then wordAt ws 2 else ea + BitVec.ofNat 64 (entryLen ws))
        (s, (ea, ws) :: rest)

/-- A fetched entry, or the fault and the bytes SKIP passes (08 R229, R230). -/
inductive Fetched where
  | entry (s : State) (ws : List W64)
  | bad (s : State) (code : Code) (addr : W64) (len : Nat)

/-- The entry at a channel's pointer: the one in hand, one fetched ahead, or one fetched now; checked (08 R218). A malformed
entry's faulting address is its own (log 28). -/
def fetchFor (s : State) (eng core : Nat) (c : Chan) (k : Cmd) : Fetched :=
  let check := fun (s : State) (ws : List W64) => match entryBad eng c.hinged (s.core core).ways ws with
    | none => Fetched.entry s ws
    | some code => .bad s code c.ptr (entryLen ws)
  if !c.entry.isEmpty then .entry s c.entry
  else match c.ahead with
    | (a, ws) :: _ => if a = c.ptr then check s ws else match fetchEntry s (chanWho eng core k false) c.ptr with
      | .error (.flt code a seen) => .bad (seen.getD s) code a 64
      | .error .wait => .bad s 0 0 64
      | .ok (s, ws) => check s ws
    | [] => match fetchEntry s (chanWho eng core k false) c.ptr with
      | .error (.flt code a seen) => .bad (seen.getD s) code a 64
      | .error .wait => .bad s 0 0 64
      | .ok (s, ws) => check s ws

/-- An entry's wait holds (08 R221). -/
def entryReady (s : State) (core : Nat) (c : Chan) (ws : List W64) : Bool :=
  !(wordAt ws 0).getLsbD 59 || c.waited || c.again
    || ctrReached (ctrOf s core (bitsAt (wordAt ws 0) 54 5)) (BitVec.ofNat 32 (bitsAt (wordAt ws 1) 0 32))

/-- A chain of the engine holds its element for want of room: the engine has stopped (01 R24). -/
def chainHeld (s : State) (core eng : Nat) : Bool := (List.range 4).any fun ch => (s.chan core eng ch).note.isSome

/-- The channel may start entries (01 R24, 08 R232, 17 R461, R471). -/
def chanGoes (s : State) (core eng : Nat) : Bool := mayStart s engLdc core && !chainHeld s core eng

/-- A step of a channel on its entry of a kind: fetched and checked, its wait held or satisfied, then `act` (08 R229). -/
def onEntry (s : State) (core eng ch : Nat) (kind : Nat) (act : State → Cmd → List W64 → State) : State :=
  let c := s.chan core eng ch
  match c.kick with
  | none => s
  | some k =>
    if c.refill.isSome || (c.state != 1 && c.state != 2) || !chanGoes s core eng then s
    else match fetchFor s eng core c k with
      | .bad s code addr len => stopChan s core eng ch { c with badLen := some len } code addr
      | .entry s' ws =>
        if entryKind ws ≠ kind then s
        else if entryReady s' core c ws then
          act (s'.setChan core eng ch { c with state := 1, entry := ws, waited := true }) k ws
        else s'.setChan core eng ch { c with state := 2, entry := ws }

/-! ### Refills (08 R228) -/

/-- A refill's answer reaches the consumers that wait for a line: the storer channels here, MAT in its own record. -/
def answerLine (s : State) (core line : Nat) (ok : Bool) : State :=
  let s := (List.range 4).foldl (fun s ch =>
    let c := s.chan core 2 ch
    if c.asks = some line then s.setChan core 2 ch { c with asks := none, askFailed := !ok } else s) s
  let m := Tab.get {} s.mats core
  let answer := fun (r : MatRun) => if r.asks == some line && r.answer.isNone then { r with answer := some ok } else r
  { s with mats := Tab.set s.mats core { m with runs := m.runs.map answer } }

/-- A step of a refill on its entry of a kind. -/
def onRefill (s : State) (core eng ch : Nat) (kind : Nat) (act : State → Refill → List W64 → State) : State :=
  let c := s.chan core eng ch
  match c.refill with
  | none => s
  | some r =>
    if r.outcome.isSome || !s.islandOn (clusterOf core) || chainHeld s core eng then s
    else
      let fail := fun (s : State) => s.setChan core eng ch { c with refill := some { r with outcome := some false } }
      match fetchEntry s (chanWho eng core r.kick r.forMat) r.ptr with
      | .error _ => fail s
      | .ok (s', ws) =>
        if (entryBad eng true (s.core core).ways ws).isSome then fail s'
        else if entryKind ws ≠ kind then s
        else act s' r ws

/-- The refill moves on to an entry, or ends with an outcome. -/
def refillTo (s : State) (core eng ch : Nat) (r : Refill) (ptr : W64) (outcome : Option Bool) : State :=
  s.setChan core eng ch { s.chan core eng ch with refill := some { r with ptr := ptr, outcome := outcome } }

/-- Whether a consumer of the core waits for a line: whether MAT is one. -/
def waitsFor (s : State) (core line : Nat) : Option Bool :=
  let mat := (Tab.get {} s.mats core).runs.any fun r => r.asks == some line && r.answer.isNone
  if mat then some true
  else if (List.range 4).any fun ch => (s.chan core 2 ch).asks == some line then some false else none

/-- The loader channel of a core that holds a phase covering a scratchpad line's address: its number and the phase. -/
def holderOf (s : State) (core line : Nat) : Option (Nat × HeldPhase) :=
  ((List.range 4).flatMap fun ch => (s.chan core 1 ch).held.reverse.map fun h => (ch, h)).find? fun p =>
    decide (p.2.base ≤ line) && decide (line < p.2.base + p.2.len)

/-- REFILL_REQUEST (08 R228): a consumer of a marked line asks; the channel's next run of the phase begins at its entry
boundary, or the refill fails at once. -/
def execRefillRequest (core line : Nat) (s : State) : Host.Outcome State Fault Refusal :=
  match waitsFor s core line with
  | none => .next s
  | some forMat => match holderOf s core line with
    | none => .next (answerLine s core line false)
    | some (ch, h) =>
      let c := s.chan core 1 ch
      if c.state = 5 ∨ h.runs ≥ 3 then .next (answerLine s core line false)
      else if c.refill.isSome ∨ (c.state = 3 ∧ c.moved = false) then .next s
      else .next (s.setChan core 1 ch { c with
        rcnt := min 255 (c.rcnt + 1)
        held := c.held.map fun x => if x.index == h.index then { x with runs := x.runs + 1 } else x
        refill := some { index := h.index, line := line, forMat := forMat, kick := h.kick, ptr := h.first } })

/-- REFILL_DONE (08 R228): a refill run that has ended is reported, and its channel goes back to where it stood. -/
def execRefillDone (core eng ch : Nat) (s : State) : Host.Outcome State Fault Refusal :=
  let c := s.chan core eng ch
  match c.refill with
  | none => .next s
  | some r => match r.outcome with
    | none => .next s
    | some ok => .next (answerLine (s.setChan core eng ch { c with refill := none }) core r.line ok)

/-! ### Data entries -/

/-- A data entry of a refill: run again without posts or queue rows (08 R228). -/
def refillData (s : State) (core eng ch : Nat) (r : Refill) (ws : List W64) : State :=
  let m := runEntry s eng (chanWho eng core r.kick r.forMat) r.kick ws false false 0
  match m.res with
  | none => refillTo m.s core eng ch r (r.ptr + BitVec.ofNat 64 (entryLen ws)) none
  | some _ => refillTo m.s core eng ch r r.ptr (some false)

/-- A data entry starts: it takes its identifier when first started, and later entries may be fetched ahead (08 R222, R223). -/
def startData (core eng ch : Nat) (s : State) (k : Cmd) (ws : List W64) : State :=
  let c := s.chan core eng ch
  let (n, s) := s.choose 5
  let next := c.ptr + BitVec.ofNat 64 (entryLen ws)
  let (s, ahead) := fetchAhead (chanWho eng core k false) n s next
  let fresh := !c.again && !c.named
  s.setChan core eng ch { c with
    state := 3, named := c.named || fresh, issued := if fresh then c.issued + 1 else c.issued
    transfers := if fresh then c.transfers + 1 else c.transfers
    since := engClock s eng core, stall := none
    ahead := if c.rest.isEmpty then (c.ptr, ws) :: ahead else c.ahead }

/-- The data of a started entry moves (08 R219, R223, R227-R229). -/
def moveData (core eng ch : Nat) (s : State) (k : Cmd) (ws : List W64) : State :=
  let c := s.chan core eng ch
  let w := chanWho eng core k false
  let marked := if eng = 2 then markedSource s core ws (entryPlan s w ws).beats else none
  match marked with
  | some a =>
    if c.askFailed then stopChan (freeEntry s w ws) core eng ch { c with askFailed := false } fltUncorr a
    else s.setChan core eng ch { c with asks := some (a.toNat / 64 * 64) }
  | none =>
    let m := runEntry s eng w k ws (!c.hinged) (!c.again) c.given
    let c := { c with
      given := m.given, askFailed := false, poisoned := c.poisoned || m.bad
      since := c.since + (c.stall.map (engClock s eng core - ·)).getD 0, stall := none }
    match m.res with
    | some (.flt code a _) => stopChan m.s core eng ch c code a
    | some .wait => m.s.setChan core eng ch { c with stall := some (engClock s eng core) }
    | none =>
      if c.hinged then endEntry (m.s.setChan core eng ch c) core eng ch ws (c.ptr + BitVec.ofNat 64 (entryLen ws))
      else m.s.setChan core eng ch { c with moved := true }

/-- A step of a data entry: its data while it is in MOVE, else its start; a refill's entry first (08 R228, R229). -/
def dataEntry (s : State) (core eng ch kind : Nat) : State :=
  let c := s.chan core eng ch
  if c.refill.isSome then onRefill s core eng ch kind fun s r ws => refillData s core eng ch r ws
  else if c.state = 3 ∧ chainHeld s core eng = false then
    match c.kick with
    | some k => if entryKind c.entry = kind ∧ c.moved = false ∧ c.asks = none then moveData core eng ch s k c.entry else s
    | none => s
  else onEntry s core eng ch kind fun s k ws => startData core eng ch s k ws

/-- A step on one of a core's eight channels; no other number names one. -/
def chanStep (eng ch : Nat) (s t : State) : Host.Outcome State Fault Refusal :=
  if (eng = 1 ∨ eng = 2) ∧ ch < 4 then .next t else .next s

/-- COPY (08 R219). -/
def execCopy (core eng ch : Nat) (s : State) : Host.Outcome State Fault Refusal := chanStep eng ch s (dataEntry s core eng ch 1)

/-- GATHER (08 R219). -/
def execGather (core eng ch : Nat) (s : State) : Host.Outcome State Fault Refusal := chanStep eng ch s (dataEntry s core eng ch 2)

/-- SCATTER (08 R219). -/
def execScatter (core eng ch : Nat) (s : State) : Host.Outcome State Fault Refusal := chanStep eng ch s (dataEntry s core eng ch 3)

/-- COORD (08 R224, R225). -/
def execCoord (core eng ch : Nat) (s : State) : Host.Outcome State Fault Refusal := chanStep eng ch s (dataEntry s core eng ch 4)

/-- CHAIN_ENTRY_COMPLETE (08 R221, R222): an unhinged entry whose data is performed completes and posts. -/
def execChainEntryComplete (core eng ch : Nat) (s : State) : Host.Outcome State Fault Refusal :=
  let c := s.chan core eng ch
  if c.state = 3 ∧ c.moved = true ∧ c.refill = none then
    chanStep eng ch s (endEntry s core eng ch c.entry (c.ptr + BitVec.ofNat 64 (entryLen c.entry)))
  else .next s

/-- The entry's next row waits for room in its queue, which counts toward no bound (08 R214). -/
def queueWait (s : State) (c : Chan) (k : Cmd) : Bool :=
  entryToq c.entry && !c.again && (appendChainRow s k (bitsAt (wordAt c.entry 0) 40 3) {}).isNone

/-- CHAIN_CMDBOUND (08 R229): an entry's data has taken 65,536 clocks, queue waits apart. -/
def execChainCmdbound (core eng ch : Nat) (s : State) : Host.Outcome State Fault Refusal :=
  let c := s.chan core eng ch
  match c.kick with
  | none => .next s
  | some k =>
    if c.state = 3 ∧ c.moved = false ∧ c.refill = none ∧ queueWait s c k = false
        ∧ pastBound (c.stall.getD (engClock s eng core) - c.since) 0 = true then
      chanStep eng ch s (stopChan (freeEntry s (chanWho eng core k false) c.entry) core eng ch { c with asks := none } fltCmdBound 0)
    else .next s

/-! ### Hinges and links (08 R220, R226, R227) -/

/-- A phase runs again from its first entry (08 R227), fetching its entries again (log 28). -/
def rerunPhase (c : Chan) (runs : Nat) (rcnt : Nat) : Chan :=
  { c with
    state := 1, ptr := c.first, num := c.firstNum, high := c.num + 1, runs := runs, rcnt := rcnt, poisoned := false, entry := [], ahead := []
    waited := false, named := false, moved := false, given := 0, third := false, code := 0 }

/-- A phase commits (08 R226): DONE rises, the posts are made with the closing entry's own last, the phase index rises, and a
HINGE's phase is held. -/
def commitPhase (s : State) (core eng ch : Nat) (k : Cmd) (ws : List W64) : State :=
  let c := s.chan core eng ch
  let held := if entryKind ws = 5 then
      let h : HeldPhase := ⟨k, c.first, c.phase, (wordAt ws 2).toNat, (wordAt ws 3).toNat, c.runs + 1⟩
      (c.held ++ [h]).drop (c.held.length - 1)
    else c.held
  let s := s.setChan core eng ch { c with
    done := c.issued, phase := c.phase + 1, runs := 0, held := held, posts := [], transfers := 0, poisoned := false
    first := c.ptr + 64, firstNum := c.num + 1 }
  makePosts s core (c.posts ++ (entryPost ws).toList)

/-- A phase's end: commit, another run, or the stop after the third (08 R226, R227); `committed` goes on. -/
def endPhase (core eng ch : Nat) (s : State) (k : Cmd) (ws : List W64) (committed : State → State) : State :=
  let c := s.chan core eng ch
  if c.poisoned && c.runs < 2 then s.setChan core eng ch (rerunPhase c (c.runs + 1) (min 255 (c.rcnt + 1)))
  else if c.poisoned then stopChan s core eng ch { c with third := true } fltUncorr (c.phase.zeroExtend 64)
  else committed (commitPhase s core eng ch k ws)

/-- The channel passes its HINGE. -/
def passHinge (core eng ch : Nat) (s : State) : State :=
  let c := s.chan core eng ch
  s.setChan core eng ch (c.advance (c.ptr + 64))

/-- The chain ends (08 R217, R220); while its element finds no room it does not, and the engine stops (01 R24). -/
def endChain (core eng ch : Nat) (k : Cmd) (s : State) : State :=
  let c := s.chan core eng ch
  if (k.w 0).getLsbD 54 then
    let e := elemOf k [BitVec.ofNat 64 (c.done.toNat + ch % 4 * 2 ^ 32)]
    if elemRoom s eng k e then giveElem (s.setChan core eng ch c.finish) eng k e else s.setChan core eng ch { c with note := some e }
  else s.setChan core eng ch c.finish

/-- HINGE (08 R226, R227). -/
def execHinge (core eng ch : Nat) (s : State) : Host.Outcome State Fault Refusal :=
  chanStep eng ch s (if (s.chan core eng ch).refill.isSome then
      onRefill s core eng ch 5 fun s r _ => refillTo s core eng ch r r.ptr (some true)
    else onEntry s core eng ch 5 fun s k ws => endPhase core eng ch s k ws (passHinge core eng ch))

/-- A LINK past its wait (08 R220, R226). -/
def linkEntry (core eng ch : Nat) (s : State) (k : Cmd) (ws : List W64) : State :=
  let c := s.chan core eng ch
  if !entryToq ws then endEntry s core eng ch ws (wordAt ws 2)
  else if c.hinged && c.transfers != 0 then endPhase core eng ch s k ws (endChain core eng ch k)
  else endChain core eng ch k (makePosts (s.setChan core eng ch { c with posts := [] }) core (c.posts ++ (entryPost ws).toList))

/-- An entry that moves data, or a HINGE, follows an address before the END, as memory stands; at most n entries are looked at. -/
def dataFollows (w : Who) : Nat → State → W64 → Bool
  | 0, _, _ => false
  | n + 1, s, ea => match fetchEntry s w ea with
    | .ok (s, ws) =>
      if entryKind ws = 6 then !entryToq ws && dataFollows w n s (wordAt ws 2) else decide (1 ≤ entryKind ws) && decide (entryKind ws ≤ 5)
    | .error _ => false

/-- 08 R226: in a final phase of LINK entries alone each post is made at its entry, as in an unhinged chain (log 28). -/
def flushPosts (s : State) (core eng ch : Nat) : State :=
  let c := s.chan core eng ch
  match c.kick with
  | some k =>
    if c.hinged && c.transfers == 0 && !c.posts.isEmpty && !dataFollows (chanWho eng core k false) 4096 s c.ptr then
      makePosts (s.setChan core eng ch { c with posts := [] }) core c.posts
    else s
  | none => s

/-- LINK (08 R220). -/
def execLink (core eng ch : Nat) (s : State) : Host.Outcome State Fault Refusal :=
  chanStep eng ch s (if (s.chan core eng ch).refill.isSome then
      onRefill s core eng ch 6 fun s r ws =>
        if entryToq ws then refillTo s core eng ch r r.ptr (some true) else refillTo s core eng ch r (wordAt ws 2) none
    else onEntry (flushPosts s core eng ch) core eng ch 6 fun s k ws => linkEntry core eng ch s k ws)

/-! ### Commands (08 R215, R216, R230, R231) -/

/-- 08 R215: a malformed command. -/
def chainCmdBad (c : Cmd) : Bool :=
  let low := fun (n : Nat) => bitsAt (c.w 0) 0 n == 0
  !match c.op with
    | 1 => c.words.length == 2 && low 54 && bitsAt (c.w 1) 57 7 == 0 && bitsAt (c.w 1) 0 6 == 0
    | 2 => c.words.length == 1 && low 55
    | 3 => c.words.length == 1 && low 56
    | _ => false

/-- A command of a chain engine taken from its queue head: a malformed one is discarded with its fault (08 R215). -/
def onChainCmd (core eng op : Nat) (s : State) (act : State → Cmd → Nat → Option State) : Host.Outcome State Fault Refusal :=
  if eng ≠ 1 ∧ eng ≠ 2 then .next s
  else
    let st := s.estream eng core
    match st.queue with
    | [] => .next s
    | c :: rest =>
      let s' := s.setEstream eng core { st with queue := rest }
      let ch := bitsAt (c.w 0) 56 2
      let fault := fun (code : Code) => engineFault s' eng { c with index := ch * 2 ^ 30 + 0x3FFFFFFF } code (s.chan core eng ch).status 0
      if chainHeld s core eng then .next s
      else if pushDenied s eng c then .next (fault fltAccess)
      else if chainCmdBad c then .next (fault fltBadCmd)
      else if c.op = op ∧ chanGoes s core eng = true then .next ((act s' c ch).getD s)
      else .next s

/-- CKICK (08 R216): it joins the channel's pending list, or starts an idle channel; a full list keeps it at the head. -/
def execCkick (core eng : Nat) (s : State) : Host.Outcome State Fault Refusal :=
  onChainCmd core eng 1 s fun s k ch =>
    let c := s.chan core eng ch
    if c.kick.isNone then some (s.setChan core eng ch (c.begin k))
    else if c.pend.length < 2 then some (s.setChan core eng ch { c with pend := c.pend ++ [k] })
    else none

/-- CRESUME with SKIP (08 R230): the stopped entry counts as complete, its destination bytes undefined; a malformed one is passed; a phase's end commits. -/
def skipEntry (s : State) (core eng ch : Nat) (k : Cmd) : State :=
  let c := s.chan core eng ch
  let c0 := { c with state := 1, code := 0, third := false, askFailed := false }
  match c.badLen with
  | some len => s.setChan core eng ch (c0.advance (c.ptr + BitVec.ofNat 64 len))
  | none =>
    let s := s.setChan core eng ch c0
    if c.third then
      let s := commitPhase s core eng ch k c.entry
      if entryKind c.entry = 5 then passHinge core eng ch s else endChain core eng ch k s
    else endEntry (freeEntry s (chanWho eng core k false) c.entry) core eng ch c.entry (c.ptr + BitVec.ofNat 64 (entryLen c.entry))

/-- CRESUME (08 R230): the stopped entry starts again, a third-run phase runs again with a fresh allowance. -/
def execCresume (core eng : Nat) (s : State) : Host.Outcome State Fault Refusal :=
  onChainCmd core eng 2 s fun s cmd ch =>
    let c := s.chan core eng ch
    match c.kick with
    | none => some s
    | some k =>
      if c.state ≠ 5 then some s
      else if (cmd.w 0).getLsbD 55 then some (skipEntry s core eng ch k)
      else if c.third then some (s.setChan core eng ch (rerunPhase c 0 c.rcnt))
      else some (s.setChan core eng ch { c with
        state := 1, code := 0, badLen := none, moved := false, askFailed := false, entry := [], ahead := [] })

/-- CABORT (08 R231): movement stops, the bytes in progress are undefined, pending kicks and held phases go, DONE := ISSUED. A chain
kicked with NOTE places no element (log 28). -/
def execCabort (core eng : Nat) (s : State) : Host.Outcome State Fault Refusal :=
  onChainCmd core eng 3 s fun s _ ch =>
    let c := s.chan core eng ch
    let s := match c.refill with
      | some r => answerLine s core r.line false
      | none => s
    let c := s.chan core eng ch
    let moving := match c.refill with
      | some r => match fetchEntry s (chanWho eng core r.kick r.forMat) r.ptr with
        | .ok (_, ws) => some (r.kick, ws)
        | .error _ => none
      | none => match c.kick with
        | some k => if c.state = 3 ∧ c.moved = false then some (k, c.entry) else none
        | none => none
    let s := match moving with
      | some (k, ws) => freeEntry s (chanWho eng core k true) ws
      | none => s
    some (s.setChan core eng ch ({ c with pend := [], held := [], refill := none, done := c.issued, asks := none, askFailed := false }.finish))

/-! ### Result elements of every engine -/

/-- RESULT_ELEMENT_PLACE (01 R24): a held result enters its queue once POPR has made room, and its command completes; a
chain engine's element belongs to a channel, whose chain then ends (08 R217). -/
def execResultElementPlace (eng src : Nat) (s : State) : Host.Outcome State Fault Refusal :=
  if eng = 1 ∨ eng = 2 then
    .next ((List.range 4).foldl (fun s ch =>
      let c := s.chan src eng ch
      match c.note with
      | some e =>
        let k : Cmd := ⟨[], src, e.slot, e.disp, e.hand, 0, 0, 0, none, 0⟩
        if elemRoom s eng k e then giveElem (s.setChan src eng ch { c with note := none }.finish) eng k e else s
      | none => s) s)
  else if (s.estream eng src).held.isSome then .next (completeCmd s eng src) else .next s

/-! ### WAITID and RESIZE -/

/-- WAITID (05 R152). -/
def execWaitid (e : BitVec 5) (h : BitVec 2) (a : BitVec 5) (s : State) : Host.Outcome State Fault Refusal :=
  runWord s fun t =>
    if e ≠ 1 ∧ e ≠ 2 then .error (.flt fltIllegal 0)
    else if gated s then .error .wait
    else if ctrReached (s.chan s.cur.core e.toNat h.toNat).done ((t.rd .a a).setWidth 32) then .ok (nextA s) else .error .wait

/-- No command of MAT, LDC or STC runs on a core (05 R156): a chain runs from its kick to its end or stop (08 R216). -/
def enginesQuiet (s : State) (core : Nat) : Bool :=
  (Tab.get {} s.mats core).runs.all (fun r => r.stage == 2 || r.stage == 4)
    && (List.range 8).all fun i =>
      let c := s.chan core (1 + i / 4) (i % 4)
      (c.kick.isNone || c.state == 5) && c.refill.isNone

/-- RESIZE (05 R156): a FENCE.ar; then, once the engines are quiet, the carve's boundary moves and the bytes that come back
to scratchpad are undefined. -/
def execResize (w : BitVec 3) (s : State) : Host.Outcome State Fault Refusal :=
  strong s true fun t =>
    let core := s.cur.core
    let k := (s.core core).ways
    if 4 < w.toNat then .error (.flt fltIllegal 0)
    else match readGrant s t.ctx 4 with
    | .error e => .error e
    | .ok (s, false) => .error (.flt fltPriv 0 s)
    | .ok (s, true) =>
    if gated s then .error .wait
    else if w.toNat = k then .ok (nextA (enqueueOp s (.fence true 0 t.apc)))
    else if !t.saq.isEmpty || t.atomsOut != 0 || !enginesQuiet s core then .error .wait
    else
      let lo := carveBase k
      let n := carveBase w.toNat - lo
      let (s1, bytes) := if w.toNat < k then freeBytes s n else (s, [])
      let base := spadSize * core + lo
      let back := fun (b : Nat) => decide (base ≤ b) && decide (b < base + bytes.length)
      let s1 := { s1 with spad := s1.spad.writeBytes base bytes, spadPoison := s1.spadPoison.filter fun l => !back l }
      .ok (nextA (s1.setCore core { s1.core core with ways := w.toNat }))

end Sys2Proof.Machine
end

