-- ==== Sys2Proof/Machine/Flags.lean ====
section
/-! DEFINITION. The modes and sticky flags of the tile unit: ctl.fpmode (02 R50-R52) and ctl.tfmt (07 R191), and the
flushing of subnormals. -/

namespace Sys2Proof.Machine

/-- FF of ctl.tfmt (07 R191). -/
def Thread.floatFmt (t : Thread) : Fmt :=
  match bitsAt t.tfmt 0 4 with
  | 1 => .bf16 | 2 => .fp16 | _ => .fp32

/-- IF of ctl.tfmt (07 R191). -/
def Thread.intFmt (t : Thread) : Fmt :=
  match bitsAt t.tfmt 4 4 with
  | 7 => .int16 | 8 => .int8 | 10 => .uint8 | _ => .int32

/-- Rows of a reduction's span: 2^RSPAN (07 R191). -/
def Thread.span (t : Thread) : Nat := 2 ^ bitsAt t.tfmt 8 3

/-- ISAT of ctl.tfmt (07 R191). -/
def Thread.isat (t : Thread) : Bool := t.tfmt.getLsbD 11

/-- MIRROR bit of a physical register (07 R191). -/
def Thread.mirrored (t : Thread) (p : Nat) : Bool := t.tfmt.getLsbD (16 + p)

/-- Registers mirrored (07 R191, R211): the copies of those that were not may be read from the 16th clock on. -/
def Thread.mirror (t : Thread) (regs : BitVec 8) : Thread :=
  { t with
    tfmt := t.tfmt ||| (regs.zeroExtend 64 <<< 16)
    mirrorAt := (List.range 8).foldl (fun m p => if regs.getLsbD p && !t.mirrored p then Tab.set m p t.eclk else m) t.mirrorAt }

/-- RM of ctl.fpmode (02 R51). -/
def Thread.rm (t : Thread) : Rnd := (Rnd.ofCode 0 (bitsAt t.fpmode 0 3)).getD .rne

/-- FTZ of ctl.fpmode (02 R51). -/
def Thread.ftz (t : Thread) : Bool := t.fpmode.getLsbD 3

/-- The sticky flags of ctl.fpmode, bits 13-8 (02 R51). -/
def Thread.flags (t : Thread) : FFlags := t.fpmode.extractLsb' 8 6

/-- Sticky flags set (02 R51). -/
def Thread.addFlags (t : Thread) (f : FFlags) : Thread :=
  { t with fpmode := t.fpmode ||| (f.zeroExtend 64 <<< 8) }

/-- A float encoding is a subnormal of its format. -/
def isSubnormal (f : Fmt) (code : Nat) : Bool :=
  let s := f.spec
  let mag := code % 2 ^ (s.width - 1)
  mag != 0 && decide (mag < 2 ^ s.frac)

/-- The zero of an encoding's sign. -/
def zeroOf (f : Fmt) (code : Nat) : Nat := code / 2 ^ (f.spec.width - 1) * 2 ^ (f.spec.width - 1)

/-- in() of 07 R196: FTZ reads a subnormal as a zero of its sign (02 R50). -/
def flushIn (ftz : Bool) (f : Fmt) (code : Nat) : Nat := if ftz && isSubnormal f code then zeroOf f code else code

/-- out() of 07 R196: FTZ replaces a subnormal result by a zero of its sign, with UF and NX (02 R50). -/
def flushOut (ftz : Bool) (f : Fmt) (r : Nat × FFlags) : Nat × FFlags :=
  if ftz && isSubnormal f r.1 then (zeroOf f r.1, r.2 ||| FFlags.uf ||| FFlags.nx) else r

/-- The value of an element as in() gives it. -/
def inValue (ftz : Bool) (f : Fmt) (code : Nat) : Fl := f.decode (flushIn ftz f code)

/-- A value rounded into a float format as out() gives it, saturation off, with the flags raised before it. -/
def outCode (ftz : Bool) (f : Fmt) (mode : Rnd) (x : Fl × FFlags) : Nat × FFlags :=
  let (c, fl) := flushOut ftz f (roundFloat f mode false x.1)
  (c, x.2 ||| fl)

end Sys2Proof.Machine
end

