-- ==== Sys2Proof/WellFormed.lean ====
section
/-! DEFINITION. Which instructions are well formed: the field values a word may hold (03 R65-R67, order 3), scope codes
(order 5), the predicate halves and stream limits of the issuing stream (orders 2 and 4), and the unit numbers of steps. -/

namespace Sys2Proof

open Sys2Proof.Machine

/-- 03 R67 order 3: field values inside the ranges of R65, R66 and the tile chapter; spare fields have no argument. -/
def Instr.fieldsOk : Instr → Bool
  | .cmp _ _ _ c | .cmpi _ _ c _ => decide (c.toNat ≤ 5)
  | .sta r _ _ sx _ | .staRow r _ sx _ => r == 1 || sx == 0
  | .atom _ _ _ o z _ _ => decide (o.toNat ≤ 9) && (o != 1 || z == 0)
  | .atomnr _ _ o z _ r => decide (o.toNat ≤ 9) && (o != 1 || z == 0) && (r == 0 || r == 2)
  | .cas _ _ v _ _ _ => v != 31
  | .fence k _ => decide (k.toNat ≤ 2)
  | .push e f n _ | .popr e f n _ => decide (e.toNat ≤ 11) && decide (f.toNat + n.toNat ≤ 31)
  | .waitid e _ _ => e == 1 || e == 2
  | .resize w => decide (w.toNat ≤ 4)
  | .barrier sx => decide (10 < sx.toNat) || levelValid sx.toNat
  | .wakewait a => a != 31
  | .fcvt r _ _ _ _ m => decide (r.toNat ≤ 5) && m != 3
  | .bcast _ _ _ m | .lshift _ _ _ _ m | .lrot _ _ _ _ m => m != 3
  | .rowset _ _ _ _ m | .twid _ _ _ _ m => decide (m.toNat ≤ 1)
  | .rngrow _ _ sx => sx != 31
  | _ => true

/-- 03 R67 order 5: the scope field of an instruction that has one is 0-10. -/
def Instr.scopeOk : Instr → Bool
  | .lda _ _ _ sx _ | .str _ _ _ sx _ | .sta _ _ _ sx _ | .staRow _ _ sx _ | .atom _ _ _ _ _ sx _
  | .atomnr _ _ _ _ sx _ | .cas _ _ _ _ sx _ | .fence _ sx | .push _ _ _ sx | .popr _ _ _ sx | .semw _ _ sx
  | .semp _ _ sx | .barrier sx => scopeValid sx.toNat
  | _ => true

/-- 03 R63: a predicate field lies in the issuing stream's half. -/
def predHalf (st : Stream) (p : BitVec 7) : Bool :=
  match st with
  | .a => decide (p.toNat < 64)
  | .e => decide (64 ≤ p.toNat)

/-- 03 R67 order 4: predicate halves; ROTCLR only in E; BQPUSH and FQPOP only in A; LOOP with rot only in E. -/
def Instr.halvesOk (st : Stream) : Instr → Bool
  | .rotclr | .loopE _ _ _ => st == .e
  | .fqpop _ | .loopA _ _ => st == .a
  | .bqpush p => st == .a && predHalf .a p
  | .ifp p _ | .cmp p _ _ _ | .cmpi p _ _ _ | .br p _ _ => predHalf st p
  | .selp _ _ _ p => predHalf st p
  | .pand d a b | .por d a b | .pxor d a b | .pandn d a b | .porn d a b | .pnand d a b | .pnor d a b
  | .pxnor d a b => predHalf st d && predHalf st a && predHalf st b
  | .pnot d a => predHalf st d && predHalf st a
  | .pset d | .pclr d => predHalf st d
  | _ => true

/-- The unit numbers of a step lie in the package (01 R15); an instruction word names no unit. -/
def Instr.unitOk : Instr → Bool
  | .tileResultLand core slot _ | .storePerform core slot _ | .wakewaitWake core slot | .trapEntry core slot
  | .remoteResponse core slot _ _ | .hostReadCompletion core slot =>
      decide (core < 256) && decide (slot < 16)
  | .resultElementPlace eng src =>
      decide (eng < 12) && decide (src < 258)
  | .ckick core eng | .cresume core eng | .cabort core eng =>
      decide (core < 256) && (eng == 1 || eng == 2)
  | .copy core eng ch | .gather core eng ch | .scatter core eng ch | .coord core eng ch | .hinge core eng ch
  | .link core eng ch | .chainEntryComplete core eng ch | .refillDone core eng ch | .chainCmdbound core eng ch =>
      decide (core < 256) && (eng == 1 || eng == 2) && decide (ch < 4)
  | .refillRequest core _ | .mloadw core | .mswap core | .mmul core | .mdrain core | .mkat core
  | .matComplete core _ | .matRefillResult core | .matCmdbound core | .matFlush core | .matSkip core
  | .matResume core | .ccrc core | .ccmp core | .cstat core | .chkComplete core | .chkCmdbound core
  | .chkFlush core | .chkSkip core | .chkResume core | .publish core | .nest core | .gridCreate core
  | .gridDestroy core | .gridReset core | .lattice core | .frameGo core | .frameStop core | .frameSetbase core
  | .cancel core | .status core | .qmgSkip core | .qmgResume core | .stealAttempt core | .tileDispatch core _
  | .astep core | .btpost core | .btfork core | .btcommit core | .bttrim core | .btstat core | .arriveWaitEnd core
  | .busyWaitEnd core | .attComplete core | .attCmdbound core | .attFlush core | .attSkip core | .attResume core
  | .treFlush core | .treSkip core | .treResume core | .schFlush core | .schSkip core | .schResume core
  | .lnkFlush core | .lnkSkip core | .lnkResume core | .xfrFlush core | .xfrSkip core | .xfrResume core
  | .ctxswap core | .ctxspill core | .shadowFillDone core | .slotsStopped core | .bankExchangeDone core
  | .coreDrainDone core | .imageSaveDone core | .imageRestoreDone core | .parkEntry core | .mustsaveAdd core
  | .mustsaveRemove core | .mustsaveClear core | .shutstatStatus core | .shutstatLoad core _ | .ctxComplete core
  | .ctxCmdbound core | .ctxFlush core | .ctxSkip core | .ctxResume core =>
      decide (core < 256)
  | .publishCarry die | .frameTick die | .taskOverrun die | .taskPlace die | .engineTaskDispatch die _
  | .taskRetire die _ | .priorityAge die _ | .sample die | .ringWaitEnd die | .smpComplete die
  | .smpElementPlace die _ | .smpCmdbound die =>
      decide (die < 2)
  | .scoreboardRebuild die grid _ _ =>
      decide (die < 2) && decide (grid < 64)
  | .tdesc src | .batchQueueWaitEnd src | .texpand src | .poolWaitEnd src | .tback src | .treuse src
  | .drainEnd src | .tcfgInit src | .tcfgSetp src | .tcfgRelease src | .tstat src | .treComplete src
  | .treCmdbound src | .search src | .searchRoundEnd src | .fetchkv src | .idxappend src | .idxdelete src
  | .idxseal src | .idxmerge src | .waitlogEnd src | .waitmergeEnd src | .schComplete src | .schCmdbound src
  | .dqputDraft src | .dqputVerdict src | .dqgetDraft src | .dqgetVerdict src | .waitdqEnd src | .coll src
  | .collComplete src | .wakepost src | .lnkstat src | .lnkComplete src | .lnkCmdbound src | .xferl src
  | .xfrArriveWaitEnd src | .arriveOr src | .xfrComplete src | .xfrCmdbound src =>
      decide (src < 258)
  | .treeReclaim die tid =>
      decide (die < 2) && decide (tid < 16)
  | .hopIssue ctl die =>
      decide (ctl < 32) && decide (die < 8)
  | .hopReadDone ctl _ _ =>
      decide (ctl < 32)
  | .mergeDone xid _ | .logEntryProgram xid =>
      decide (xid < 64)
  | .portRead port _ _ _ | .portWrite port | .portAtomic port | .fillReturn port _ | .entryDrain port _
  | .drainDone port _ | .channelRetire port | .patrolScrub port _ _ =>
      decide (port < 192)
  | .bankActivate port bank | .rfmWindowEnd port bank | .refresh port bank | .countWindowEnd port bank =>
      decide (port < 192) && decide (bank < 16)
  | .flitReceive lk _ | .flitReplay lk | .moduleRetrain lk | .modulePauseEnd lk =>
      decide (lk < 178)
  | .laneFail lk lane =>
      decide (lk < 160) && decide (lane < 66)
  | .fabricLaneFail port lane =>
      decide (port < 18) && decide (lane < 8)
  | .routeFail pkg port =>
      decide (pkg < 64) && decide (port < 18)
  | .withdrawNotice gid =>
      decide (gid < 256)
  | .islandThermal isl _ | .powerLimit isl =>
      decide (isl < 40)
  | .domainBringUp pkg _ _ =>
      decide (pkg < 64)
  | _ => true

/-- A well-formed instruction: its fields, its scope and its units exist. -/
def Instr.WellFormed (i : Instr) : Bool := i.fieldsOk && i.scopeOk && i.unitOk

end Sys2Proof
end

