-- ==== Sys2Proof/Decode.lean ====
section
/-! DEFINITION. The words of the instructions (03 R59-R66) and their decoding with the checks of 03 R67, orders 1 to 5. A
word decodes to the instruction its fields name when that instruction's own word is the same word, so every spare bit is
checked zero (R65). Order 6 (the REP checks) spans two words and is made at issue (Machine/Issue.lean). -/

namespace Sys2Proof

open Sys2Proof.Machine

/-- Format RR and its kin: major, three 5-bit fields, 11 bits (03 R61). -/
def wRR (maj : BitVec 6) (d a b : BitVec 5) (fn : BitVec 11) : W32 := maj ++ d ++ a ++ b ++ fn

/-- Format RI. -/
def wRI (maj : BitVec 6) (d a : BitVec 5) (im : BitVec 16) : W32 := maj ++ d ++ a ++ im

/-- Format PL. -/
def wPL (d a b : BitVec 7) (fn : BitVec 5) : W32 := 0x0E#6 ++ d ++ a ++ b ++ fn

/-- Format M (LD, ST). -/
def wM (maj : BitVec 6) (d b : BitVec 5) (z : BitVec 2) (o : BitVec 14) : W32 := maj ++ d ++ b ++ z ++ o

/-- Format MO (LDA, STR). -/
def wMO (maj : BitVec 6) (d b : BitVec 5) (z : BitVec 2) (sx : BitVec 4) (o : BitVec 10) : W32 :=
  maj ++ d ++ b ++ z ++ sx ++ o

/-- Format SA (STA). -/
def wSA (row r : BitVec 1) (b : BitVec 5) (z : BitVec 2) (sx : BitVec 4) (o : BitVec 10) : W32 :=
  0x1C#6 ++ row ++ r ++ 0#3 ++ b ++ z ++ sx ++ o

/-- Format AT (ATOM, ATOMNR, CAS). -/
def wAT (maj : BitVec 6) (d b v : BitVec 5) (op : BitVec 5) (sx : BitVec 4) (r : BitVec 2) : W32 :=
  maj ++ d ++ b ++ v ++ op ++ sx ++ r

/-- Format EN (PUSH, POPR). -/
def wEN (maj : BitVec 6) (e f : BitVec 5) (n : BitVec 3) (sx : BitVec 4) : W32 := maj ++ e ++ f ++ n ++ sx ++ 0#9

/-- Format SM (SEMW, SEMP). -/
def wSM (fn : BitVec 1) (c a : BitVec 5) (sx : BitVec 4) : W32 := 0x25#6 ++ fn ++ c ++ a ++ sx ++ 0#11

/-- Format SY. -/
def wSY (fn : BitVec 4) (d a : BitVec 5) (im : BitVec 12) : W32 := 0x2F#6 ++ fn ++ d ++ a ++ im

/-- Format T. -/
def wT (maj : BitVec 6) (fn : BitVec 3) (t : BitVec 2) (d a b : BitVec 7) : W32 := maj ++ fn ++ t ++ d ++ a ++ b

/-- Format TS. -/
def wTS (maj : BitVec 6) (fn : BitVec 3) (t : BitVec 2) (d a : BitVec 7) (sx : BitVec 5) (m : BitVec 2) : W32 :=
  maj ++ fn ++ t ++ d ++ a ++ sx ++ m

/-- The word of an instruction; zero for a step, which has none. -/
def encode : Instr → W32
  | .nop => 0
  | .rotclr => 0x00#6 ++ 1#5 ++ 0#21
  | .bqpush p => 0x00#6 ++ 2#5 ++ p ++ 0#14
  | .fqpop d => 0x00#6 ++ 3#5 ++ 0#7 ++ d ++ 0#9
  | .ifp p n => 0x01#6 ++ p ++ n ++ 0#18
  | .rep c d a b => 0x02#6 ++ c ++ d ++ a ++ b ++ 0#6
  | .add d a b => wRR 0x04 d a b 0
  | .sub d a b => wRR 0x04 d a b 1
  | .mul d a b => wRR 0x04 d a b 2
  | .mulh d a b => wRR 0x04 d a b 3
  | .mulhu d a b => wRR 0x04 d a b 4
  | .div d a b => wRR 0x04 d a b 5
  | .divu d a b => wRR 0x04 d a b 6
  | .rem d a b => wRR 0x04 d a b 7
  | .remu d a b => wRR 0x04 d a b 8
  | .and d a b => wRR 0x04 d a b 9
  | .or d a b => wRR 0x04 d a b 10
  | .xor d a b => wRR 0x04 d a b 11
  | .andn d a b => wRR 0x04 d a b 12
  | .orn d a b => wRR 0x04 d a b 13
  | .shl d a b => wRR 0x04 d a b 14
  | .shr d a b => wRR 0x04 d a b 15
  | .sar d a b => wRR 0x04 d a b 16
  | .min d a b => wRR 0x04 d a b 17
  | .max d a b => wRR 0x04 d a b 18
  | .minu d a b => wRR 0x04 d a b 19
  | .maxu d a b => wRR 0x04 d a b 20
  | .clz d a => wRR 0x04 d a 0 21
  | .ctz d a => wRR 0x04 d a 0 22
  | .popc d a => wRR 0x04 d a 0 23
  | .bswap d a => wRR 0x04 d a 0 24
  | .addi d a im => wRI 0x05 d a im
  | .andi d a im => wRI 0x06 d a im
  | .ori d a im => wRI 0x07 d a im
  | .xori d a im => wRI 0x08 d a im
  | .shli d a sx => wRI 0x09 d a (0#2 ++ 0#8 ++ sx)
  | .shri d a sx => wRI 0x09 d a (1#2 ++ 0#8 ++ sx)
  | .sari d a sx => wRI 0x09 d a (2#2 ++ 0#8 ++ sx)
  | .movhi d im => wRI 0x0A d 0 im
  | .movk d l im => wRI 0x0B d (0#3 ++ l) im
  | .cmp p a b c => 0x0C#6 ++ p ++ a ++ b ++ 0#6 ++ c
  | .cmpi p a c im => 0x0D#6 ++ p ++ a ++ c ++ im
  | .pand d a b => wPL d a b 0
  | .por d a b => wPL d a b 1
  | .pxor d a b => wPL d a b 2
  | .pandn d a b => wPL d a b 3
  | .porn d a b => wPL d a b 4
  | .pnand d a b => wPL d a b 5
  | .pnor d a b => wPL d a b 6
  | .pxnor d a b => wPL d a b 7
  | .pnot d a => wPL d a 0 8
  | .pset d => wPL d 0 0 9
  | .pclr d => wPL d 0 0 10
  | .selp d a b p => 0x0F#6 ++ d ++ a ++ b ++ p ++ 0#4
  | .br p n d => 0x10#6 ++ p ++ n ++ d
  | .jmp d => 0x11#6 ++ d
  | .call d => 0x12#6 ++ d
  | .jr a => wRR 0x13 0 a 0 0
  | .ret => wRR 0x13 0 0 0 1
  | .callr a => wRR 0x13 0 a 0 2
  | .loopA c d => 0x14#6 ++ c ++ 0#2 ++ 0#1 ++ d
  | .loopE c r d => 0x14#6 ++ c ++ r ++ 0#1 ++ d
  | .ld d b z o => wM 0x18 d b z o
  | .lda d b z sx o => wMO 0x19 d b z sx o
  | .st d b z o => wM 0x1A d b z o
  | .str d b z sx o => wMO 0x1B d b z sx o
  | .sta r b z sx o => wSA 0 r b z sx o
  | .staRow r b sx o => wSA 1 r b 3 sx o
  | .ldq q c b sx => 0x1D#6 ++ q ++ c ++ b ++ sx ++ 0#8
  | .atom d b v o z sx r => wAT 0x1E d b v (o ++ z) sx r
  | .atomnr b v o z sx r => wAT 0x1F 0 b v (o ++ z) sx r
  | .cas d b v z sx r => wAT 0x20 d b v (0#3 ++ z) sx r
  | .fence k sx => 0x21#6 ++ k ++ sx ++ 0#18
  | .fenceAtomics => 0x21#6 ++ 3#4 ++ 0#22
  | .push e f n sx => wEN 0x22 e f n sx
  | .popr e f n sx => wEN 0x23 e f n sx
  | .waitid e h a => 0x24#6 ++ e ++ h ++ a ++ 0#14
  | .semw c a sx => wSM 0 c a sx
  | .semp c a sx => wSM 1 c a sx
  | .send d b => 0x26#6 ++ 0#1 ++ d ++ b ++ 0#15
  | .recv d b => 0x26#6 ++ 1#1 ++ d ++ b ++ 0#15
  | .resize w => 0x27#6 ++ w ++ 0#23
  | .movqRow q w => 0x2C#6 ++ 0#1 ++ q ++ w ++ 0#5 ++ 0#10
  | .movqScalar q d => 0x2C#6 ++ 1#1 ++ q ++ 0#7 ++ d ++ 0#10
  | .putsScalar a => 0x2D#6 ++ 0#1 ++ 0#7 ++ a ++ 0#13
  | .putsRow w => 0x2D#6 ++ 1#1 ++ w ++ 0#5 ++ 0#13
  | .brq d => 0x2E#6 ++ 0#1 ++ 0#1 ++ 0#5 ++ 0#1 ++ d
  | .brqn d => 0x2E#6 ++ 0#1 ++ 1#1 ++ 0#5 ++ 0#1 ++ d
  | .fqp a => 0x2E#6 ++ 1#1 ++ 0#1 ++ a ++ 0#1 ++ 0#18
  | .trap im => wSY 0 0 0 im
  | .eret => wSY 1 0 0 0
  | .mfc d c => wSY 2 d 0 c
  | .mtc a c => wSY 3 0 a c
  | .time d => wSY 4 d 0 0
  | .wakewait a => wSY 5 0 a 0
  | .barrier sx => wSY 6 0 0 (0#8 ++ sx)
  | .halt => wSY 7 0 0 0
  | .fadd t d a b => wT 0x30 0 t d a b
  | .fsub t d a b => wT 0x30 1 t d a b
  | .fmul t d a b => wT 0x30 2 t d a b
  | .fma t d a b => wT 0x30 3 t d a b
  | .fmin t d a b => wT 0x30 4 t d a b
  | .fmax t d a b => wT 0x30 5 t d a b
  | .fdiv t d a b => wT 0x30 6 t d a b
  | .fexp2 t d a => wT 0x31 0 t d a 0
  | .flog2 t d a => wT 0x31 1 t d a 0
  | .frcp t d a => wT 0x31 2 t d a 0
  | .frsq t d a => wT 0x31 3 t d a 0
  | .fsqrt t d a => wT 0x31 4 t d a 0
  | .fabs t d a => wT 0x31 5 t d a 0
  | .fneg t d a => wT 0x31 6 t d a 0
  | .fclass t d a => wT 0x31 7 t d a 0
  | .fcvt r t d a sx m => wTS 0x32 r t d a sx m
  | .iadd t d a b => wT 0x33 0 t d a b
  | .isub t d a b => wT 0x33 1 t d a b
  | .imul t d a b => wT 0x33 2 t d a b
  | .imin t d a b => wT 0x33 3 t d a b
  | .imax t d a b => wT 0x33 4 t d a b
  | .iand t d a b => wT 0x33 5 t d a b
  | .ior t d a b => wT 0x33 6 t d a b
  | .ixor t d a b => wT 0x33 7 t d a b
  | .ishl t d a sx => wTS 0x34 0 t d a sx 0
  | .ishr t d a sx => wTS 0x34 1 t d a sx 0
  | .isar t d a sx => wTS 0x34 2 t d a sx 0
  | .bcast t d sx m => wTS 0x34 3 t d 0 sx m
  | .rowset t d a sx m => wTS 0x34 4 t d a sx m
  | .fcmpeq t d a b => wT 0x35 0 t d a b
  | .fcmplt t d a b => wT 0x35 1 t d a b
  | .fcmple t d a b => wT 0x35 2 t d a b
  | .fcmpun t d a b => wT 0x35 3 t d a b
  | .icmpeq t d a b => wT 0x35 4 t d a b
  | .icmplt t d a b => wT 0x35 5 t d a b
  | .icmpltu t d a b => wT 0x35 6 t d a b
  | .rsum t d a => wT 0x36 0 t d a 0
  | .rsumsq t d a => wT 0x36 1 t d a 0
  | .rmax t d a => wT 0x36 2 t d a 0
  | .rmin t d a => wT 0x36 3 t d a 0
  | .rargmax t d a => wT 0x36 4 t d a 0
  | .rargmin t d a => wT 0x36 5 t d a 0
  | .perm t d a b => wT 0x37 0 t d a b
  | .sel t d a b => wT 0x37 1 t d a b
  | .lshift t d a sx m => wTS 0x37 2 t d a sx m
  | .lrot t d a sx m => wTS 0x37 3 t d a sx m
  | .bfly t d a b => wT 0x38 0 t d a b
  | .twid t d a sx m => wTS 0x38 1 t d a sx m
  | .cmul t d a b => wT 0x38 2 t d a b
  | .conj t d a => wT 0x38 3 t d a 0
  | .rowget t a sx m => wTS 0x39 0 t 0 a sx m
  | .rowput t d a sx => wTS 0x39 1 t d a sx 0
  | .rowmov t d a => wT 0x39 2 t d a 0
  | .rowzero t d => wT 0x39 3 t d 0 0
  | .rngrow t d sx => wTS 0x39 4 t d 0 sx 0
  | .sortk t d a b => wT 0x39 5 t d a b
  | .tmirror t d => wT 0x3A 0 t (d ++ 0#4) 0 0
  | .trot t d => wT 0x3A 1 t (d ++ 0#4) 0 0
  | _ => 0

/-- A field of a word: `len` bits from bit `lo` up. -/
def fld (w : W32) (lo len : Nat) : BitVec len := w.extractLsb' lo len

/-- The major opcode, bits 31-26 (03 R59). -/
def majorOf (w : W32) : Nat := (fld w 26 6).toNat

/-- Register ALU (03 R65, major 0x04). -/
def candAlu (w : W32) : Option Instr :=
  let d := fld w 21 5
  let a := fld w 16 5
  let b := fld w 11 5
  match (fld w 0 11).toNat with
  | 0 => some (.add d a b) | 1 => some (.sub d a b) | 2 => some (.mul d a b) | 3 => some (.mulh d a b)
  | 4 => some (.mulhu d a b) | 5 => some (.div d a b) | 6 => some (.divu d a b) | 7 => some (.rem d a b)
  | 8 => some (.remu d a b) | 9 => some (.and d a b) | 10 => some (.or d a b) | 11 => some (.xor d a b)
  | 12 => some (.andn d a b) | 13 => some (.orn d a b) | 14 => some (.shl d a b) | 15 => some (.shr d a b)
  | 16 => some (.sar d a b) | 17 => some (.min d a b) | 18 => some (.max d a b) | 19 => some (.minu d a b)
  | 20 => some (.maxu d a b) | 21 => some (.clz d a) | 22 => some (.ctz d a) | 23 => some (.popc d a)
  | 24 => some (.bswap d a)
  | _ => none

/-- Predicate logic (03 R65, major 0x0E). -/
def candPlog (w : W32) : Option Instr :=
  let d := fld w 19 7
  let a := fld w 12 7
  let b := fld w 5 7
  match (fld w 0 5).toNat with
  | 0 => some (.pand d a b) | 1 => some (.por d a b) | 2 => some (.pxor d a b) | 3 => some (.pandn d a b)
  | 4 => some (.porn d a b) | 5 => some (.pnand d a b) | 6 => some (.pnor d a b) | 7 => some (.pxnor d a b)
  | 8 => some (.pnot d a) | 9 => some (.pset d) | 10 => some (.pclr d)
  | _ => none

/-- SYS (03 R65, major 0x2F). -/
def candSys (w : W32) : Option Instr :=
  let d := fld w 17 5
  let a := fld w 12 5
  let c := fld w 0 12
  match (fld w 22 4).toNat with
  | 0 => some (.trap c) | 1 => some .eret | 2 => some (.mfc d c) | 3 => some (.mtc a c) | 4 => some (.time d)
  | 5 => some (.wakewait a) | 6 => some (.barrier (fld w 0 4)) | 7 => some .halt
  | _ => none

/-- Tile majors 0x30-0x33 and 0x35-0x36 (03 R66). -/
def candTileT (w : W32) : Option Instr :=
  let t := fld w 21 2
  let d := fld w 14 7
  let a := fld w 7 7
  let b := fld w 0 7
  match majorOf w, (fld w 23 3).toNat with
  | 0x30, 0 => some (.fadd t d a b) | 0x30, 1 => some (.fsub t d a b) | 0x30, 2 => some (.fmul t d a b)
  | 0x30, 3 => some (.fma t d a b) | 0x30, 4 => some (.fmin t d a b) | 0x30, 5 => some (.fmax t d a b)
  | 0x30, 6 => some (.fdiv t d a b)
  | 0x31, 0 => some (.fexp2 t d a) | 0x31, 1 => some (.flog2 t d a) | 0x31, 2 => some (.frcp t d a)
  | 0x31, 3 => some (.frsq t d a) | 0x31, 4 => some (.fsqrt t d a) | 0x31, 5 => some (.fabs t d a)
  | 0x31, 6 => some (.fneg t d a) | 0x31, 7 => some (.fclass t d a)
  | 0x33, 0 => some (.iadd t d a b) | 0x33, 1 => some (.isub t d a b) | 0x33, 2 => some (.imul t d a b)
  | 0x33, 3 => some (.imin t d a b) | 0x33, 4 => some (.imax t d a b) | 0x33, 5 => some (.iand t d a b)
  | 0x33, 6 => some (.ior t d a b) | 0x33, 7 => some (.ixor t d a b)
  | 0x35, 0 => some (.fcmpeq t d a b) | 0x35, 1 => some (.fcmplt t d a b) | 0x35, 2 => some (.fcmple t d a b)
  | 0x35, 3 => some (.fcmpun t d a b) | 0x35, 4 => some (.icmpeq t d a b) | 0x35, 5 => some (.icmplt t d a b)
  | 0x35, 6 => some (.icmpltu t d a b)
  | 0x36, 0 => some (.rsum t d a) | 0x36, 1 => some (.rsumsq t d a) | 0x36, 2 => some (.rmax t d a)
  | 0x36, 3 => some (.rmin t d a) | 0x36, 4 => some (.rargmax t d a) | 0x36, 5 => some (.rargmin t d a)
  | _, _ => none

/-- Tile majors 0x34 and 0x37-0x3A (03 R66). -/
def candTileS (w : W32) : Option Instr :=
  let t := fld w 21 2
  let d := fld w 14 7
  let a := fld w 7 7
  let b := fld w 0 7
  let sx := fld w 2 5
  let m := fld w 0 2
  match majorOf w, (fld w 23 3).toNat with
  | 0x34, 0 => some (.ishl t d a sx) | 0x34, 1 => some (.ishr t d a sx) | 0x34, 2 => some (.isar t d a sx)
  | 0x34, 3 => some (.bcast t d sx m) | 0x34, 4 => some (.rowset t d a sx m)
  | 0x37, 0 => some (.perm t d a b) | 0x37, 1 => some (.sel t d a b) | 0x37, 2 => some (.lshift t d a sx m)
  | 0x37, 3 => some (.lrot t d a sx m)
  | 0x38, 0 => some (.bfly t d a b) | 0x38, 1 => some (.twid t d a sx m) | 0x38, 2 => some (.cmul t d a b)
  | 0x38, 3 => some (.conj t d a)
  | 0x39, 0 => some (.rowget t a sx m) | 0x39, 1 => some (.rowput t d a sx) | 0x39, 2 => some (.rowmov t d a)
  | 0x39, 3 => some (.rowzero t d) | 0x39, 4 => some (.rngrow t d sx) | 0x39, 5 => some (.sortk t d a b)
  | 0x3A, 0 => some (.tmirror t (fld w 18 3)) | 0x3A, 1 => some (.trot t (fld w 18 3))
  | _, _ => none

/-- Majors 0x00-0x14, common to both streams (03 R64). LOOP without rotation in the A-stream is LOOP_A. -/
def candCommon (st : Stream) (w : W32) : Option Instr :=
  let d := fld w 21 5
  let a := fld w 16 5
  let im := fld w 0 16
  match majorOf w with
  | 0x00 => match (fld w 21 5).toNat with
    | 0 => some .nop | 1 => some .rotclr | 2 => some (.bqpush (fld w 14 7)) | 3 => some (.fqpop (fld w 9 5))
    | _ => none
  | 0x01 => some (.ifp (fld w 19 7) (fld w 18 1))
  | 0x02 => some (.rep (fld w 18 8) (fld w 14 4) (fld w 10 4) (fld w 6 4))
  | 0x04 => candAlu w
  | 0x05 => some (.addi d a im) | 0x06 => some (.andi d a im) | 0x07 => some (.ori d a im)
  | 0x08 => some (.xori d a im)
  | 0x09 => match (fld w 14 2).toNat with
    | 0 => some (.shli d a (fld w 0 6)) | 1 => some (.shri d a (fld w 0 6)) | 2 => some (.sari d a (fld w 0 6))
    | _ => none
  | 0x0A => some (.movhi d im) | 0x0B => some (.movk d (fld w 16 2) im)
  | 0x0C => some (.cmp (fld w 19 7) (fld w 14 5) (fld w 9 5) (fld w 0 3))
  | 0x0D => some (.cmpi (fld w 19 7) (fld w 14 5) (fld w 11 3) (fld w 0 11))
  | 0x0E => candPlog w
  | 0x0F => some (.selp d a (fld w 11 5) (fld w 4 7))
  | 0x10 => some (.br (fld w 19 7) (fld w 18 1) (fld w 0 18))
  | 0x11 => some (.jmp (fld w 0 26)) | 0x12 => some (.call (fld w 0 26))
  | 0x13 => match (fld w 0 11).toNat with
    | 0 => some (.jr a) | 1 => some .ret | 2 => some (.callr a)
    | _ => none
  | 0x14 => if st = .a ∧ fld w 19 2 = 0 then some (.loopA d (fld w 0 18)) else some (.loopE d (fld w 19 2) (fld w 0 18))
  | _ => none

/-- Majors 0x18-0x27, the A-stream's own (03 R64). -/
def candA (w : W32) : Option Instr :=
  let d := fld w 21 5
  let b := fld w 16 5
  let z := fld w 14 2
  let v := fld w 11 5
  match majorOf w with
  | 0x18 => some (.ld d b z (fld w 0 14)) | 0x19 => some (.lda d b z (fld w 10 4) (fld w 0 10))
  | 0x1A => some (.st d b z (fld w 0 14)) | 0x1B => some (.str d b z (fld w 10 4) (fld w 0 10))
  | 0x1C => if fld w 25 1 = 1 then some (.staRow (fld w 24 1) b (fld w 10 4) (fld w 0 10))
            else some (.sta (fld w 24 1) b z (fld w 10 4) (fld w 0 10))
  | 0x1D => some (.ldq (fld w 23 3) (fld w 18 5) (fld w 13 5) (fld w 8 5))
  | 0x1E => some (.atom d b v (fld w 7 4) (fld w 6 1) (fld w 2 4) (fld w 0 2))
  | 0x1F => some (.atomnr b v (fld w 7 4) (fld w 6 1) (fld w 2 4) (fld w 0 2))
  | 0x20 => some (.cas d b v (fld w 6 2) (fld w 2 4) (fld w 0 2))
  | 0x21 => if fld w 22 4 = 3 then some .fenceAtomics else some (.fence (fld w 22 4) (fld w 18 4))
  | 0x22 => some (.push d b (fld w 13 3) (fld w 9 4)) | 0x23 => some (.popr d b (fld w 13 3) (fld w 9 4))
  | 0x24 => some (.waitid d (fld w 19 2) (fld w 14 5))
  | 0x25 => if fld w 25 1 = 1 then some (.semp (fld w 20 5) (fld w 15 5) (fld w 11 4))
            else some (.semw (fld w 20 5) (fld w 15 5) (fld w 11 4))
  | 0x26 => if fld w 25 1 = 1 then some (.recv (fld w 20 5) (fld w 15 5)) else some (.send (fld w 20 5) (fld w 15 5))
  | 0x27 => some (.resize (fld w 23 3))
  | _ => none

/-- Majors 0x2C-0x3A, the E-stream's own (03 R64). -/
def candE (w : W32) : Option Instr :=
  match majorOf w with
  | 0x2C => if fld w 25 1 = 1 then some (.movqScalar (fld w 22 3) (fld w 10 5)) else some (.movqRow (fld w 22 3) (fld w 15 7))
  | 0x2D => if fld w 25 1 = 1 then some (.putsRow (fld w 18 7)) else some (.putsScalar (fld w 13 5))
  | 0x2E => if fld w 25 1 = 1 then some (.fqp (fld w 19 5))
            else if fld w 24 1 = 1 then some (.brqn (fld w 0 18)) else some (.brq (fld w 0 18))
  | 0x2F => candSys w
  | 0x30 | 0x31 | 0x33 | 0x35 | 0x36 => candTileT w
  | 0x32 => some (.fcvt (fld w 23 3) (fld w 21 2) (fld w 14 7) (fld w 7 7) (fld w 2 5) (fld w 0 2))
  | 0x34 | 0x37 | 0x38 | 0x39 | 0x3A => candTileS w
  | _ => none

/-- 03 R64: where a major may issue; `none` is a reserved major. -/
inductive MajorUse where
  | both | aOnly | eOnly | reserved
  deriving DecidableEq, Repr

/-- 03 R64. -/
def majorUse (m : Nat) : MajorUse :=
  if m ≤ 0x14 then (if m = 0x03 then .reserved else .both)
  else if m < 0x18 then .reserved
  else if m ≤ 0x27 then .aOnly
  else if m < 0x2C then .reserved
  else if m ≤ 0x3A then .eOnly
  else .reserved

/-- 03 R67 order 2. -/
def majorIn (st : Stream) : MajorUse → Bool
  | .both => true
  | .aOnly => st == .a
  | .eOnly => st == .e
  | .reserved => false

/-- The instruction a word's fields name, before its checks. -/
def candidate (st : Stream) (w : W32) : Option Instr :=
  match majorUse (majorOf w) with
  | .both => candCommon st w
  | .aOnly => candA w
  | .eOnly => candE w
  | .reserved => none

/-- A check that failed: its order in 03 R67 and its fault. -/
structure WordFault where
  order : Nat
  code : Code
  deriving DecidableEq, Repr

/-- 03 R67, orders 1 to 5: the instruction a word holds in a stream, or the first check it fails. -/
def decode (st : Stream) (w : W32) : Except WordFault Instr :=
  let u := majorUse (majorOf w)
  if u = .reserved then .error ⟨1, fltIllegal⟩
  else if !majorIn st u then .error ⟨2, fltWrongStream⟩
  else match candidate st w with
    | none => .error ⟨3, fltIllegal⟩
    | some i =>
      if encode i ≠ w || !i.fieldsOk then .error ⟨3, fltIllegal⟩
      else if !i.halvesOk st then .error ⟨4, fltWrongStream⟩
      else if !i.scopeOk then .error ⟨5, fltBadScope⟩
      else .ok i

/-- An instruction that has a word and may issue in the stream (03 R64, R67 orders 2 and 4). -/
def Instr.issuesIn (st : Stream) (i : Instr) : Bool :=
  majorIn st (majorUse (majorOf (encode i))) && i.halvesOk st &&
  match i with
  | .nop => true
  | _ => encode i != 0

/-- The instruction a word holds in the A-stream, or else in the E-stream. -/
def decodeEither (w : W32) : Option Instr :=
  match decode .a w with
  | .ok i => some i
  | .error _ => match decode .e w with
    | .ok i => some i
    | .error _ => none

/-- The instruction read from a word of spec/opcode_table.json: every instruction is one 32-bit word (03 R59), so only a
32-bit numbering names one. -/
def decodeTableWord (nbits w : Nat) : Option Instr :=
  if 0 < nbits ∧ nbits ≤ 32 then decodeEither (BitVec.ofNat 32 w) else none

end Sys2Proof
end

