-- ==== Sys2Proof/Machine/Issue.lean ====
section
/-! DEFINITION. Fetching a group's words and the two prefixes, IFP and REP (spec 03 R59, R60, R67, R71-R73). Each word of a
group is a step of its own; a trap between them resumes at the group, whose prefixes have no effect of their own. -/

namespace Sys2Proof.Machine

/-- The four bytes at an instruction address, fetched by a core's thread as unit 1 (04 R100, R102). -/
def fetchWord (s : State) (core ctx : Nat) (pc : W64) : X (State × W32) :=
  match locate s ⟨some core, ctx, 1, some (clusterOf core), false⟩ pc 4 .fetch with
  | .error e => .error e
  | .ok (s, l) => match remoteAnswer s pc [(l, 4)] with
    | .error e => .error e
    | .ok s => match readAll s 0 [(l, 4)] with
      | .error e => .error e
      | .ok (s, bs) => .ok (s, BitVec.ofNat 32 (leValue bs))

/-- The word the current stream executes next. -/
def curWord (s : State) : X (State × W32) := fetchWord s s.cur.core s.curT.ctx (s.curT.here s.cur.st)

/-- The word after it. -/
def nextWord (s : State) : X (State × W32) := fetchWord s s.cur.core s.curT.ctx (s.curT.here s.cur.st + 4)

/-- 03 R73: the E-stream's group is partly executed. -/
def Thread.repActive (t : Thread) (st : Stream) : Bool := st == .e && t.repidx.getLsbD 15

/-- The next repetition to issue (03 R72). -/
def Thread.repIndex (t : Thread) : Nat := if t.repidx.getLsbD 15 then bitsAt t.repidx 0 8 else 0

/-- ctl.repidx with ACT set at an index (03 R73). -/
def repActAt (i : Nat) : W64 := BitVec.ofNat 64 (0x8000 + i % 256)

/-- 03 R71: IFP. A second IFP faults whatever the predicate holds; a partly executed group does not read it again (R73). On the E
port it takes a clock of its own, and a REP that goes on takes none (log 5). -/
def execIfp (p : BitVec 7) (n : BitVec 1) (s : State) : Host.Outcome State Fault Refusal :=
  runWord s fun t =>
    let st := s.cur.st
    match nextWord s with
    | .error e => .error e
    | .ok (s', w) =>
      if majorOf w = 0x01 then .error (.flt fltIllegal 0)
      else if t.repActive st || t.pred p != (n == 1) then
        let g := { t.grp st with off := (t.grp st).off + 4 }
        .ok (s'.setCurT (match st with | .a => { t with agrp := g } | .e => { t.tick st with egrp := g }))
      else
        let past : W64 := if majorOf w = 0x02 then 12 else 8
        .ok (s'.setCurT ((t.tick st).goto st (t.here st + past)))

/-- 03 R72: the row operands of an instruction that REP may step: wd, wa, wb; `none` has no steppable field. -/
def repSteps : Instr → Option (Bool × Bool × Bool)
  | .fadd .. | .fsub .. | .fmul .. | .fma .. | .fmin .. | .fmax .. | .fdiv .. | .iadd .. | .isub .. | .imul ..
  | .imin .. | .imax .. | .iand .. | .ior .. | .ixor .. | .fcmpeq .. | .fcmplt .. | .fcmple .. | .fcmpun .. | .icmpeq ..
  | .icmplt .. | .icmpltu .. | .perm .. | .sel .. | .bfly .. | .cmul .. | .sortk .. => some (true, true, true)
  | .fexp2 .. | .flog2 .. | .frcp .. | .frsq .. | .fsqrt .. | .fabs .. | .fneg .. | .fclass .. | .fcvt .. | .ishl ..
  | .ishr .. | .isar .. | .rowset .. | .rsum .. | .rsumsq .. | .rmax .. | .rmin .. | .rargmax .. | .rargmin ..
  | .lshift .. | .lrot .. | .twid .. | .conj .. | .rowput .. | .rowmov .. => some (true, true, false)
  | .bcast .. | .rowzero .. | .rngrow .. | .movqRow .. => some (true, false, false)
  | _ => none

/-- A 4-bit two's complement step (03 R72). -/
def stepOf (v : BitVec 4) : Int := v.toInt

/-- A tile word's or MOVQ's major (03 R62). -/
def tileMajor (m : Nat) : Bool := m == 0x2C || (decide (0x30 ≤ m) && decide (m ≤ 0x3A))

/-- 03 R72: REP. The word after it is checked with it (R67); a group whose repetitions are all issued completes (R73). In an A
section it always faults: with FLT_WRONGSTREAM before a tile word or MOVQ, with FLT_REP before any other (05 R138). -/
def execRep (c : BitVec 8) (d a b : BitVec 4) (s : State) : Host.Outcome State Fault Refusal :=
  runWord s fun t =>
    let st := s.cur.st
    match nextWord s with
    | .error e => .error e
    | .ok (s', w) => if st = .a then .error (.flt (if tileMajor (majorOf w) then fltWrongStream else fltRep) 0) else match decode st w with
      | .error f => .error (.flt f.code 0)
      | .ok i => match repSteps i with
        | none => .error (.flt fltRep 0)
        | some (hd, ha, hb) =>
          if (d ≠ 0 ∧ hd = false) ∨ (a ≠ 0 ∧ ha = false) ∨ (b ≠ 0 ∧ hb = false) then .error (.flt fltRep 0)
          else if t.repIndex ≤ c.toNat then
            .ok (s'.setCurT { t with egrp := { off := t.egrp.off + 4, rep := some ⟨c.toNat, stepOf d, stepOf a, stepOf b⟩ } })
          else .ok (s'.setCurT (({ t with repidx := 0 }.tick st).goto st (t.here st + 8)))

/-- The fault of the words that a group holds from an address up which fails the earliest check of 03 R67, if it comes before
`f`: the governed word of an IFP whose predicate holds, or that a partly executed group does not read again, and that of a REP; a
prefix that may not follow another holds no check of R67's order. `n` words at most. -/
def groupFault (s : State) (f : WordFault) : Nat → W32 → W64 → WordFault
  | 0, _, _ => f
  | n + 1, w, pc =>
    let t := s.curT
    let m := majorOf w
    let governs := m == 0x02 || (m == 0x01 && (t.repActive s.cur.st || t.pred (fld w 19 7) != (fld w 18 1 == 1)))
    if !governs then f
    else match fetchWord s s.cur.core t.ctx (pc + 4) with
      | .error _ => f
      | .ok (_, w') =>
        if majorOf w' = 0x01 ∨ (m = 0x02 ∧ majorOf w' = 0x02) then f
        else
          let f := match decode s.cur.st w' with
            | .ok _ => f
            | .error g => if g.order < f.order then g else f
          groupFault s f n w' (pc + 4)

/-- 03 R67: the fault of a word that does not decode; a prefix is checked together with the words it governs. An IFP that fails a
check itself raises that check's fault though a second IFP follows it, for R71's fault of the pair has no place in R67's order
(log 11). -/
def wordFault (s : State) (w : W32) (f : WordFault) : Code :=
  (groupFault s f 2 w (s.curT.here s.cur.st)).code

/-- The E-stream's registers that a word reads (03 R62, R63). -/
def eReads : Instr → List (BitVec 5)
  | .add _ a b | .sub _ a b | .mul _ a b | .mulh _ a b | .mulhu _ a b | .div _ a b | .divu _ a b | .rem _ a b | .remu _ a b
  | .and _ a b | .or _ a b | .xor _ a b | .andn _ a b | .orn _ a b | .shl _ a b | .shr _ a b | .sar _ a b | .min _ a b
  | .max _ a b | .minu _ a b | .maxu _ a b | .cmp _ a b _ | .selp _ a b _ => [a, b]
  | .clz _ a | .ctz _ a | .popc _ a | .bswap _ a | .addi _ a _ | .andi _ a _ | .ori _ a _ | .xori _ a _ | .shli _ a _
  | .shri _ a _ | .sari _ a _ | .movk a _ _ | .cmpi _ a _ _ | .jr a | .callr a | .loopE a _ _ | .putsScalar a | .fqp a
  | .mtc a _ | .wakewait a | .fcvt _ _ _ _ a _ | .ishl _ _ _ a | .ishr _ _ _ a | .isar _ _ _ a | .bcast _ _ a _
  | .rowset _ _ _ a _ | .lshift _ _ _ a _ | .lrot _ _ _ a _ | .twid _ _ _ a _ | .rowget _ _ a _ | .rowput _ _ _ a
  | .rngrow _ _ a => [a]
  | .ret => [31]
  | _ => []

/-- A word of the scalar majors 0x04-0x14 (05 R127). -/
def isScalarWord (i : Instr) : Bool := decide (0x04 ≤ majorOf (encode i)) && decide (majorOf (encode i) ≤ 0x14)

/-- The clock from which a word that reads these registers may issue (05 R127, 07 R195). -/
def Thread.readyClock (t : Thread) (i : Instr) : Nat :=
  t.eready.foldl (fun m r => if (eReads i).any (·.toNat == r.1) && (r.2.2 || isScalarWord i) then max m r.2.1 else m) t.eclk

/-- A word of the E-stream waits for the registers it reads; the A-stream's waits show nowhere (log 5). -/
def interlock (i : Instr) (s : State) : State :=
  match s.cur.st with
  | .a => s
  | .e => s.setCurT { s.curT with eclk := s.curT.readyClock i }

/-- A field stepped to a repetition (03 R72); `none` leaves 0-127. -/
def stepField (v : BitVec 7) (i : Nat) (step : Int) : Option (BitVec 7) :=
  let x : Int := v.toNat + i * step
  if 0 ≤ x ∧ x ≤ 127 then some (BitVec.ofInt 7 x) else none

/-- A steppable instruction at its repetition: its fields stepped, its effect, then the next repetition or group (03 R72).
A fault at a repetition leaves ctl.repidx naming it. `stall` is the word's st field. -/
def repeated (s : State) (stall : Nat) (d a b : BitVec 7)
    (body : BitVec 7 → BitVec 7 → BitVec 7 → Bool → Thread → State → X State) : Host.Outcome State Fault Refusal :=
  match s.curT.egrp.rep with
  | none => runWord s fun t => match body d a b false t s with
    | .error e => .error e
    | .ok s' => .ok (s'.setCurT ((s'.curT.tick .e stall).advance .e))
  | some r =>
    let i := s.curT.repIndex
    let named := fun (s : State) => s.setCurT { s.curT with repidx := repActAt i }
    match stepField d i r.sd, stepField a i r.sa, stepField b i r.sb with
    | some d', some a', some b' =>
      match body d' a' b' true s.curT s with
      | .error (.flt c ad seen) => runWord (named s) fun _ => .error (.flt c ad (seen.map named))
      | .error .wait => runWord s fun _ => .error .wait
      | .ok s' => runWord s fun _ =>
        let t := s'.curT.tick .e stall
        .ok (s'.setCurT (if i < r.count then { t with repidx := repActAt (i + 1) } else { t with repidx := 0 }.advance .e))
    | _, _, _ => runWord (named s) fun _ => .error (.flt fltRep 0)

end Sys2Proof.Machine
end

