-- ==== Sys2Proof/Machine/Tile.lean ====
section
/-! DEFINITION. The tile unit (spec 07 R190-R212): each instruction reads its source rows at issue, and its results land
within its latency bound (03 R70). -/

namespace Sys2Proof.Machine

/-! ### Issue of a tile instruction -/

/-- The largest count in one bank of registers with the number of their rows that are read, a mirrored register taking the
better of its two banks (07 R194). -/
def bankPeak (mir : Nat → Bool) : List (Nat × Nat) → (Nat → Nat) → Nat
  | [], c => max (max (c 0) (c 1)) (max (c 2) (c 3))
  | (p, n) :: rs, c =>
    let put := fun k => bankPeak mir rs fun x => if x = k then c x + n else c x
    if mir p then min (put (p % 4)) (put ((p + 2) % 4)) else put (p % 4)

/-- The registers of rows, each with the number of its rows; a row named twice counts once (07 R194). -/
def rowsByReg (rows : List Nat) : List (Nat × Nat) :=
  (rows.dedup.map (· / 16)).dedup.map fun p => (p, rows.dedup.countP fun r => r / 16 == p)

/-- The copy of a mirrored register serves reads of an instruction that issues at a clock (07 R211). -/
def Thread.copyAt (t : Thread) (clk p : Nat) : Bool :=
  t.mirrored p && (match Tab.find t.mirrorAt p with | some m => decide (m + 16 ≤ clk) | none => true)

/-- 07 R194: clocks by which the bank conflicts of the source rows delay an issue at a clock. -/
def bankDelay (t : Thread) (rows : List Nat) (clk : Nat) : Nat := bankPeak (t.copyAt clk) (rowsByReg rows) (fun _ => 0) - 1

/-- The earliest clock at which an instruction with these source rows issues: at most four rows are read, so three clocks
always do. -/
def issueClock (t : Thread) (rows : List Nat) : Nat :=
  t.eclk + (((List.range 4).find? fun j => decide (bankDelay t rows (t.eclk + j) ≤ j)).getD 3)

/-- The thread in the clock in which a tile instruction with these source rows issues: every result due has landed. -/
def atIssue (t : Thread) (rows : List Nat) : Thread :=
  let clk := issueClock t rows
  landDue clk t.flights.length { t with eclk := clk }

/-- A result on its way to a physical row: the row is undefined until it lands (03 R70). A sideband the instruction leaves
undefined (07 R192) is a free value. -/
def launch (s : State) (row : Nat) (data : RowData) (sb : Option Sideband) (lat : Nat) : State :=
  let (k, s) := s.takeFree
  let t := s.curT
  let r : Row := { data := data, sb := sb.getD (Config.freeSideband k) }
  let u : Row := { data := Config.freeRow k, sb := Config.freeSideband k }
  s.setCurT { t with
    x := if h : row < 128 then t.x.set row u else t.x
    flights := t.flights ++ [⟨row, r, t.eclk + lat⟩] }

/-- What a tile instruction computes: its destination rows (data, and sideband when it sets one) and flags. -/
structure TileOut where
  rows : List (Nat × RowData × Option Sideband)
  flags : FFlags := 0

/-- Every destination row launched, in order. -/
def launchAll (s : State) (lat : Nat) : List (Nat × RowData × Option Sideband) → State
  | [] => s
  | (row, d, sb) :: rest => launchAll (launch s row d sb lat) lat rest

/-- A tile instruction that issues: its sources read, its flags set, its results on their way. -/
def tileIssue (s : State) (srcs : List Nat) (lat : Nat) (f : Thread → X TileOut) : X State :=
  let t := atIssue s.curT srcs
  match f t with
  | .error e => .error e
  | .ok o => .ok (launchAll (s.setCurT (t.addFlags o.flags)) lat o.rows)

/-- The physical row an operand field names (03 R68). -/
def Thread.phys (t : Thread) (v : BitVec 7) : Nat := physRow t.ebase v

/-- The data of the row an operand field names. -/
def Thread.data (t : Thread) (v : BitVec 7) : RowData := (t.row (t.phys v)).data

/-- A T-format instruction over rows A and B, steppable in d, a and b: one destination row of lanes (07 R193). -/
def tile2 (s : State) (st : BitVec 2) (d a b : BitVec 7) (lat : Nat) (f : Thread → RowData → RowData → RowData × FFlags) :
    Host.Outcome State Fault Refusal :=
  repeated s st.toNat d a b fun d a b _ t s =>
    tileIssue s [t.phys a, t.phys b] lat fun t =>
      let (r, fl) := f t (t.data a) (t.data b)
      .ok ⟨[(t.phys d, r, none)], fl⟩

/-- A T-format instruction over row A, steppable in d and a. -/
def tile1 (s : State) (st : BitVec 2) (d a : BitVec 7) (lat : Nat) (f : Thread → RowData → X (RowData × FFlags)) :
    Host.Outcome State Fault Refusal :=
  repeated s st.toNat d a 0 fun d a _ _ t s =>
    tileIssue s [t.phys a] lat fun t => match f t (t.data a) with
      | .error e => .error e
      | .ok (r, fl) => .ok ⟨[(t.phys d, r, none)], fl⟩

/-- Lanes of two rows combined in a format. -/
def lanes2 (f : Fmt) (a b : RowData) (op : Nat → Nat → Nat × FFlags) : RowData × FFlags :=
  let rs := List.zipWith op (rowCodes f a) (rowCodes f b)
  (codesRow f (rs.map Prod.fst), rs.foldl (fun fl r => fl ||| r.2) 0)

/-- Lanes of a row changed in a format. -/
def lanes1 (f : Fmt) (a : RowData) (op : Nat → Nat × FFlags) : RowData × FFlags :=
  let rs := (rowCodes f a).map op
  (codesRow f (rs.map Prod.fst), rs.foldl (fun fl r => fl ||| r.2) 0)

/-! ### Float arithmetic (07 R196) -/

/-- A float instruction of two operands: in(), the exact operation, one rounding under RM, out(). -/
def floatOp (t : Thread) (op : Rnd → Fl → Fl → Fl × FFlags) (a b : RowData) : RowData × FFlags :=
  let f := t.floatFmt
  lanes2 f a b fun x y => outCode t.ftz f t.rm (op t.rm (inValue t.ftz f x) (inValue t.ftz f y))

/-- FADD (07 R196). -/
def execFadd (st : BitVec 2) (d a b : BitVec 7) (s : State) : Host.Outcome State Fault Refusal :=
  tile2 s st d a b 6 fun t => floatOp t Fl.add

/-- FSUB (07 R196). -/
def execFsub (st : BitVec 2) (d a b : BitVec 7) (s : State) : Host.Outcome State Fault Refusal :=
  tile2 s st d a b 6 fun t => floatOp t fun m x y => Fl.add m x y.neg

/-- FMUL (07 R196). -/
def execFmul (st : BitVec 2) (d a b : BitVec 7) (s : State) : Host.Outcome State Fault Refusal :=
  tile2 s st d a b 6 fun t => floatOp t fun _ => Fl.mul

/-- FDIV (07 R196, 02 R53). -/
def execFdiv (st : BitVec 2) (d a b : BitVec 7) (s : State) : Host.Outcome State Fault Refusal :=
  tile2 s st d a b 24 fun t => floatOp t fun _ => Fl.div

/-- FMIN (07 R196): minimumNumber, no flags. -/
def execFmin (st : BitVec 2) (d a b : BitVec 7) (s : State) : Host.Outcome State Fault Refusal :=
  tile2 s st d a b 6 fun t => floatOp t fun _ x y => (Fl.minMax false x y, 0)

/-- FMAX (07 R196): maximumNumber, no flags. -/
def execFmax (st : BitVec 2) (d a b : BitVec 7) (s : State) : Host.Outcome State Fault Refusal :=
  tile2 s st d a b 6 fun t => floatOp t fun _ x y => (Fl.minMax true x y, 0)

/-- x × y + c, exact before its rounding (07 R196). -/
def fmaExact (m : Rnd) (x y c : Fl) : Fl × FFlags :=
  let (p, f1) := Fl.mul x y
  let (r, f2) := Fl.add m p c
  (r, f1 ||| f2)

/-- FMA (07 R196): the old destination is the addend, read at issue. -/
def execFma (st : BitVec 2) (d a b : BitVec 7) (s : State) : Host.Outcome State Fault Refusal :=
  repeated s st.toNat d a b fun d a b _ t s =>
    tileIssue s [t.phys a, t.phys b, t.phys d] 8 fun t =>
      let f := t.floatFmt
      let iv := inValue t.ftz f
      let rs := List.zipWith (fun (p : Nat × Nat) c => outCode t.ftz f t.rm (fmaExact t.rm (iv p.1) (iv p.2) (iv c)))
        (List.zip (rowCodes f (t.data a)) (rowCodes f (t.data b))) (rowCodes f (t.data d))
      .ok ⟨[(t.phys d, codesRow f (rs.map Prod.fst), none)], rs.foldl (fun fl r => fl ||| r.2) 0⟩

/-! ### Float unary operations (07 R197) -/

/-- A function of R53: FP32 only. -/
def floatFn (s : State) (st : BitVec 2) (d a : BitVec 7) (lat : Nat) (fn : Fl → Fl × FFlags) : Host.Outcome State Fault Refusal :=
  tile1 s st d a lat fun t r =>
    if t.floatFmt ≠ .fp32 then .error (.flt fltIllegal 0)
    else .ok (lanes1 .fp32 r fun x => outCode t.ftz .fp32 t.rm (fn (inValue t.ftz .fp32 x)))

/-- FEXP2 (07 R197, 02 R53). -/
def execFexp2 (st : BitVec 2) (d a : BitVec 7) (s : State) : Host.Outcome State Fault Refusal := floatFn s st d a 16 Fl.exp2

/-- FLOG2 (07 R197, 02 R53). -/
def execFlog2 (st : BitVec 2) (d a : BitVec 7) (s : State) : Host.Outcome State Fault Refusal := floatFn s st d a 16 Fl.log2

/-- FRCP (07 R197, 02 R53). -/
def execFrcp (st : BitVec 2) (d a : BitVec 7) (s : State) : Host.Outcome State Fault Refusal := floatFn s st d a 20 Fl.rcp

/-- FRSQ (07 R197, 02 R53). -/
def execFrsq (st : BitVec 2) (d a : BitVec 7) (s : State) : Host.Outcome State Fault Refusal := floatFn s st d a 20 Fl.rsq

/-- FSQRT (07 R197, 02 R53). -/
def execFsqrt (st : BitVec 2) (d a : BitVec 7) (s : State) : Host.Outcome State Fault Refusal := floatFn s st d a 20 Fl.sqrt

/-- FABS (07 R197): no flags. -/
def execFabs (st : BitVec 2) (d a : BitVec 7) (s : State) : Host.Outcome State Fault Refusal :=
  tile1 s st d a 2 fun t r =>
    let f := t.floatFmt
    .ok ((lanes1 f r fun x => roundFloat f .rne false (inValue t.ftz f x).abs).1, 0)

/-- FNEG (07 R197): no flags. -/
def execFneg (st : BitVec 2) (d a : BitVec 7) (s : State) : Host.Outcome State Fault Refusal :=
  tile1 s st d a 2 fun t r =>
    let f := t.floatFmt
    .ok ((lanes1 f r fun x => roundFloat f .rne false (inValue t.ftz f x).neg).1, 0)

/-- The class codes of FCLASS (07 R197). -/
def classOf (f : Fmt) (code : Nat) : Nat :=
  let v := f.decode code
  if v.isNan then 8
  else if v.isInf then (if v.sign then 0 else 7)
  else if v.isZero then (if v.sign then 3 else 4)
  else if isSubnormal f code then (if v.sign then 2 else 5)
  else if v.sign then 1 else 6

/-- FCLASS (07 R197). -/
def execFclass (st : BitVec 2) (d a : BitVec 7) (s : State) : Host.Outcome State Fault Refusal :=
  tile1 s st d a 4 fun t r =>
    let f := t.floatFmt
    .ok (lanes1 f r fun x => (classOf f (flushIn t.ftz f x), 0))

/-! ### Conversion (07 R198, R199) -/

/-- A conversion's parameters: descriptor and mode fields, checked (07 R198). -/
structure Cvt where
  src : Fmt
  dst : Fmt
  part : Nat
  rnd : BitVec 7
  sat : Bool

/-- 07 R198: the checks of the descriptor, the mode and PART. -/
def cvtOf (fn : Nat) (m : BitVec 2) (e : W64) : Option Cvt :=
  match Fmt.ofCode (bitsAt e 0 4), Fmt.ofCode (bitsAt e 4 4) with
  | some src, some dst =>
    let part := bitsAt e 8 3
    let k := if dst.bits ≤ src.bits then src.bits / dst.bits else dst.bits / src.bits
    if bitsAt e 19 45 ≠ 0 ∨ e.getLsbD 11 = true ∨ (fn ≠ 5 ∧ bitsAt e 12 7 ≠ 0) ∨ k ≤ part ∨ m = 3 ∨ 5 < fn
      ∨ (m ≠ 0 ∧ dst.isFloat = false) ∨ (m = 2 ∧ dst = .e2m1) then none
    else some ⟨src, dst, part, BitVec.ofNat 7 (bitsAt e 12 7), if m = 0 then dst.satDefault else m == 1⟩
  | _, _ => none

/-- The blocks of a destination: 32 values each, from destination lane `at_` on; fuel the number of blocks. -/
def cvtBlocks (f : Fmt) (mode : Nat → Rnd) : Nat → Nat → List Fl → List (Nat × BitVec 20 × List Nat × FFlags)
  | 0, _, _ => []
  | n + 1, at_, xs =>
    (at_ / 32, encodeBlock f (fun k => mode (at_ + k)) (xs.take 32)) :: cvtBlocks f mode n (at_ + 32) (xs.drop 32)

/-- Scale j of a sideband replaced (02 R44). -/
def setScale (sb : Sideband) (j : Nat) (v : BitVec 20) : Sideband :=
  let sh := 160 * (j / 8) + 20 * (j % 8)
  (sb &&& ~~~((0xFFFFF : Sideband) <<< sh)) ||| (v.zeroExtend 320 <<< sh)

/-- The lanes `at_` on of a row replaced by codes. -/
def putCodes (f : Fmt) (old : RowData) (at_ : Nat) (cs : List Nat) : RowData :=
  let o := rowCodes f old
  codesRow f (o.take at_ ++ cs ++ o.drop (at_ + cs.length))

/-- 07 R199: the destination row of a conversion from row A, old destination D and random row. -/
def convert (c : Cvt) (fn : Nat) (a d : Row) (rand : RowData) : (RowData × Option Sideband) × FFlags :=
  let mode := fun i => (Rnd.ofCode (randomOf rand i) fn).getD .rne
  let vs := rowValues c.src a.data a.sb
  let narrow := decide (c.dst.bits ≤ c.src.bits)
  let m := if narrow then c.src.lanes else c.dst.lanes
  let xs := if narrow then vs else (vs.drop (c.part * m)).take m
  let at_ := if narrow then c.part * m else 0
  if c.dst.isBlock then
    let bs := cvtBlocks c.dst mode (m / 32) at_ xs
    let cs := (bs.map fun b => b.2.2.1).flatten
    ((putCodes c.dst d.data at_ cs, some (bs.foldl (fun sb b => setScale sb b.1 b.2.1) d.sb)),
      bs.foldl (fun fl b => fl ||| b.2.2.2) 0)
  else
    let rs := xs.zipIdx.map fun (x, j) => roundTo c.dst (mode (at_ + j)) c.sat x
    ((putCodes c.dst d.data at_ (rs.map Prod.fst), none), rs.foldl (fun fl r => fl ||| r.2) 0)

/-- Bytes 20-39 of the sideband of a row of BX8 or BXI8, which has one segment, are undefined (02 R44). -/
def openTail (dst : Fmt) (free sb : Sideband) : Sideband :=
  if dst.isBlock ∧ dst.bits = 8 then (sb &&& BitVec.ofNat 320 (2 ^ 160 - 1)) ||| (free >>> 160 <<< 160) else sb

/-- FCVT (07 R198, R199). -/
def execFcvt (fn : BitVec 3) (st : BitVec 2) (d a : BitVec 7) (sx : BitVec 5) (m : BitVec 2) (s : State) :
    Host.Outcome State Fault Refusal :=
  repeated s st.toNat d a 0 fun d a _ _ t s =>
    match cvtOf fn.toNat m (t.rd .e sx) with
    | none => .error (.flt fltIllegal 0)
    | some c =>
      let srcs := t.phys a :: (if c.dst.bits < c.src.bits then [t.phys d] else []) ++ (if fn = 5 then [t.phys c.rnd] else [])
      let lat := if c.src.isBlock || c.dst.isBlock then 12 else 8
      let (n, s) := s.takeFree
      tileIssue s srcs lat fun t =>
        let ((r, sb), fl) := convert c fn.toNat (t.row (t.phys a)) (t.row (t.phys d)) (t.data c.rnd)
        .ok ⟨[(t.phys d, r, sb.map (openTail c.dst (Config.freeSideband n)))], fl⟩

/-! ### Integer arithmetic, shifts and scalar forms (07 R200, R201) -/

/-- An exact integer result in IF: wrapped, or clamped with SAT (07 R200). -/
def intOut (t : Thread) (v : Int) : Nat × FFlags :=
  let f := t.intFmt
  let (lo, hi) := f.intRange
  let enc := fun (i : Int) => (i % (2 ^ f.bits : Int)).toNat
  if t.isat = false then (enc v, 0)
  else if v < lo then (enc lo, FFlags.sat) else if v > hi then (enc hi, FFlags.sat) else (enc v, 0)

/-- A lane operation on integer values. -/
def intOp (t : Thread) (op : Int → Int → Int) (a b : RowData) : RowData × FFlags :=
  let f := t.intFmt
  lanes2 f a b fun x y => intOut t (op (f.decodeInt x) (f.decodeInt y))

/-- A lane operation on codes, without flags. -/
def codeOp (f : Fmt) (op : Nat → Nat → Nat) (a b : RowData) : RowData × FFlags := lanes2 f a b fun x y => (op x y, 0)

/-- IADD (07 R200). -/
def execIadd (st : BitVec 2) (d a b : BitVec 7) (s : State) : Host.Outcome State Fault Refusal :=
  tile2 s st d a b 4 fun t => intOp t fun x y => x + y

/-- ISUB (07 R200). -/
def execIsub (st : BitVec 2) (d a b : BitVec 7) (s : State) : Host.Outcome State Fault Refusal :=
  tile2 s st d a b 4 fun t => intOp t fun x y => x - y

/-- IMUL (07 R200). -/
def execImul (st : BitVec 2) (d a b : BitVec 7) (s : State) : Host.Outcome State Fault Refusal :=
  tile2 s st d a b 6 fun t => intOp t fun x y => x * y

/-- IMIN (07 R200). -/
def execImin (st : BitVec 2) (d a b : BitVec 7) (s : State) : Host.Outcome State Fault Refusal :=
  tile2 s st d a b 4 fun t => codeOp t.intFmt fun x y => if t.intFmt.decodeInt x ≤ t.intFmt.decodeInt y then x else y

/-- IMAX (07 R200). -/
def execImax (st : BitVec 2) (d a b : BitVec 7) (s : State) : Host.Outcome State Fault Refusal :=
  tile2 s st d a b 4 fun t => codeOp t.intFmt fun x y => if t.intFmt.decodeInt x ≤ t.intFmt.decodeInt y then y else x

/-- IAND (07 R200). -/
def execIand (st : BitVec 2) (d a b : BitVec 7) (s : State) : Host.Outcome State Fault Refusal :=
  tile2 s st d a b 4 fun _ a b => (a &&& b, 0)

/-- IOR (07 R200). -/
def execIor (st : BitVec 2) (d a b : BitVec 7) (s : State) : Host.Outcome State Fault Refusal :=
  tile2 s st d a b 4 fun _ a b => (a ||| b, 0)

/-- IXOR (07 R200). -/
def execIxor (st : BitVec 2) (d a b : BitVec 7) (s : State) : Host.Outcome State Fault Refusal :=
  tile2 s st d a b 4 fun _ a b => (a ^^^ b, 0)

/-- The shifts of 07 R201 on a code of w bits. -/
def shiftCode (f : Fmt) (kind : Nat) (sh x : Nat) : Nat :=
  let w := f.bits
  match kind with
  | 0 => if w ≤ sh then 0 else x <<< sh % 2 ^ w
  | 1 => if w ≤ sh then 0 else x >>> sh
  | _ =>
    if f = .uint8 then (if w ≤ sh then 0 else x >>> sh)
    else (f.decodeInt x / (2 ^ min sh w : Int) % (2 ^ w : Int)).toNat

/-- ISHL, ISHR, ISAR (07 R201). -/
def shiftRow (s : State) (kind : Nat) (st : BitVec 2) (d a : BitVec 7) (sx : BitVec 5) : Host.Outcome State Fault Refusal :=
  tile1 s st d a 4 fun t r =>
    .ok (lanes1 t.intFmt r fun x => (shiftCode t.intFmt kind (bitsAt (t.rd .e sx) 0 8) x, 0))

/-- ISHL (07 R201). -/
def execIshl (st : BitVec 2) (d a : BitVec 7) (sx : BitVec 5) (s : State) : Host.Outcome State Fault Refusal :=
  shiftRow s 0 st d a sx

/-- ISHR (07 R201). -/
def execIshr (st : BitVec 2) (d a : BitVec 7) (sx : BitVec 5) (s : State) : Host.Outcome State Fault Refusal :=
  shiftRow s 1 st d a sx

/-- ISAR (07 R201). -/
def execIsar (st : BitVec 2) (d a : BitVec 7) (sx : BitVec 5) (s : State) : Host.Outcome State Fault Refusal :=
  shiftRow s 2 st d a sx

/-- The lane width a mode field counts in: IF lanes, FF lanes, or `other` bits (07 R201, R203). -/
def modeBits (t : Thread) (m : BitVec 2) (other : Nat) : Nat :=
  match m.toNat with
  | 0 => t.intFmt.bits | 1 => t.floatFmt.bits | _ => other

/-- Lanes of w bits of a row. -/
def lanesOf (w : Nat) (r : RowData) : List Nat := (List.range (2048 / w)).map (lane w r.toNat)

/-- A row of lanes of w bits. -/
def laneRow (w : Nat) (xs : List Nat) : RowData := BitVec.ofNat 2048 (packLanes w xs)

/-- BCAST (07 R201). -/
def execBcast (st : BitVec 2) (d : BitVec 7) (sx : BitVec 5) (m : BitVec 2) (s : State) : Host.Outcome State Fault Refusal :=
  repeated s st.toNat d 0 0 fun d _ _ _ _ s =>
    if m = 3 then .error (.flt fltIllegal 0)
    else tileIssue s [] 2 fun t =>
      let w := modeBits t m 64
      .ok ⟨[(t.phys d, laneRow w (List.replicate (2048 / w) (t.rd .e sx).toNat), none)], 0⟩

/-- ROWSET (07 R201). -/
def execRowset (st : BitVec 2) (d a : BitVec 7) (sx : BitVec 5) (m : BitVec 2) (s : State) :
    Host.Outcome State Fault Refusal :=
  tile1 s st d a 2 fun t r =>
    if 1 < m.toNat then .error (.flt fltIllegal 0)
    else
      let w := modeBits t m 8
      let e := t.rd .e sx
      .ok (laneRow w (updAt (fun _ => bitsAt e 0 32) (lanesOf w r) (bitsAt e 32 16 % (2048 / w))), 0)

/-! ### Compares and selection (07 R202, R203) -/

/-- A mask lane: all ones or all zeros (07 R190). -/
def maskLane (f : Fmt) (b : Bool) : Nat := if b then 2 ^ f.bits - 1 else 0

/-- A float compare (07 R202). -/
def floatCmp (s : State) (st : BitVec 2) (d a b : BitVec 7) (p : Fl → Fl → Bool) : Host.Outcome State Fault Refusal :=
  tile2 s st d a b 4 fun t =>
    let f := t.floatFmt
    codeOp f fun x y => maskLane f (p (inValue t.ftz f x) (inValue t.ftz f y))

/-- FCMPEQ (07 R202). -/
def execFcmpeq (st : BitVec 2) (d a b : BitVec 7) (s : State) : Host.Outcome State Fault Refusal :=
  floatCmp s st d a b fun x y => !x.isNan && !y.isNan && Fl.cmp x y == .eq

/-- FCMPLT (07 R202). -/
def execFcmplt (st : BitVec 2) (d a b : BitVec 7) (s : State) : Host.Outcome State Fault Refusal :=
  floatCmp s st d a b Fl.lt

/-- FCMPLE (07 R202). -/
def execFcmple (st : BitVec 2) (d a b : BitVec 7) (s : State) : Host.Outcome State Fault Refusal :=
  floatCmp s st d a b fun x y => !x.isNan && !y.isNan && Fl.cmp x y != .gt

/-- FCMPUN (07 R202). -/
def execFcmpun (st : BitVec 2) (d a b : BitVec 7) (s : State) : Host.Outcome State Fault Refusal :=
  floatCmp s st d a b fun x y => x.isNan || y.isNan

/-- An integer compare in IF (07 R202). -/
def intCmp (s : State) (st : BitVec 2) (d a b : BitVec 7) (p : Fmt → Nat → Nat → Bool) : Host.Outcome State Fault Refusal :=
  tile2 s st d a b 4 fun t => codeOp t.intFmt fun x y => maskLane t.intFmt (p t.intFmt x y)

/-- The order of ICMPLT (07 R202): signed, or unsigned under UINT8. -/
def intLess (f : Fmt) (x y : Nat) : Bool := decide (f.decodeInt x < f.decodeInt y)

/-- ICMPEQ (07 R202). -/
def execIcmpeq (st : BitVec 2) (d a b : BitVec 7) (s : State) : Host.Outcome State Fault Refusal :=
  intCmp s st d a b fun _ x y => x == y

/-- ICMPLT (07 R202). -/
def execIcmplt (st : BitVec 2) (d a b : BitVec 7) (s : State) : Host.Outcome State Fault Refusal :=
  intCmp s st d a b intLess

/-- ICMPLTU (07 R202). -/
def execIcmpltu (st : BitVec 2) (d a b : BitVec 7) (s : State) : Host.Outcome State Fault Refusal :=
  intCmp s st d a b fun _ x y => decide (x < y)

/-- PERM (07 R203). -/
def execPerm (st : BitVec 2) (d a b : BitVec 7) (s : State) : Host.Outcome State Fault Refusal :=
  tile2 s st d a b 6 fun t a b =>
    let f := t.intFmt
    (codesRow f ((rowCodes f b).map fun k => lane f.bits a.toNat (k % f.lanes)), 0)

/-- SEL (07 R203): bytewise, by bit 7 of the old destination's bytes. -/
def execSel (st : BitVec 2) (d a b : BitVec 7) (s : State) : Host.Outcome State Fault Refusal :=
  repeated s st.toNat d a b fun d a b _ t s =>
    tileIssue s [t.phys a, t.phys b, t.phys d] 4 fun t =>
      let m := lanesOf 8 (t.data d)
      let xs := List.zipWith (fun (p : Nat × Nat) k => if 128 ≤ k then p.1 else p.2)
        (List.zip (lanesOf 8 (t.data a)) (lanesOf 8 (t.data b))) m
      .ok ⟨[(t.phys d, laneRow 8 xs, none)], 0⟩

/-- Lanes moved by s places: zero or the row's other end comes in (07 R203). -/
def moveLanes (w : Nat) (rot : Bool) (sh : Int) (r : RowData) : RowData :=
  let n : Int := (2048 / w : Nat)
  laneRow w ((List.range (2048 / w)).map fun i =>
    let j : Int := i - sh
    if rot then lane w r.toNat (j % n).toNat else if 0 ≤ j ∧ j < n then lane w r.toNat j.toNat else 0)

/-- LSHIFT and LROT (07 R203). -/
def laneMove (s : State) (rot : Bool) (st : BitVec 2) (d a : BitVec 7) (sx : BitVec 5) (m : BitVec 2) :
    Host.Outcome State Fault Refusal :=
  tile1 s st d a 4 fun t r =>
    if m = 3 then .error (.flt fltIllegal 0)
    else .ok (moveLanes (modeBits t m 8) rot ((t.rd .e sx).extractLsb' 0 16).toInt r, 0)

/-- LSHIFT (07 R203). -/
def execLshift (st : BitVec 2) (d a : BitVec 7) (sx : BitVec 5) (m : BitVec 2) (s : State) :
    Host.Outcome State Fault Refusal := laneMove s false st d a sx m

/-- LROT (07 R203). -/
def execLrot (st : BitVec 2) (d a : BitVec 7) (sx : BitVec 5) (m : BitVec 2) (s : State) :
    Host.Outcome State Fault Refusal := laneMove s true st d a sx m

/-! ### Reductions (07 R204, R205) -/

/-- The result row of a reduction (07 R204). -/
def reduceRow (value : Nat) (index : Nat) (allNan anyNan : Bool) : RowData :=
  BitVec.ofNat 2048 (value + index * 2 ^ 32 + allNan.toNat * 2 ^ 48 + anyNan.toNat * 2 ^ 49)

/-- The elements of a span of rows from field a on, after in() (07 R204). -/
def spanValues (t : Thread) (a : BitVec 7) : List Fl :=
  ((List.range t.span).map fun k =>
    (rowCodes t.floatFmt (t.data (a + BitVec.ofNat 7 k))).map (inValue t.ftz t.floatFmt)).flatten

/-- 07 R205: the element selected among those that are no NaN: its index and value. -/
def argBest (wantMax : Bool) : List Fl → Nat → Option (Nat × Fl) → Option (Nat × Fl)
  | [], _, best => best
  | v :: vs, i, best =>
    let take := if v.isNan then false else match best with
      | none => true
      | some (_, b) => match Fl.cmp b v with
        | .lt => wantMax
        | .gt => !wantMax
        | .eq => if wantMax then b.sign && !v.sign else !b.sign && v.sign
    argBest wantMax vs (i + 1) (if take then some (i, v) else best)

/-- RMAX, RMIN, RARGMAX, RARGMIN over elements (07 R204, R205). -/
def selectRow (wantMax withIndex : Bool) (vs : List Fl) : RowData :=
  match argBest wantMax vs 0 none with
  | none => reduceRow 0x7FC00000 (if withIndex then 0xFFFF else 0) true true
  | some (i, v) => reduceRow (roundFloat .fp32 .rne false v).1 (if withIndex then i else 0) false (vs.any Fl.isNan)

/-- RSUM and RSUMSQ over elements (07 R204, 02 R55). -/
def sumRow (square ftz : Bool) (vs : List Fl) : RowData × FFlags :=
  let xs := if square then vs.map fun v => (Fl.mul v v).1 else vs
  let rnd := fun x =>
    let (c, fl) := flushOut ftz .fp32 (roundFloat .fp32 .rne false x)
    (Fmt.fp32.decode c, fl)
  let pairs := pairTree rnd 12 xs
  (reduceRow (roundFloat .fp32 .rne false pairs.1).1 0 (vs.all Fl.isNan) (vs.any Fl.isNan), pairs.2)

/-- A reduction (07 R204): the span must lie in the 128 fields. -/
def reduction (s : State) (st : BitVec 2) (d a : BitVec 7) (base : Nat) (f : Thread → List Fl → RowData × FFlags) :
    Host.Outcome State Fault Refusal :=
  repeated s st.toNat d a 0 fun d a _ rep t s =>
    if 128 < a.toNat + t.span then .error (.flt (if rep then fltRep else fltIllegal) 0)
    else tileIssue s [] (base + 2 * bitsAt t.tfmt 8 3) fun t =>
      let (r, fl) := f t (spanValues t a)
      .ok ⟨[(t.phys d, r, none)], fl⟩

/-- RSUM (07 R204). -/
def execRsum (st : BitVec 2) (d a : BitVec 7) (s : State) : Host.Outcome State Fault Refusal :=
  reduction s st d a 14 fun t => sumRow false t.ftz

/-- RSUMSQ (07 R204). -/
def execRsumsq (st : BitVec 2) (d a : BitVec 7) (s : State) : Host.Outcome State Fault Refusal :=
  reduction s st d a 14 fun t => sumRow true t.ftz

/-- RMAX (07 R204). -/
def execRmax (st : BitVec 2) (d a : BitVec 7) (s : State) : Host.Outcome State Fault Refusal :=
  reduction s st d a 10 fun _ vs => (selectRow true false vs, 0)

/-- RMIN (07 R204). -/
def execRmin (st : BitVec 2) (d a : BitVec 7) (s : State) : Host.Outcome State Fault Refusal :=
  reduction s st d a 10 fun _ vs => (selectRow false false vs, 0)

/-- RARGMAX (07 R205). -/
def execRargmax (st : BitVec 2) (d a : BitVec 7) (s : State) : Host.Outcome State Fault Refusal :=
  reduction s st d a 10 fun _ vs => (selectRow true true vs, 0)

/-- RARGMIN (07 R205). -/
def execRargmin (st : BitVec 2) (d a : BitVec 7) (s : State) : Host.Outcome State Fault Refusal :=
  reduction s st d a 10 fun _ vs => (selectRow false true vs, 0)

/-! ### Transforms (07 R206, R207) -/

/-- The fault of an odd pair field: FLT_REP under REP (07 R206). -/
def pairFault (rep : Bool) : Exc := .flt (if rep then fltRep else fltIllegal) 0

/-- BFLY (07 R206): rows wd and wd + 1. -/
def execBfly (st : BitVec 2) (d a b : BitVec 7) (s : State) : Host.Outcome State Fault Refusal :=
  repeated s st.toNat d a b fun d a b rep t s =>
    if d.toNat % 2 = 1 then .error (pairFault rep)
    else tileIssue s [t.phys a, t.phys b] 6 fun t =>
      let (r1, f1) := floatOp t Fl.add (t.data a) (t.data b)
      let (r2, f2) := floatOp t (fun m x y => Fl.add m x y.neg) (t.data a) (t.data b)
      .ok ⟨[(t.phys d, r1, none), (t.phys d + 1, r2, none)], f1 ||| f2⟩

/-- x × y + z × w (or minus), rounded once from its exact value under RM, with out() (07 R206). -/
def cmulPart (t : Thread) (x y z w : Fl) (minus : Bool) : Nat × FFlags :=
  let (p, f1) := Fl.mul x y
  let (q, f2) := Fl.mul z w
  let (r, f3) := Fl.add t.rm p (if minus then q.neg else q)
  outCode t.ftz t.floatFmt t.rm (r, f1 ||| f2 ||| f3)

/-- CMUL over the lanes of two rows, as (real, imaginary) pairs (07 R206). -/
def cmulLanes (t : Thread) : List Nat → List Nat → List (Nat × FFlags)
  | ar :: ai :: as, br :: bi :: bs =>
    let iv := inValue t.ftz t.floatFmt
    cmulPart t (iv ar) (iv br) (iv ai) (iv bi) true :: cmulPart t (iv ar) (iv bi) (iv ai) (iv br) false :: cmulLanes t as bs
  | _, _ => []

/-- A row of complex products. -/
def cmulRow (t : Thread) (as bs : List Nat) : RowData × FFlags :=
  let rs := cmulLanes t as bs
  (codesRow t.floatFmt (rs.map Prod.fst), rs.foldl (fun fl r => fl ||| r.2) 0)

/-- CMUL (07 R206). -/
def execCmul (st : BitVec 2) (d a b : BitVec 7) (s : State) : Host.Outcome State Fault Refusal :=
  tile2 s st d a b 8 fun t a b => cmulRow t (rowCodes t.floatFmt a) (rowCodes t.floatFmt b)

/-- CONJ (07 R206): odd lanes negated; a NaN gives the canonical NaN. -/
def execConj (st : BitVec 2) (d a : BitVec 7) (s : State) : Host.Outcome State Fault Refusal :=
  tile1 s st d a 2 fun t r =>
    let f := t.floatFmt
    .ok (codesRow f ((rowCodes f r).zipIdx.map fun (x, i) =>
      let v := inValue t.ftz f x
      (roundFloat f .rne false (if i % 2 = 1 then v.neg else v)).1), 0)

/-- A twiddle component in FF; an exact zero is +0 (07 R207). Its own rounding sets no flag: those of TWID are the product's
(log 42). -/
def twidPart (f : Fmt) (x : Fl) : Nat := (roundFloat f .rne false (if x.isZero then Fl.zero else x)).1

/-- The twiddle (c, s) of k of N (07 R207). -/
def twiddle (f : Fmt) (k n : Nat) (forward : Bool) : Nat × Nat :=
  let (c, sn) := if 2 * k ≤ n then cosSin k n else ((cosSin (n - k) n).1, (cosSin (n - k) n).2.neg)
  (twidPart f c, twidPart f (if forward then sn.neg else sn))

/-- TWID (07 R207). -/
def execTwid (st : BitVec 2) (d a : BitVec 7) (sx : BitVec 5) (m : BitVec 2) (s : State) : Host.Outcome State Fault Refusal :=
  tile1 s st d a 24 fun t r =>
    let e := t.rd .e sx
    let logn := bitsAt e 0 5
    if 1 < m.toNat ∨ logn = 0 ∨ 24 < logn ∨ bitsAt e 5 3 ≠ 0 ∨ bitsAt e 56 8 ≠ 0 then .error (.flt fltIllegal 0)
    else
      let f := t.floatFmt
      let n := 2 ^ logn
      let tw := ((List.range (f.lanes / 2)).map fun j =>
        let p := twiddle f ((bitsAt e 8 24 + j * bitsAt e 32 24) % n) n (m == 0)
        [p.1, p.2]).flatten
      .ok (cmulRow t (rowCodes f r) tw)

/-! ### Row moves, random rows and sorting (07 R208-R210) -/

/-- ROWGET (07 R208): slots of 8, 4 or 2 bytes, or a scale, chosen by the old e[sreg]. -/
def execRowget (st : BitVec 2) (a : BitVec 7) (sx : BitVec 5) (m : BitVec 2) (s : State) : Host.Outcome State Fault Refusal :=
  runWord s fun t =>
    let t := atIssue t [t.phys a]
    let r := t.row (t.phys a)
    let k := t.rd .e sx
    let v : Nat := match m.toNat with
      | 0 => lane 64 r.data.toNat (bitsAt k 0 5)
      | 1 => lane 32 r.data.toNat (bitsAt k 0 6)
      | 2 => lane 16 r.data.toNat (bitsAt k 0 7)
      | _ => (sbScale r.sb (bitsAt k 0 4)).toNat
    .ok (s.setCurT ((((t.wr .e sx (BitVec.ofNat 64 v)).slow .e sx 6 false).tick .e st.toNat).advance .e))

/-- ROWPUT (07 R208): A with its sideband, one scale replaced. -/
def execRowput (st : BitVec 2) (d a : BitVec 7) (sx : BitVec 5) (s : State) : Host.Outcome State Fault Refusal :=
  repeated s st.toNat d a 0 fun d a _ _ t s =>
    tileIssue s [t.phys a] 4 fun t =>
      let r := t.row (t.phys a)
      let e := t.rd .e sx
      .ok ⟨[(t.phys d, r.data, some (setScale r.sb (bitsAt e 32 4) (BitVec.ofNat 20 (bitsAt e 0 20))))], 0⟩

/-- ROWMOV (07 R208). -/
def execRowmov (st : BitVec 2) (d a : BitVec 7) (s : State) : Host.Outcome State Fault Refusal :=
  repeated s st.toNat d a 0 fun d a _ _ t s =>
    tileIssue s [t.phys a] 2 fun t =>
      let r := t.row (t.phys a)
      .ok ⟨[(t.phys d, r.data, some r.sb)], 0⟩

/-- ROWZERO (07 R208). -/
def execRowzero (st : BitVec 2) (d : BitVec 7) (s : State) : Host.Outcome State Fault Refusal :=
  repeated s st.toNat d 0 0 fun d _ _ _ _ s => tileIssue s [] 2 fun t => .ok ⟨[(t.phys d, 0, some 0)], 0⟩

/-- The rounds of Philox 4×32 (07 R209) on counter words and key words. -/
def philoxGo : Nat → W32 → W32 → W32 → W32 → W32 → W32 → List W32
  | 0, c0, c1, c2, c3, _, _ => [c0, c1, c2, c3]
  | n + 1, c0, c1, c2, c3, k0, k1 =>
    let p0 := 0xD2511F53 * c0.toNat
    let p1 := 0xCD9E8D57 * c2.toNat
    let h0 : W32 := BitVec.ofNat 32 (p0 / 2 ^ 32)
    let l0 : W32 := BitVec.ofNat 32 p0
    let h1 : W32 := BitVec.ofNat 32 (p1 / 2 ^ 32)
    let l1 : W32 := BitVec.ofNat 32 p1
    philoxGo n (h1 ^^^ c1 ^^^ k0) l1 (h0 ^^^ c3 ^^^ k1) l0 (k0 + 0x9E3779B9) (k1 + 0xBB67AE85)

/-- Philox 4×32 of 10 rounds (07 R209). -/
def philox (key : W64) (c0 c1 c2 c3 : W32) : List W32 :=
  philoxGo 10 c0 c1 c2 c3 (key.extractLsb' 0 32) (key.extractLsb' 32 32)

/-- The random row of a key, a counter base and a field value (07 R209). -/
def randomRow (key base : W64) (v : Nat) : RowData :=
  laneRow 32 (((List.range 16).map fun b =>
    (philox key (base.extractLsb' 0 32) (base.extractLsb' 32 32) (BitVec.ofNat 32 (16 * v + b)) 0).map BitVec.toNat).flatten)

/-- RNGROW (07 R209): the field value before the mapping of R68 counts. -/
def execRngrow (st : BitVec 2) (d : BitVec 7) (sx : BitVec 5) (s : State) : Host.Outcome State Fault Refusal :=
  repeated s st.toNat d 0 0 fun d _ _ _ _ s =>
    if sx = 31 then .error (.flt fltIllegal 0)
    else tileIssue s [] 24 fun t =>
      .ok ⟨[(t.phys d, randomRow (t.rd .e sx) (t.rd .e (sx + 1)) d.toNat, none)], 0⟩

/-- A pair placed after every pair whose key does not exceed its own: the stable ascending order (07 R210). -/
def sortInsert (f : Fmt) (x : Nat × Nat) : List (Nat × Nat) → List (Nat × Nat)
  | [] => [x]
  | y :: ys => if intLess f x.1 y.1 then x :: y :: ys else y :: sortInsert f x ys

/-- SORTK (07 R210): keys in row wd, their indices in row wd + 1. -/
def execSortk (st : BitVec 2) (d a b : BitVec 7) (s : State) : Host.Outcome State Fault Refusal :=
  repeated s st.toNat d a b fun d a b rep t s =>
    if d.toNat % 2 = 1 then .error (pairFault rep)
    else tileIssue s [t.phys a, t.phys b] 48 fun t =>
      let f := t.intFmt
      let ps := (List.zip (rowCodes f (t.data a)) (rowCodes f (t.data b))).foldl (fun acc x => sortInsert f x acc) []
      .ok ⟨[(t.phys d, codesRow f (ps.map Prod.fst), none), (t.phys d + 1, codesRow f (ps.map Prod.snd), none)], 0⟩

/-! ### Tile system (07 R211, R212) -/

/-- TMIRROR (07 R211): the MIRROR bit of the physical register. Its copy holds what the register holds. -/
def execTmirror (st : BitVec 2) (d : BitVec 3) (s : State) : Host.Outcome State Fault Refusal :=
  runWord s fun t =>
    let t := t.mirror (BitVec.twoPow 8 (physReg t.ebase d.toNat))
    .ok (s.setCurT ((t.tick .e st.toNat).advance .e))

/-- TROT (07 R212): row i becomes the old row i + 1 modulo 16, with its sideband. -/
def execTrot (st : BitVec 2) (d : BitVec 3) (s : State) : Host.Outcome State Fault Refusal :=
  runWord s fun t =>
    let p := physReg t.ebase d.toNat
    match tileIssue s [] 4 fun t =>
      .ok ⟨(List.range 16).map fun i =>
        let r := t.row (p * 16 + (i + 1) % 16)
        (p * 16 + i, r.data, some r.sb), 0⟩ with
    | .error e => .error e
    | .ok s => .ok (s.setCurT ((s.curT.tick .e st.toNat).advance .e))

/-- TILE_RESULT_LAND (03 R70, 07 R193): a result in flight lands. -/
def execTileResultLand (core slot idx : Nat) (s : State) : Host.Outcome State Fault Refusal :=
  .next (s.setThread core slot (landFlight (s.thread core slot) idx).1)

end Sys2Proof.Machine
end

