-- ==== Sys2Proof/Machine/Mat.lean ====
section
/-! DEFINITION. The matrix engine (spec 09 R235-R250, R258-R263). Its work on a command is one act; a command started holds
its bank group until it completes. -/

namespace Sys2Proof.Machine

namespace State

def mat (s : State) (core : Nat) : Mat := Tab.get {} s.mats core

def setMat (s : State) (core : Nat) (m : Mat) : State := { s with mats := Tab.set s.mats core m }

def chk (s : State) (cl : Nat) : Chk := Tab.get {} s.chks cl

end State

/-! ### Fields (09 R235-R237) -/

/-- 09 R235: the element width of an accepted operand format. -/
def matClass (f : Nat) : Option Nat :=
  if f = 1 ∨ f = 2 then some 16
  else if f = 3 ∨ f = 4 ∨ f = 8 ∨ f = 10 ∨ f = 11 ∨ f = 13 then some 8
  else if f = 5 ∨ f = 9 ∨ f = 12 then some 4
  else none

/-- The format of an accepted code. -/
def matFmt (f : Nat) : Fmt := (Fmt.ofCode f).getD .fp32

/-- Elements of a pass (09 R235). -/
def passLen (cls : Nat) : Nat := if cls = 4 then 256 else 128

/-- Bytes of a pass of a row (09 R236). -/
def passBytes (cls : Nat) : Nat := if cls = 16 then 256 else 128

def Cmd.matWen (c : Cmd) : Bool := (c.w 0).getLsbD 57
def Cmd.matWctr (c : Cmd) : Nat := bitsAt (c.w 0) 52 5
def Cmd.matPen (c : Cmd) : Bool := (c.w 0).getLsbD 51
def Cmd.matPctr (c : Cmd) : Nat := bitsAt (c.w 0) 46 5
def Cmd.matAmount (c : Cmd) : BitVec 32 := BitVec.ofNat 32 (bitsAt (c.w 1) 32 32)
def Cmd.matWval (c : Cmd) : BitVec 32 := BitVec.ofNat 32 (bitsAt (c.w 1) 0 32)
/-- Bit 41: the accumulator set, or the bank of MLOADW. -/
def Cmd.matSet (c : Cmd) : Nat := bitsAt (c.w 0) 41 1
def Cmd.matBase (c : Cmd) : Nat := bitsAt (c.w 2) 0 22
def Cmd.matScl (c : Cmd) : Nat := bitsAt (c.w 2) 22 22
def Cmd.matStep (c : Cmd) : Nat := 64 * bitsAt (c.w 2) 44 12
/-- The rows of MMUL, MLOADW or MDRAIN. -/
def Cmd.matRows (c : Cmd) : Nat := if c.op = 2 then 128 else bitsAt (c.w 0) 33 7 + 1
def Cmd.matFmtCode (c : Cmd) : Nat := if c.op = 2 then bitsAt (c.w 0) 37 4 else bitsAt (c.w 0) 29 4
def Cmd.matKp (c : Cmd) : Nat := if c.op = 2 then bitsAt (c.w 0) 36 1 else bitsAt (c.w 0) 28 1
/-- The declared bank group (09 R240). -/
def Cmd.matGroup (c : Cmd) : Option Nat :=
  match c.op with
  | 1 => some (bitsAt (c.w 0) 25 3)
  | 2 => some (bitsAt (c.w 0) 33 3)
  | 4 => some (bitsAt (c.w 0) 21 3)
  | _ => none
def Cmd.matRow0 (c : Cmd) : Nat := bitsAt (c.w 0) 26 7
def Cmd.matPart (c : Cmd) : Nat := bitsAt (c.w 0) 24 2
def Cmd.matClr (c : Cmd) : Bool := (c.w 0).getLsbD 40
def Cmd.matProg (c : Cmd) : Nat := bitsAt (c.w 3) 0 22
def Cmd.matPbase (c : Cmd) : Nat := bitsAt (c.w 3) 22 22
def Cmd.matProgLen (c : Cmd) : Nat := bitsAt (c.w 0) 15 6 + 1

/-- Bytes of a scratchpad range lie in a bank group (09 R240). -/
def inGroup (g a n : Nat) : Bool := decide (g * 0x80000 ≤ a) && decide (a + n ≤ (g + 1) * 0x80000)

/-- The scratchpad ranges of an operand: its rows' passes and scale images (09 R236). -/
def operandSpans (c : Cmd) : List (Nat × Nat) :=
  let cls := (matClass c.matFmtCode).getD 8
  (List.range c.matRows).flatMap fun i =>
    (c.matBase + c.matStep * i + (if cls = 16 then 0 else 128 * c.matKp), passBytes cls)
      :: (if (matFmt c.matFmtCode).isBlock then [(c.matScl + 40 * i, 40)] else [])

/-- A descriptor's own limits (09 R237). -/
def descOk (w : W64) : Bool := bitsAt w 56 8 == 0 && bitsAt w 0 6 == 0 && bitsAt w 22 3 == 0

/-- The ranges' faults: outside the group FLT_BADCMD, in the carve FLT_ACCESS (09 R237, R240). -/
def spansFault (ways g : Nat) (ss : List (Nat × Nat)) : Option Code :=
  if !ss.all fun p => inGroup g p.1 p.2 then some fltBadCmd
  else if ss.any fun p => decide (carveBase ways < p.1 + p.2) then some fltAccess
  else none

/-! ### Epilogue programs (09 R246, R248) -/

/-- An epilogue micro-order. -/
inductive Epi where
  | pass
  /-- LDV: its mode, BF16, its address for row 0. -/
  | ldv (mode : Nat) (bf : Bool) (addr : Nat)
  /-- ADDV, MULV, MAXV, MINV: 0 to 3. -/
  | opV (k : Nat)
  /-- ADDS, MULS, MAXS, MINS: 0 to 3, with the literal. -/
  | opS (k : Nat) (c : BitVec 32)
  | movtv
  | swptv
  | ldt (count addr : Nat)
  | tlu (lo inv : BitVec 32)
  | store (fmt rm sat : Nat)
  | stacc
  deriving DecidableEq, Repr

/-- One micro-order and the words it takes; `none` when it is malformed (09 R246, R248). -/
def epiOrder (pbase part : Nat) (clr : Bool) : List Nat → Option (Epi × Nat)
  | [] => none
  | w :: lits =>
    let low := w % 2 ^ 28
    let plain := fun (e : Epi) => if low = 0 then some (e, 1) else none
    match w / 2 ^ 28 with
    | 0 => plain .pass
    | 1 => match lits with
      | [] => none
      | off :: _ =>
        let mode := w / 2 ^ 26 % 4
        let bf := w / 2 ^ 25 % 2 == 1
        let al := if mode < 2 then 64 else if bf then 2 else 4
        if w % 2 ^ 25 = 0 ∧ mode < 3 ∧ off < 2 ^ 22 ∧ (pbase + off) % al = 0 then some (.ldv mode bf (pbase + off), 2) else none
    | 2 => plain (.opV 0)
    | 3 => plain (.opV 1)
    | 4 => plain (.opV 2)
    | 5 => plain (.opV 3)
    | 10 => plain .movtv
    | 11 => plain .swptv
    | 12 => match lits with
      | [] => none
      | a :: _ => if low < 256 ∧ 1 ≤ low ∧ a < 2 ^ 22 ∧ a % 4 = 0 then some (.ldt (low + 1) a, 2) else none
    | 13 => match lits with
      | lo :: inv :: _ => if low = 0 then some (.tlu (BitVec.ofNat 32 lo) (BitVec.ofNat 32 inv), 3) else none
      | _ => none
    | 14 =>
      let fmt := w / 2 ^ 24 % 16
      let rm := w / 2 ^ 21 % 8
      let sat := w / 2 ^ 19 % 4
      match Fmt.ofCode fmt with
      | none => none
      | some f =>
        let b := 16 * f.bits
        if w % 2 ^ 19 = 0 ∧ rm ≤ 4 ∧ sat < 3 ∧ (sat = 0 ∨ f.isFloat = true) ∧ ¬(sat = 2 ∧ f = .e2m1)
          ∧ (if f.bits = 32 then part = 0 else (part + 1) * b ≤ 256) then some (.store fmt rm sat, 1) else none
    | 15 => if clr then none else plain .stacc
    | k => match lits with  -- 6 to 9
      | [] => none
      | c :: _ => if low = 0 then some (.opS (k - 6) (BitVec.ofNat 32 c), 2) else none

/-- The micro-orders of a program's words; fuel at least their number. -/
def epiParse (pbase part : Nat) (clr : Bool) : Nat → List Nat → Option (List Epi)
  | 0, ws => if ws.isEmpty then some [] else none
  | n + 1, ws =>
    if ws.isEmpty then some []
    else match epiOrder pbase part clr ws with
      | none => none
      | some (e, k) => (epiParse pbase part clr n (ws.drop k)).map (e :: ·)

def Epi.isLdt : Epi → Bool | .ldt .. => true | _ => false
def Epi.isStore : Epi → Bool | .store .. => true | _ => false
def Epi.isTlu : Epi → Bool | .tlu .. => true | _ => false
def Epi.isLdv0 : Epi → Bool | .ldv 0 _ _ => true | _ => false

/-- 09 R246: a whole program is in order. -/
def epiOk (es : List Epi) : Bool :=
  decide (es.countP Epi.isLdt ≤ 1) && decide (es.countP Epi.isStore ≤ 1) && decide (es.countP Epi.isLdv0 ≤ 4)
    && !(es.takeWhile fun e => !e.isLdt).any Epi.isTlu

/-- The scratchpad ranges a program's STORE declares: the bytes of its rows and its whole scale images (09 R240, R248). -/
def storeSpans (c : Cmd) (es : List Epi) : List (Nat × Nat) :=
  match es.find? Epi.isStore with
  | some (.store fmt _ _) =>
    let f := matFmt fmt
    let b := 16 * f.bits
    (List.range c.matRows).flatMap fun i =>
      (c.matBase + c.matStep * i + c.matPart * b, if f.bits = 32 then 512 else b)
        :: (if f.isBlock then [(c.matScl + 40 * i, 40)] else [])
  | _ => []

/-- Some STORE of the program writes a block format. -/
def storesBlock (es : List Epi) : Bool := es.any fun e => match e with | .store f _ _ => (matFmt f).isBlock | _ => false

/-! ### Scratchpad at the engine -/

/-- The first marked line of a range of a core's scratchpad (09 R258). -/
def badLine (s : State) (core a n : Nat) : Option Nat :=
  (linesIn a n).find? fun l => locPoisoned s (.spad (spadSize * core + 64 * l)) 64

/-- Bytes of the core's scratchpad as MAT reads them: FLT_ACCESS in the carve, FLT_UNCORR on a marked line (09 R246, R258). -/
def matRead (s : State) (core a n : Nat) : X (List Byte) :=
  if carveBase (s.core core).ways < a + n then .error (.flt fltAccess (BitVec.ofNat 64 a))
  else match badLine s core a n with
    | some l => .error (.flt fltUncorr (BitVec.ofNat 64 (l * 64)))
    | none => .ok (s.spad.bytes (spadSize * core + a) n)

/-- Bytes written to scratchpad, line by line; fuel at least their number. -/
def spadPut (core : Nat) : Nat → State → Nat → List Byte → State
  | 0, s, _, _ => s
  | n + 1, s, a, bs =>
    if bs.isEmpty then s
    else
      let k := 64 - a % 64
      spadPut core n (writeLoc s (bs.take k) (.spad (spadSize * core + a))) (a + k) (bs.drop k)

/-- Words of 32 bits from bytes. -/
def words32 (bs : List Byte) : List Nat := (List.range (bs.length / 4)).map fun i => leValue ((bs.drop (4 * i)).take 4)

/-- An epilogue program read and checked (09 R245, R246). -/
def readProgram (s : State) (core : Nat) (c : Cmd) : X (List Epi) :=
  match matRead s core c.matProg (4 * c.matProgLen) with
  | .error e => .error e
  | .ok bs =>
    let bad : X (List Epi) := .error (.flt fltBadCmd 0)
    match epiParse c.matPbase c.matPart c.matClr 65 (words32 bs) with
    | none => bad
    | some es =>
      if !epiOk es || (c.matScl != 0 && !storesBlock es) then bad
      else match spansFault (s.core core).ways (c.matGroup.getD 0) (storeSpans c es) with
        | some code => .error (.flt code 0)
        | none => .ok es

/-! ### Checks of a command at the head (09 R237, R240) -/

/-- 09 R235-R237, R240, R242-R245, R249: a malformed command, or one whose operands meet the carve. -/
def matBad (ways : Nat) (c : Cmd) : Option Code :=
  let low := fun (n : Nat) => bitsAt (c.w 0) 0 n == 0
  let shape := match c.op with
    | 1 => c.words.length == 3 && low 25 && descOk (c.w 2)
    | 2 => c.words.length == 3 && low 33 && descOk (c.w 2)
    | 3 => c.words.length == 2 && low 42
    | 4 => c.words.length == 4 && low 15 && descOk (c.w 2) && bitsAt (c.w 3) 44 20 == 0 && c.matProg % 4 == 0
        && decide (c.matRow0 + c.matRows ≤ 128)
    | 5 => c.words.length == 4 && low 42 && bitsAt (c.w 3) 32 32 == 0
    | _ => false
  if !shape then some fltBadCmd
  else if 10 < bitsAt (c.w 0) 42 4 then some fltBadScope
  else if c.op = 1 ∨ c.op = 2 then
    match matClass c.matFmtCode with
    | none => some fltBadCmd
    | some cls =>
      if (cls = 16 ∧ c.matKp ≠ 0) ∨ ((matFmt c.matFmtCode).isBlock = false ∧ c.matScl ≠ 0) then some fltBadCmd
      else spansFault ways (c.matGroup.getD 0) (operandSpans c)
  else none

/-- The pipe of a command: 0 load, 1 stream, 2 drain, 3 none (09 R238). -/
def Cmd.matPipe (c : Cmd) : Nat := match c.op with | 2 => 0 | 1 => 1 | 5 => 1 | 4 => 2 | _ => 3

/-- A started command that has neither completed nor stopped. -/
def MatRun.live (r : MatRun) : Bool := r.stage != 2 && r.stage != 4

/-- A started command whose rows the array has not all taken. -/
def MatRun.busy (r : MatRun) : Bool := r.stage == 0 || r.stage == 3

/-- 09 R240: the head's group is held by a running command of another pipe. -/
def matConflict (m : Mat) (c : Cmd) : Bool :=
  match c.matGroup with
  | none => false
  | some g => m.runs.any fun r => r.live && r.cmd.matGroup == some g && r.cmd.matPipe != c.matPipe

/-- A stationary bank. -/
def Mat.bank (m : Mat) (b : Nat) : MatBank := if b = 0 then m.bank0 else m.bank1

def Mat.setBank (m : Mat) (b : Nat) (v : MatBank) : Mat := if b = 0 then { m with bank0 := v } else { m with bank1 := v }

/-- Why the head does not start (04 R102, 09 R238, R239): a fault, or a wait. -/
def matHold (s : State) (core : Nat) (c : Cmd) : X Unit :=
  let m := s.mat core
  match (if pushDenied s engMat c then some fltAccess else matBad (s.core core).ways c) with
  | some code => .error (.flt code 0)
  | none =>
    if matConflict m c then .error (.flt fltBankConflict 0)
    else if c.matWen && !ctrReached (ctrOf s core c.matWctr) c.matWval then .error .wait
    else match c.op with
      | 1 =>
        if m.runs.any fun r => r.busy && r.cmd.matPipe == 1 then .error .wait
        else if (m.bank m.active).valid = false then
          (if m.runs.any fun r => r.live && r.cmd.op == 2 && r.cmd.matSet == m.active then .error .wait else .error (.flt fltBadCmd 0))
        else if matClass c.matFmtCode ≠ matClass (m.bank m.active).fmt then .error (.flt fltBadCmd 0)
        else .ok ()
      | 2 => if m.runs.any fun r => r.live && (r.cmd.op == 2 || (r.cmd.op == 1 && r.bank == c.matSet)) then .error .wait else .ok ()
      | 4 =>
        if m.runs.any fun r => r.live && (r.cmd.op == 4 || (r.cmd.op == 1 && r.cmd.matSet == c.matSet)) then .error .wait
        else match readProgram s core c with
          | .error e => .error e
          | .ok _ => .ok ()
      | 5 => if m.runs.any fun r => r.busy && r.cmd.matPipe == 1 then .error .wait else .ok ()
      | _ => .ok ()

/-! ### Registers (09 R259, R260) -/

/-- ctl.matst. Of several states that hold at once it shows STOPPED before RETRY, RETRY before WAIT and WAIT before RUN, and RUN while
a head stands that has not been checked yet (09 R259, R261; log 30). -/
def matStatus (s : State) (core : Nat) : W64 :=
  let m := s.mat core
  let st := s.estream engMat core
  let waitsOn := match st.queue.head? with
    | some c =>
      if (matBad (s.core core).ways c).isNone && !matConflict m c && c.matWen && !ctrReached (ctrOf s core c.matWctr) c.matWval
      then some c else none
    | none => none
  let code := if st.stopped then 4 else if m.runs.any fun r => r.stage == 3 then 3
    else if waitsOn.isSome then 1 else if m.runs.any MatRun.live || !st.queue.isEmpty then 2 else 0
  let (wval, wctr) := match waitsOn with
    | some c => if code = 1 then (c.matWval.toNat, c.matWctr) else (0, 0)
    | none => (0, 0)
  BitVec.ofNat 64 (wval * 2 ^ 32 + code * 2 ^ 29 + wctr * 2 ^ 24 + m.active * 2 ^ 23
    + (if (s.core core).suspect then 2 ^ 22 else 0) + (if st.stopped && st.code == fltUncorr then 2 ^ 21 else 0)
    + min st.queue.length 16 * 2 ^ 16 + (if st.stopped then st.code.toNat else 0))

/-- ctl.matcnt; its read clears RETRY and KATOK. -/
def matCount (s : State) (core : Nat) : W64 :=
  let m := s.mat core
  BitVec.ofNat 64 (m.retry * 2 ^ 56 + m.katok * 2 ^ 48 + m.sat.toNat * 2 ^ 34 + m.ovf.toNat * 2 ^ 33 + m.nv.toNat * 2 ^ 32
    + (s.estream engMat core).taken.toNat)

/-! ### Bank groups, stops -/

/-- The groups held by the commands now running (09 R240). -/
def holdGroups (s : State) (core : Nat) : State :=
  let m := s.mat core
  let held := fun (drain : Bool) => m.runs.foldl (fun (b : BitVec 8) r =>
    match r.cmd.matGroup with
    | some g => if r.live && (r.cmd.op == 4) == drain then b ||| BitVec.twoPow 8 g else b
    | none => b) 0
  s.setCore core { s.core core with heldR := held false, heldW := held true }

/-- The queue stops with a command (09 R261). A command that faults while the queue is stopped stops beside the one that
stopped it, whose code stays (log 28). -/
def matStop (s : State) (core : Nat) (c : Cmd) (code : Code) (addr : W64) : State :=
  let st := s.estream engMat core
  let s := s.setEstream engMat core { st with stopped := true, code := if st.stopped then st.code else code }
  engineFault s engMat c code (matStatus s core) addr

/-- The faulting address of R261 for an uncorrectable line: the phase index of the loader phase that covers it, else its address. -/
def uncorrAddr (s : State) (core : Nat) (line : W64) : W64 :=
  match holderOf s core line.toNat with
  | some (_, h) => h.index.zeroExtend 64
  | none => line

/-- Started commands that have completed post, in queue order, none before an earlier one has (09 R239); those started
already post past a stopped one (R261). -/
def matPosts (core : Nat) : Nat → State → State
  | 0, s => s
  | n + 1, s =>
    let m := s.mat core
    match m.runs.find? fun r => r.stage != 4 with
    | some r =>
      if r.stage = 2 then
        let s := s.setMat core { m with runs := m.runs.eraseP fun r => r.stage != 4 }
        matPosts core n (if r.cmd.matPen then postCtr s core r.cmd.matPctr r.cmd.matAmount else s)
      else s
    | none => s

/-- A started command's record changed. -/
def setRun (s : State) (core idx : Nat) (r : MatRun) : State :=
  let m := s.mat core
  s.setMat core { m with runs := updAt (fun _ => r) m.runs idx }

/-- The faulting address of a fault at an address of scratchpad (09 R261). -/
def matAddr (s : State) (core : Nat) (code : Code) (a : W64) : W64 := if code = fltUncorr then uncorrAddr s core a else 0

/-- A started command stops: it holds no group, and its bank tag stays for its RESUME (09 R243, R258, R261). -/
def matStopRun (s : State) (core idx : Nat) (r : MatRun) (code : Code) (addr : W64) : State :=
  let s' := matStop (holdGroups (setRun s core idx { r with stage := 4, asks := none, answer := none }) core) core r.cmd code addr
  matPosts core (s'.mat core).runs.length s'

/-- The head starts: it holds its group; MLOADW invalidates its bank; MSWAP is done (09 R238, R240, R242, R243). -/
def matStart (s : State) (core : Nat) (c : Cmd) : State :=
  let st := s.estream engMat core
  let m := s.mat core
  let m := if c.op = 2 then m.setBank c.matSet { m.bank c.matSet with valid := false } else m
  let m := if c.op = 3 then { m with active := 1 - m.active } else m
  let r : MatRun := { cmd := c, stage := if c.op = 3 then 2 else 0, bank := m.active, since := engClock s engMat core }
  let s := s.setEstream engMat core { st with queue := st.queue.tail }
  let s := holdGroups (s.setMat core { m with runs := m.runs ++ [r] }) core
  matPosts core (m.runs.length + 1) s

/-! ### Work -/

/-- A row's pass: its codes and the scales of its blocks (09 R236). -/
def passRow (c : Cmd) (data img : List Byte) : List Nat × List (BitVec 20) :=
  let f := matFmt c.matFmtCode
  let cls := (matClass c.matFmtCode).getD 8
  let n := passLen cls
  let v := leValue data
  let sb := leValue img
  ((List.range n).map (lane f.bits v),
    if f.isBlock then (List.range (n / 32)).map fun j => BitVec.ofNat 20 (sb >>> (20 * (c.matKp * (n / 32) + j))) else [])

/-- The element values of a pass (09 R235, 02 R43). -/
def passValues (fmt : Nat) (row : List Nat × List (BitVec 20)) : List Fl :=
  let f := matFmt fmt
  row.1.zipIdx.map fun (x, i) => if f.isBlock then decodeScaled f (row.2.getD (i / 32) 0) x else f.decode x

/-- The rows of an operand, or the first marked line (09 R258). -/
def readOperand (s : State) (core : Nat) (c : Cmd) : Except Nat (List (List Nat × List (BitVec 20))) :=
  match (operandSpans c).findSome? fun p => badLine s core p.1 p.2 with
  | some l => .error (l * 64)
  | none =>
    let cls := (matClass c.matFmtCode).getD 8
    .ok ((List.range c.matRows).map fun i =>
      passRow c (s.spad.bytes (spadSize * core + c.matBase + c.matStep * i + (if cls = 16 then 0 else 128 * c.matKp)) (passBytes cls))
        (if (matFmt c.matFmtCode).isBlock then s.spad.bytes (spadSize * core + c.matScl + 40 * i) 40 else []))

/-- An accumulator row. -/
def Mat.accRow (m : Mat) (set r : Nat) : List (BitVec 32) := Tab.get (List.replicate 128 0) m.acc (set * 128 + r)

def Mat.setAccRow (m : Mat) (set r : Nat) (v : List (BitVec 32)) : Mat := { m with acc := Tab.set m.acc (set * 128 + r) v }

/-- 09 R244: an accumulator row with one A row added: column n takes the chunks of A against weight row n (02 R54). -/
def mulRow (acc : List (BitVec 32)) (a : List Fl) (w : List (List Fl)) : List (BitVec 32) :=
  List.zipWith (fun x wn => accDot 9 x (products a wn)) acc w

/-- MMUL's work (09 R244, R258): its rows added, or its operand's marked line asked for. -/
def mmulWork (s : State) (core idx : Nat) (r : MatRun) : State :=
  let c := r.cmd
  match readOperand s core c with
  | .error line => setRun s core idx { r with stage := 3, asks := some line, answer := none, paused := engClock s engMat core }
  | .ok rows =>
    let m := s.mat core
    let b := m.bank r.bank
    let w := b.rows.map (passValues b.fmt)
    let m := rows.zipIdx.foldl (fun m p =>
      let (row, i) := p
      let acc0 := if (c.w 0).getLsbD 40 then List.replicate 128 0 else m.accRow c.matSet i
      m.setAccRow c.matSet i (mulRow acc0 (passValues c.matFmtCode row) w)) m
    setRun (s.setMat core m) core idx { r with stage := 1 }

/-- MLOADW's work (09 R242, R258). -/
def mloadwWork (s : State) (core idx : Nat) (r : MatRun) : State :=
  let c := r.cmd
  match readOperand s core c with
  | .error line => setRun s core idx { r with stage := 3, asks := some line, answer := none, paused := engClock s engMat core }
  | .ok rows =>
    let m := s.mat core
    setRun (s.setMat core (m.setBank c.matSet ⟨true, c.matFmtCode, rows⟩)) core idx { r with stage := 1 }

/-! ### The epilogue processor (09 R245-R248) -/

/-- An FP32 operation of the epilogue, 0 add, 1 multiply, 2 maximumNumber, 3 minimumNumber, with its flags. -/
def epiArith (k : Nat) (a b : BitVec 32) : BitVec 32 × FFlags :=
  let (x, f) := match k with
    | 0 => Fl.add .rne (f32 a) (f32 b)
    | 1 => Fl.mul (f32 a) (f32 b)
    | 2 => (Fl.minMax true (f32 a) (f32 b), 0)
    | _ => (Fl.minMax false (f32 a) (f32 b), 0)
  let (c, g) := toF32 .rne x
  (c, f ||| g)

/-- floor of a finite value that is not negative. -/
def Fl.floorNat : Fl → Nat
  | .fin _ m e _ => if 0 ≤ e then m * 2 ^ e.toNat else m / 2 ^ (-e).toNat
  | _ => 0

/-- The sign of an FP32 encoding turned. -/
def neg32 (x : BitVec 32) : BitVec 32 := x ^^^ 0x80000000#32

/-- 09 R247: a lane of TLU. A u that is NaN gives NaN. -/
def tluLane (tab : List (BitVec 32)) (lo inv v : BitVec 32) : BitVec 32 × FFlags :=
  if (f32 v).isNan then (0x7FC00000#32, 0)
  else
    let (d0, f0) := epiArith 0 v (neg32 lo)
    let (u, f1) := epiArith 1 d0 inv
    let x := f32 u
    let n := tab.length
    if x.isNan then (0x7FC00000#32, f0 ||| f1)
    else if !Fl.lt Fl.zero x then (tab.getD 0 0, f0 ||| f1)
    else if !Fl.lt x (Fl.ofInt (n - 1)) then (tab.getD (n - 1) 0, f0 ||| f1)
    else
      let j := x.floorNat
      let f := (Fl.add .rne x (Fl.ofInt (-(j : Int)))).1
      let (d, f2) := epiArith 0 (tab.getD (j + 1) 0) (neg32 (tab.getD j 0))
      let (m, f3) := Fl.mul f (f32 d)
      let (y, f4) := Fl.add .rne (f32 (tab.getD j 0)) m
      let (c, f5) := toF32 .rne y
      (c, f0 ||| f1 ||| f2 ||| f3 ||| f4 ||| f5)

/-- A vector of n FP32 or BF16 values at a scratchpad address, widened (09 R246, R247). -/
def readVector (s : State) (core : Nat) (bf : Bool) (a n : Nat) : X (List (BitVec 32)) :=
  let sz := if bf then 2 else 4
  match matRead s core a (n * sz) with
  | .error e => .error e
  | .ok bs => .ok ((List.range n).map fun i =>
      let v := leValue ((bs.drop (sz * i)).take sz)
      BitVec.ofNat 32 (if bf then v * 65536 else v))

/-- 09 R248: the writes of a STORE for output row i, and its flags. -/
def storeRow (c : Cmd) (i fmt rm sat : Nat) (v : List (BitVec 32)) : List (Nat × List Byte) × FFlags :=
  let f := matFmt fmt
  let mode := (Rnd.ofCode 0 rm).getD .rne
  let b := 16 * f.bits
  let at_ := c.matBase + c.matStep * i + c.matPart * b
  let xs := v.map f32
  if f.isBlock then
    let bl := (List.range 4).map fun j => encodeBlock f (fun _ => mode) ((xs.drop (32 * j)).take 32)
    let codes := packLanes f.bits (bl.map fun r => r.2.1).flatten
    let scales := packLanes 20 (bl.map fun r => r.1.toNat)
    ([(at_, leBytes codes b), (c.matScl + 40 * i + 10 * c.matPart, leBytes scales 10)], bl.foldl (fun a r => a ||| r.2.2) 0)
  else
    let st := match sat with | 0 => f.satDefault | 1 => true | _ => false
    let rs := xs.map (roundTo f mode st)
    ([(at_, leBytes (packLanes f.bits (rs.map Prod.fst)) (if f.bits = 32 then 512 else b))], rs.foldl (fun a r => a ||| r.2) 0)

/-- The epilogue's state on a row: V, T, the accumulator row, the writes and the flags. -/
structure EpiRow where
  v : List (BitVec 32)
  t : List (BitVec 32) := List.replicate 128 0
  acc : List (BitVec 32)
  out : List (Nat × List Byte) := []
  fl : FFlags := 0

/-- Two vectors combined lane by lane. -/
def epiLanes (f : BitVec 32 → BitVec 32 → BitVec 32 × FFlags) (r : EpiRow) (b : List (BitVec 32)) : EpiRow :=
  let rs := List.zipWith f r.v b
  { r with v := rs.map Prod.fst, fl := rs.foldl (fun a x => a ||| x.2) r.fl }

/-- A micro-order on row i (09 R246-R248); `vecs` are the vectors of mode 0 by address, `tab` the table. -/
def epiStep (s : State) (core : Nat) (c : Cmd) (i : Nat) (vecs : List ((Bool × Nat) × List (BitVec 32))) (tab : List (BitVec 32))
    (r : EpiRow) : Epi → X EpiRow
  | .pass => .ok r
  | .ldv 0 bf a => .ok { r with t := ((vecs.find? fun p => p.1 == (bf, a)).map Prod.snd).getD r.t }
  | .ldv 1 bf a => (readVector s core bf (a + i * (if bf then 256 else 512)) 128).map fun v => { r with t := v }
  | .ldv _ bf a => (readVector s core bf (a + i * (if bf then 2 else 4)) 1).map fun v => { r with t := List.replicate 128 (v.headD 0) }
  | .opV k => .ok (epiLanes (epiArith k) r r.t)
  | .opS k x => .ok (epiLanes (epiArith k) r (List.replicate 128 x))
  | .movtv => .ok { r with t := r.v }
  | .swptv => .ok { r with v := r.t, t := r.v }
  | .ldt _ _ => .ok r
  | .tlu lo inv => .ok (epiLanes (fun x _ => tluLane tab lo inv x) r r.v)
  | .store fmt rm sat => let (ws, fl) := storeRow c i fmt rm sat r.v; .ok { r with out := r.out ++ ws, fl := r.fl ||| fl }
  | .stacc => .ok { r with acc := r.v }

/-- A program on a row. -/
def epiRun (s : State) (core : Nat) (c : Cmd) (i : Nat) (vecs : List ((Bool × Nat) × List (BitVec 32))) (tab : List (BitVec 32)) :
    List Epi → EpiRow → X EpiRow
  | [], r => .ok r
  | e :: es, r => match epiStep s core c i vecs tab r e with
    | .error x => .error x
    | .ok r => epiRun s core c i vecs tab es r

/-- The vectors of every LDV of mode 0, and the table (09 R245). -/
def epiLoads (s : State) (core : Nat) : List Epi → X (List ((Bool × Nat) × List (BitVec 32)) × List (BitVec 32))
  | [] => .ok ([], [])
  | e :: es => match epiLoads s core es with
    | .error x => .error x
    | .ok (vs, tab) => match e with
      | .ldv 0 bf a => (readVector s core bf a 128).map fun v => (((bf, a), v) :: vs, tab)
      | .ldt n a => (readVector s core false a n).map fun v => (vs, v)
      | _ => .ok (vs, tab)

/-- MDRAIN's row i on the state: the program over the accumulator row (09 R245-R248). `bad` is one more than the row whose
accumulator or stationary state is uncorrectable, which no line holds (R258, R261). -/
def drainRow (s : State) (core bad : Nat) (c : Cmd) (es : List Epi) (vecs : List ((Bool × Nat) × List (BitVec 32)))
    (tab : List (BitVec 32)) (i : Nat) : X EpiRow :=
  let acc := (s.mat core).accRow c.matSet (c.matRow0 + i)
  if i + 1 = bad then .error (.flt fltUncorr 0)
  else match epiRun s core c i vecs tab es { v := acc, acc := acc } with
    | .error (.flt code a _) => .error (.flt code (matAddr s core code a))
    | r => r

/-- MDRAIN's rows from output row i on (09 R245): n left; a fault stops it before the row in progress (R258). -/
def drainRows (core bad : Nat) (c : Cmd) (es : List Epi) (vecs : List ((Bool × Nat) × List (BitVec 32))) (tab : List (BitVec 32)) :
    Nat → Nat → State → State × Option Exc
  | 0, _, s => (s, none)
  | n + 1, i, s =>
    match drainRow s core bad c es vecs tab i with
    | .error e => (s, some e)
    | .ok r =>
      let m := s.mat core
      let m := m.setAccRow c.matSet (c.matRow0 + i) (if c.matClr then List.replicate 128 0 else r.acc)
      let m := { m with
        nv := m.nv || r.fl.getLsbD 0
        ovf := m.ovf || r.fl.getLsbD 2
        sat := m.sat || r.fl.getLsbD 5 }
      let s := r.out.foldl (fun s p => spadPut core p.2.length s p.1 p.2) (s.setMat core m)
      drainRows core bad c es vecs tab n (i + 1) s

/-- MDRAIN's work (09 R245), with the row drainRow calls bad, 0 for none. -/
def mdrainWork (s : State) (core idx bad : Nat) (r : MatRun) : State :=
  let c := r.cmd
  let fail := fun (s : State) (e : Exc) => match e with
    | .flt code a _ => matStopRun s core idx r code a
    | .wait => s
  let load := fun (e : Exc) => match e with
    | .flt code a _ => fail s (.flt code (matAddr s core code a))
    | .wait => s
  match readProgram s core c with
  | .error e => load e
  | .ok es => match epiLoads s core es with
    | .error e => load e
    | .ok (vecs, tab) => match drainRows core bad c es vecs tab c.matRows 0 s with
      | (s, some e) => fail s e
      | (s, none) => setRun s core idx { r with stage := 1 }

/-! ### Known-answer tiles (09 R249, R250) -/

/-- One bit of CRC-32C in reflected form (09 R249). -/
def crcBit (c : BitVec 32) : BitVec 32 := if c.getLsbD 0 then (c >>> 1) ^^^ 0x82F63B78#32 else c >>> 1

/-- One byte. -/
def crcByte (c : BitVec 32) (b : Byte) : BitVec 32 :=
  crcBit (crcBit (crcBit (crcBit (crcBit (crcBit (crcBit (crcBit (c ^^^ b.zeroExtend 32))))))))

/-- CRC-32C of bytes (09 R249). -/
def crc32c (bs : List Byte) : BitVec 32 := ~~~(bs.foldl crcByte 0xFFFFFFFF#32)

/-- The 128 element values of a known-answer row (09 R249). -/
def katRow (seed : W64) (base v : Nat) : List Fl :=
  let d := (randomRow seed (BitVec.ofNat 64 base) v).toNat
  (List.range 128).map fun i => Fmt.e4m3.decode (Nat.land (lane 8 d i) 0xBF)

/-- The CRC a seed's known-answer product has (09 R249). -/
def katCrc (seed : W64) : BitVec 32 :=
  let w := (List.range 128).map (katRow seed 1)
  crc32c ((List.range 128).flatMap fun i =>
    (mulRow (List.replicate 128 0) (katRow seed 0 i) w).flatMap fun x => leBytes x.toNat 4)

/-- The compare unit of a core's cluster gives the verdict of a known-answer tile (09 R250, R255). -/
def katVerdict (s : State) (core : Nat) (ok : Bool) : State :=
  let k := s.chk (clusterOf core)
  let s := { s with chks := Tab.set s.chks (clusterOf core) { run := k.run + 1, fail := if ok then k.fail else k.fail + 1 } }
  if ok then
    let m := s.mat core
    s.setMat core { m with katok := min 255 (m.katok + 1) }
  else softLog (s.setCore core { s.core core with suspect := true }) 3 (96 * dieOf core) 0 core

/-- MKAT's work (09 R249, R250). -/
def mkatWork (s : State) (core idx : Nat) (r : MatRun) : State :=
  let ok := katCrc (r.cmd.w 2) == BitVec.ofNat 32 (bitsAt (r.cmd.w 3) 0 32)
  let s := katVerdict s core ok
  if ok then setRun s core idx { r with stage := 1 } else matStopRun s core idx r fltKat 0

/-! ### The steps -/

/-- The engine may start commands (09 R263, 17 R461, R471). -/
def matGoes (s : State) (core : Nat) : Bool := mayStart s engMat core

/-- A started MMUL stands behind an earlier MDRAIN of its set that has not read its rows (09 R238). -/
def Mat.drainsFirst (m : Mat) (idx : Nat) (r : MatRun) : Bool :=
  r.cmd.op == 1 && (m.runs.take idx).any fun q => q.cmd.op == 4 && (q.stage == 0 || q.stage == 4) && q.cmd.matSet == r.cmd.matSet

/-- A step of MAT on commands of a code (09 R238, R261): the work of one that runs, else the head's checks and its start. An
MMUL's work waits for every earlier MDRAIN of its set to have read, a stopped one to be run again or discarded (R238; log 28). A
head its checks refuse stays in the queue. -/
def matStep (core op : Nat) (s : State) (work : State → Nat → MatRun → State) : Host.Outcome State Fault Refusal :=
  let m := s.mat core
  match m.runs.findIdx? fun r => r.cmd.op == op && r.stage == 0 with
  | some idx => match m.runs[idx]? with
    | some r =>
      if m.drainsFirst idx r then .next s
      else .next (work s idx r)
    | none => .next s
  | none =>
    let st := s.estream engMat core
    match st.queue.head? with
    | none => .next s
    | some c =>
      if st.stopped || !matGoes s core then .next s
      else match matHold s core c with
        | .error .wait => .next s
        | .error (.flt code a _) =>
          .next (matStop (s.setMat core { s.mat core with headBad := true }) core c code (matAddr s core code a))
        | .ok _ => if c.op = op then .next (matStart s core c) else .next s

/-- MMUL (09 R244). -/
def execMmul (core : Nat) (s : State) : Host.Outcome State Fault Refusal := matStep core 1 s fun s i r => mmulWork s core i r

/-- MLOADW (09 R242). -/
def execMloadw (core : Nat) (s : State) : Host.Outcome State Fault Refusal := matStep core 2 s fun s i r => mloadwWork s core i r

/-- MSWAP (09 R243): done when it starts. -/
def execMswap (core : Nat) (s : State) : Host.Outcome State Fault Refusal := matStep core 3 s fun s _ _ => s

/-- What an MDRAIN's accumulator and stationary state will be found to be is used up (09 R258). -/
def takeLost (s : State) (core : Nat) : State :=
  let m := s.mat core
  if m.lost = 0 then s else s.setMat core { m with lost := 0 }

/-- MDRAIN (09 R245, R258). -/
def execMdrain (core : Nat) (s : State) : Host.Outcome State Fault Refusal :=
  matStep core 4 s fun s i r => mdrainWork (takeLost s core) core i (s.mat core).lost r

/-- MKAT (09 R249). -/
def execMkat (core : Nat) (s : State) : Host.Outcome State Fault Refusal := matStep core 5 s fun s i r => mkatWork s core i r

/-- MAT_COMPLETE (09 R238, R239): a started command completes, releases its group, and those now in turn post. -/
def execMatComplete (core idx : Nat) (s : State) : Host.Outcome State Fault Refusal :=
  match (s.mat core).runs[idx]? with
  | none => .next s
  | some r =>
    if r.stage = 1 then
      let s := holdGroups (setRun s core idx { r with stage := 2 }) core
      .next (matPosts core (s.mat core).runs.length s)
    else .next s

/-- MAT_REFILL_RESULT (09 R258): an answered command restarts from its first row, or stops with FLT_UNCORR. -/
def execMatRefillResult (core : Nat) (s : State) : Host.Outcome State Fault Refusal :=
  let m := s.mat core
  match m.runs.findIdx? fun r => r.stage == 3 && r.answer.isSome with
  | none => .next s
  | some idx => match m.runs[idx]? with
    | none => .next s
    | some r =>
      if r.answer = some true then
        let s := s.setMat core { m with retry := min 255 (m.retry + 1) }
        .next (setRun s core idx { r with stage := 0, asks := none, answer := none, since := r.since + (engClock s engMat core - r.paused) })
      else .next (matStopRun s core idx r fltUncorr (uncorrAddr s core (BitVec.ofNat 64 (r.asks.getD 0))))

/-- A running command has passed 65,536 clocks since its start, its waits for refills apart (09 R261). -/
def MatRun.late (s : State) (core : Nat) (r : MatRun) : Bool :=
  r.busy && pastBound ((if r.stage = 3 then r.paused else engClock s engMat core) - r.since) 0

/-- MAT_CMDBOUND (09 R261): a command takes too long; its effects are as after a failed refill. -/
def execMatCmdbound (core : Nat) (s : State) : Host.Outcome State Fault Refusal :=
  let m := s.mat core
  match m.runs.findIdx? (MatRun.late s core) with
  | none => .next s
  | some idx => match m.runs[idx]? with
    | none => .next s
    | some r => .next (matStopRun s core idx r fltCmdBound 0)

/-- MAT_FLUSH (09 R260): commands not started, a stopped one with them, are discarded. -/
def matFlush (s : State) (core : Nat) : State :=
  let m := s.mat core
  let s := s.setMat core { m with headBad := false, runs := m.runs.filter fun r => r.stage != 4 }
  s.setEstream engMat core { s.estream engMat core with queue := [], stopped := false, code := 0 }

/-- MAT_SKIP (09 R260): the stopped command is discarded. -/
def matSkip (s : State) (core : Nat) : State :=
  let st := s.estream engMat core
  let m := s.mat core
  if st.stopped then
    let s := s.setMat core { m with headBad := false, runs := m.runs.filter fun r => r.stage != 4 }
    s.setEstream engMat core { st with queue := if m.headBad then st.queue.tail else st.queue, stopped := false, code := 0 }
  else s

/-- MAT_RESUME (09 R260, R261): a command stopped at the head is checked again; a started one runs again whole, its wait
satisfied, its rows with the tag they had (R243). -/
def matResume (s : State) (core : Nat) : State :=
  let st := s.estream engMat core
  let m := s.mat core
  if st.stopped then
    let s := s.setMat core { m with headBad := false, runs := m.runs.map fun r => if r.stage = 4 then { r with stage := 0, since := engClock s engMat core } else r }
    holdGroups (s.setEstream engMat core { st with stopped := false, code := 0 }) core
  else s

def execMatFlush (core : Nat) (s : State) : Host.Outcome State Fault Refusal := .next (matFlush s core)
def execMatSkip (core : Nat) (s : State) : Host.Outcome State Fault Refusal := .next (matSkip s core)
def execMatResume (core : Nat) (s : State) : Host.Outcome State Fault Refusal := .next (matResume s core)

end Sys2Proof.Machine
end

