-- ==== Sys2Proof/Machine/Chk.lean ====
section
/-! DEFINITION. The compare unit (spec 09 R251-R257). -/

namespace Sys2Proof.Machine

/-- STATE and CODE of an engine's status register with TAKEN, for states numbered run and stop (09 R256, 11 R325). -/
def streamStatus (s : State) (eng src run stop : Nat) : W64 :=
  let st := s.estream eng src
  BitVec.ofNat 64 (st.taken.toNat * 2 ^ 32 + (if st.stopped then stop else if st.run.isSome then run else 0) * 2 ^ 29
    + (if st.stopped then st.code.toNat else 0))

/-- ctl.chkst (09 R256). -/
def chkStatus (core : Nat) (s : State) : W64 := streamStatus s engChk core 1 2

/-- An address in scratchpad (04 R88). -/
def inSpad (a : W64) : Bool := decide (a.toNat < spadSize)

/-- CHK's codes (09 R252). -/
def chkKnown (op : Nat) : Bool := op == 1 || op == 2 || op == 3

/-- The checks every CHK command shares (09 R252): its word count, SCOPE, NOTE and PCTR. The faulting address of a field that is no
address is 0, here and in each command's checks (R256; log 30). -/
def chkCommon (c : Cmd) (words : Nat) : Option (Code × W64) :=
  match commonFault c words with
  | some code => some (code, 0)
  | none => if c.note then some (fltBadCmd, 0) else none

/-- A range's length field: 1 to 2,097,152 (09 R253, R254). -/
def chkLenOk (w : W64) : Bool := bitsAt w 22 42 == 0 && decide (1 ≤ w.toNat) && decide (w.toNat ≤ 2097152)

/-- CCRC's checks (09 R253). -/
def ccrcCheck (c : Cmd) : Option (Code × W64) :=
  match chkCommon c 3 with
  | some f => some f
  | none =>
    if bitsAt (c.w 0) 32 14 ≠ 0 ∨ ((c.w 0).getLsbD 46 = false ∧ bitsAt (c.w 0) 0 32 ≠ 0) ∨ chkLenOk (c.w 2) = false then some (fltBadCmd, 0)
    else if inSpad (c.w 1) then some (fltAccess, c.w 1)
    else none

/-- CCRC (09 R253). -/
def ccrcWork (core : Nat) (s : State) (c : Cmd) : State :=
  ranTo s engChk core c (chkStatus core) <|
    match readRange s (whoE engChk core c.ctx) (c.w 1) (c.w 2).toNat with
    | .error e => .error e
    | .ok (s, bs) =>
      let v := crc32c bs
      let cmpx := (c.w 0).getLsbD 46
      let hit := cmpx && v == BitVec.ofNat 32 (bitsAt (c.w 0) 0 32)
      .ok (s, some [BitVec.ofNat 64 (v.toNat + hit.toNat * 2 ^ 32 + cmpx.toNat * 2 ^ 33)])

/-- The element size of CCMP's MODE (09 R254). -/
def ccmpSize (c : Cmd) : Nat := match bitsAt (c.w 0) 45 2 with | 0 => 1 | 1 => 4 | _ => 2

/-- CCMP's checks (09 R254): a misaligned address is named. -/
def ccmpCheck (c : Cmd) : Option (Code × W64) :=
  match chkCommon c 4 with
  | some f => some f
  | none =>
    let mode := bitsAt (c.w 0) 45 2
    let sz := ccmpSize c
    if mode = 3 ∨ bitsAt (c.w 0) 32 13 ≠ 0 ∨ (mode = 0 ∧ bitsAt (c.w 0) 0 32 ≠ 0) ∨ chkLenOk (c.w 3) = false ∨ (c.w 3).toNat % sz ≠ 0 then
      some (fltBadCmd, 0)
    else if (c.w 1).toNat % sz ≠ 0 then some (fltBadCmd, c.w 1)
    else if (c.w 2).toNat % sz ≠ 0 then some (fltBadCmd, c.w 2)
    else if inSpad (c.w 1) then some (fltAccess, c.w 1)
    else if inSpad (c.w 2) then some (fltAccess, c.w 2)
    else none

/-- key(x) of 09 R254, for an encoding of w bits. -/
def cmpKey (w x : Nat) : Int := if x < 2 ^ (w - 1) then x else -((x - 2 ^ (w - 1) : Nat) : Int)

/-- Two elements differ (09 R254). -/
def cmpDiffers (mode tol a b : Nat) : Bool :=
  if mode = 0 then a != b
  else
    let f := if mode = 1 then Fmt.fp32 else Fmt.bf16
    let na := (f.decode a).isNan
    let nb := (f.decode b).isNan
    if na && nb then false
    else if na || nb then true
    else decide ((tol : Int) < |cmpKey f.bits a - cmpKey f.bits b|)

/-- The elements of sz bytes of a range. -/
def elements (sz : Nat) (bs : List Byte) : List Nat := (List.range (bs.length / sz)).map fun i => leValue ((bs.drop (sz * i)).take sz)

/-- CCMP (09 R254). -/
def ccmpWork (core : Nat) (s : State) (c : Cmd) : State :=
  ranTo s engChk core c (chkStatus core) <|
    let n := (c.w 3).toNat
    match readRange s (whoE engChk core c.ctx) (c.w 1) n with
    | .error e => .error e
    | .ok (s, as) => match readRange s (whoE engChk core c.ctx) (c.w 2) n with
      | .error e => .error e
      | .ok (s, bs) =>
        let sz := ccmpSize c
        let d := (List.zipWith (cmpDiffers (bitsAt (c.w 0) 45 2) (bitsAt (c.w 0) 0 32)) (elements sz as) (elements sz bs))
        let first := match d.findIdx? id with
          | some i => BitVec.ofNat 64 i
          | none => BitVec.allOnes 64
        .ok (s, some [BitVec.ofNat 64 (d.countP id), first])

/-- CSTAT's checks (09 R255). -/
def cstatCheck (c : Cmd) : Option (Code × W64) :=
  match chkCommon c 1 with
  | some f => some f
  | none => if bitsAt (c.w 0) 0 47 ≠ 0 then some (fltBadCmd, 0) else none

/-- CSTAT (09 R255). -/
def cstatWork (core : Nat) (s : State) (c : Cmd) : State :=
  let cl := clusterOf core
  let k := s.chk cl
  let sus := (List.range 8).foldl (fun n i => n + (s.core (8 * cl + i)).suspect.toNat * 2 ^ i) 0
  workDone s engChk core c (some [BitVec.ofNat 64 (k.run.toNat + k.fail.toNat * 2 ^ 32), BitVec.ofNat 64 sus])

/-- CCRC (09 R253). -/
def execCcrc (core : Nat) (s : State) : Host.Outcome State Fault Refusal :=
  runOrStart s engChk core chkKnown (· == 1) (chkStatus core) (fun _ c => ccrcCheck c) (ccrcWork core)

/-- CCMP (09 R254). -/
def execCcmp (core : Nat) (s : State) : Host.Outcome State Fault Refusal :=
  runOrStart s engChk core chkKnown (· == 2) (chkStatus core) (fun _ c => ccmpCheck c) (ccmpWork core)

/-- CSTAT (09 R255). -/
def execCstat (core : Nat) (s : State) : Host.Outcome State Fault Refusal :=
  runOrStart s engChk core chkKnown (· == 3) (chkStatus core) (fun _ c => cstatCheck c) (cstatWork core)

/-- CHK_COMPLETE (09 R252): post and element. -/
def execChkComplete (core : Nat) (s : State) : Host.Outcome State Fault Refusal := .next (completeCmd s engChk core)

/-- Clocks for which a command holds the read path, 128 bytes a clock (09 R257). -/
def chkHold (c : Cmd) : Nat := match c.op with
  | 1 => ((c.w 2).toNat + 127) / 128
  | 2 => 2 * (((c.w 3).toNat + 127) / 128)
  | _ => 0

/-- CHK_CMDBOUND (09 R256, R257): only clocks in which the command holds the read path count, so a command within its limits never
reaches the bound. -/
def execChkCmdbound (core : Nat) (s : State) : Host.Outcome State Fault Refusal :=
  match (s.estream engChk core).run with
  | some c => .next (if (s.estream engChk core).working && decide (boundClocks ≤ chkHold c) then stopCmd s engChk core c fltCmdBound 0 (chkStatus core) else s)
  | none => .next s

/-- FLUSH, SKIP and RESUME of ctl.chkctl (09 R256). -/
def execChkFlush (core : Nat) (s : State) : Host.Outcome State Fault Refusal := .next (flushStream s engChk core)
def execChkSkip (core : Nat) (s : State) : Host.Outcome State Fault Refusal := .next (skipStream s engChk core)
def execChkResume (core : Nat) (s : State) : Host.Outcome State Fault Refusal := .next (resumeStream s engChk core)

end Sys2Proof.Machine
end

