-- ==== Sys2Proof/Machine/Att.lean ====
section
/-! DEFINITION. The attention engine (spec 11 R300-R326, with the probability path of 02 R57, R58): its pools, sequences and
block tables, which 14 R385, R386 use too. A walk reads its blocks in one act (log 30). -/

namespace Sys2Proof.Machine

/-! ### Descriptors (11 R301, R304, R305) -/

/-- ROWB(f) (11 R300). -/
def rowBytesOf (d f : Nat) : Nat := 64 * ((d * (matFmt f).bits + 511) / 512)

/-- 11 R301: the pool at an address. -/
def readPool (w : Who) (a : W64) : Eng Pool := do
  let ws := words64 (← engRead w a 64)
  let x := wordAt ws
  let ok := a.toNat % 64 == 0 && bitsAt (x 0) 0 6 == 0 && bitsAt (x 1) 0 6 == 0 && bitsAt (x 2) 53 11 == 0
    && decide (1 ≤ bitsAt (x 2) 32 4) && decide (bitsAt (x 2) 32 4 ≤ 4) && decide (1 ≤ bitsAt (x 2) 36 4) && decide (bitsAt (x 2) 36 4 ≤ 4)
    && bitsAt (x 2) 0 32 != 0 && bitsAt (x 3) 0 2 == 0 && bitsAt (x 4) 32 32 == 0 && bitsAt (x 4) 0 32 != 0
    && bitsAt (x 5) 32 32 == 0 && bitsAt (x 6) 32 32 == 0 && x 7 == 0
  Eng.check ok fltBadCmd a
  pure ⟨a, x 0, x 1, 32 * (bitsAt (x 2) 51 2 + 1), bitsAt (x 2) 47 4 + 1, bitsAt (x 2) 40 7 + 1, bitsAt (x 2) 32 4,
    bitsAt (x 2) 36 4, bitsAt (x 2) 0 32, x 3, bitsAt (x 4) 0 32⟩

/-- A row's size as key or value. -/
def Pool.rowK (p : Pool) : Nat := rowBytesOf p.d p.kfmt
def Pool.rowV (p : Pool) : Nat := rowBytesOf p.d p.vfmt

/-- The slot number of a row inside its block (11 R302). -/
def Pool.slot (p : Pool) (layer head j : Nat) : Nat := (layer * p.heads + head) * 64 + j

/-- The address of a key row (11 R302). -/
def Pool.keyAt (p : Pool) (b layer head j : Nat) : W64 :=
  p.kbase + BitVec.ofNat 64 ((b * (p.layers * p.heads * 64) + p.slot layer head j) * p.rowK)

/-- The address of a value row. -/
def Pool.valAt (p : Pool) (b layer head j : Nat) : W64 :=
  p.vbase + BitVec.ofNat 64 ((b * (p.layers * p.heads * 64) + p.slot layer head j) * p.rowV)

/-- 11 R304: the sequence at an address. -/
def readSeq (w : Who) (a : W64) : Eng SeqDesc := do
  let ws := words64 (← engRead w a 64)
  let x := wordAt ws
  let ok := a.toNat % 64 == 0 && bitsAt (x 0) 35 29 == 0 && decide (bitsAt (x 0) 32 3 ≤ 4) && bitsAt (x 3) 0 5 == 0
    && bitsAt (x 4) 32 32 == 0 && decide (1 ≤ (x 4).toNat) && decide ((x 4).toNat ≤ 65536) && x 6 == 0 && x 7 == 0
  Eng.check ok fltBadCmd a
  pure ⟨a, bitsAt (x 0) 0 32, bitsAt (x 0) 32 3, x 1, bitsAt (x 2) 32 32, bitsAt (x 2) 0 32, x 3, (x 4).toNat, x 5, ws⟩

def BlkEntry.v (e : BlkEntry) : Bool := e.w0.getLsbD 32
def BlkEntry.xfr (e : BlkEntry) : Bool := e.w0.getLsbD 33
def BlkEntry.busy (e : BlkEntry) : Bool := e.w0.getLsbD 34
def BlkEntry.pblk (e : BlkEntry) : Nat := bitsAt e.w0 0 32

/-- The address of entry i of a table. -/
def entryAt (tbl : W64) (i : Nat) : W64 := tbl + BitVec.ofNat 64 (32 * i)

/-- Entry i of a table, as it stands. -/
def readEntry (w : Who) (tbl : W64) (i : Nat) : Eng BlkEntry := do
  let a := entryAt tbl i
  let ws := words64 (← engRead w a 32)
  Eng.check (bitsAt (wordAt ws 0) 35 29 == 0) fltBadCmd a
  pure ⟨a, wordAt ws 0, wordAt ws 1, (wordAt ws 2).toNat + 2 ^ 64 * (wordAt ws 3).toNat⟩

/-- WAITARR and WAITBUSY (11 R325). -/
def waitArr : Nat := 2
def waitBusy : Nat := 3

/-- 11 R306: resolve(sd, i) from a level and descriptor on: the entry and its level. An entry being allocated is waited for,
after `note` has kept where the walk stands. -/
def resolveFrom (w : Who) (nblk i : Nat) (note : Nat → SeqDesc → Eng Unit) : Nat → Nat → SeqDesc → Eng (Option (BlkEntry × Nat))
  | 0, _, _ => pure none
  | n + 1, lev, d => do
    let own ← (if i < d.tcap then do pure (some (← readEntry w d.tbl i)) else pure none)
    match own with
    | some e =>
      if e.busy then
        note lev d
        Eng.hold waitBusy [e.addr]
      else if e.v then
        Eng.check (decide (e.pblk < nblk)) fltBadCmd e.addr
        return some (e, lev)
    | none => pure ()
    if d.parent = 0 ∨ d.forklen ≤ 64 * i then pure none
    else resolveFrom w nblk i note n (lev + 1) (← readSeq w d.parent)

/-- 11 R306, from the sequence's own table. -/
def resolveBlk (w : Who) (p : Pool) (d : SeqDesc) (i : Nat) : Eng (Option (BlkEntry × Nat)) :=
  resolveFrom w p.nblk i (fun _ _ => pure ()) 5 0 d

/-! ### Allocation (11 R303, R313) -/

/-- 11 R303: a block popped from the free ring. -/
def popBlock (w : Who) (p : Pool) : Eng Nat := do
  let tail ← engVal w (p.addr + 48) 4
  let head ← engVal w (p.addr + 40) 4
  Eng.check (head != tail) fltBlockFree p.addr
  let b ← engVal w (p.free + BitVec.ofNat 64 (4 * (head % p.fcap))) 4
  let _ ← engAtomic w (p.addr + 40) 4 10 head ((head + 1) % 2 ^ 32)
  Eng.check (decide (b < p.nblk)) fltBadCmd p.addr
  pure b

/-- The word 0 of a mapped entry. -/
def mappedWord (xfr : Bool) (b : Nat) : Nat := 2 ^ 32 + xfr.toNat * 2 ^ 33 + b

/-- 11 R313: own entry i of a table, claimed and given a block when it maps nothing. -/
def allocate (w : Who) (p : Pool) (tbl : W64) (i : Nat) : Eng BlkEntry := do
  let a := entryAt tbl i
  let old ← engAtomic w a 8 10 0 (2 ^ 34)
  if old = 0 then
    let back := fun (s : State) => match writeVal s w a 8 0 with | .ok s => s | .error _ => s
    let b ← Eng.cleanup (popBlock w p) back
    engWrite w (a + 8) (leBytes (2 ^ 64 - 1) 8 ++ leBytes 0 16)
    engPut w a 8 (mappedWord false b)
    readEntry w tbl i
  else if old.testBit 32 then
    let e ← readEntry w tbl i
    Eng.check (decide (e.pblk < p.nblk)) fltBadCmd a
    pure e
  else Eng.hold waitBusy [a]

/-- 11 R311: own entry i of a table, allocated by R313 when its V is 0. -/
def ownEntry (w : Who) (p : Pool) (tbl : W64) (i : Nat) : Eng BlkEntry := do
  let e ← readEntry w tbl i
  if e.v then
    Eng.check (decide (e.pblk < p.nblk)) fltBadCmd e.addr
    pure e
  else if e.busy then Eng.hold waitBusy [e.addr]
  else allocate w p tbl i

/-! ### Running commands -/

namespace State

def att (s : State) (core : Nat) : AttRun := Tab.get {} s.atts core

def setAtt (s : State) (core : Nat) (r : AttRun) : State := { s with atts := Tab.set s.atts core r }

end State

/-- The running command of a core notes how far it has come. -/
def keepAtt (core : Nat) (f : AttRun → AttRun) : Eng Unit := Eng.change fun s => s.setAtt core (f (s.att core))

/-- The running command of a core as it stands. -/
def attNow (core : Nat) : Eng AttRun := fun s => (.ok (s.att core), s)

/-- A command begins: `first` reads its descriptors, once; its waits do not bring it here again. -/
def attBegin (core : Nat) (first : Eng AttRun) : Eng AttRun := do
  let s ← Eng.now
  if (s.estream engAtt core).data.isEmpty then
    let r ← first
    Eng.change fun s => s.setAtt core r
    carry engAtt core 0 1
    pure r
  else pure (s.att core)

/-- The resolution of block i for a running command, from where it waits. -/
def attResolve (w : Who) (core i : Nat) : Eng (Option (BlkEntry × Nat)) := do
  let r ← attNow core
  let (lev, d) := r.here.getD (0, r.sd)
  resolveFrom w r.pool.nblk i (fun lev d => keepAtt core fun r => { r with here := some (lev, d) }) (5 - lev) lev d

/-! ### Registers and checks (11 R308, R325) -/

/-- ctl.attst. -/
def attStatus (core : Nat) (s : State) : W64 :=
  let st := s.estream engAtt core
  let state := if st.stopped then 4 else if st.wait ≠ 0 then st.wait else if st.run.isSome then 1 else 0
  BitVec.ofNat 64 (st.taken.toNat * 2 ^ 32 + state * 2 ^ 29 + (if state = 2 then bitsAt (carried s engAtt core 9) 0 7 * 2 ^ 16 else 0)
    + (if st.stopped then st.code.toNat else 0))

/-- ctl.attwait. -/
def attWait (core : Nat) (s : State) : W64 :=
  let st := s.estream engAtt core
  if st.wait ≠ 0 ∧ st.stopped = false then carried s engAtt core 8 &&& ~~~31 else 0

def attKnown (op : Nat) : Bool := decide (1 ≤ op) && decide (op ≤ 6)

/-- The master of a core's ATT stream. -/
def attWho (core : Nat) (c : Cmd) : Who := whoE engAtt core c.ctx

/-- The checks every ATT command shares, then its own; addresses of the fields that hold some must lie outside scratchpad. -/
def attCheck (words : Nat) (own : Cmd → Option (Code × W64)) (addrs : Cmd → List W64) (c : Cmd) : Option (Code × W64) :=
  match commonFault c words with
  | some code => some (code, 0)
  | none => match own c with
    | some f => some f
    | none => match (addrs c).find? inSpad with
      | some a => some (fltAccess, a)
      | none => none

/-- FLT_BADCMD at an address unless a condition holds. -/
def need (b : Bool) (a : W64 := 0) : Option (Code × W64) := if b then none else some (fltBadCmd, a)

/-- The first fault of a list of checks. -/
def firstOf (l : List (Option (Code × W64))) : Option (Code × W64) := l.findSome? id

def aligned (n : Nat) (a : W64) : Option (Code × W64) := need (a.toNat % n == 0) a

/-! ### ASTEP (11 R310-R316) -/

def Cmd.app (c : Cmd) : Bool := (c.w 0).getLsbD 46
def Cmd.ntok (c : Cmd) : Nat := bitsAt (c.w 0) 42 4 + 1
def Cmd.nhead (c : Cmd) : Nat := bitsAt (c.w 0) 38 4 + 1
def Cmd.omode (c : Cmd) : Nat := bitsAt (c.w 0) 25 2
def Cmd.cin (c : Cmd) : Bool := (c.w 0).getLsbD 24

/-- ASTEP's checks (11 R308, R310). -/
def astepCheck : Cmd → Option (Code × W64) :=
  attCheck 8 (fun c => firstOf [
    need (c.app || c.ntok == 1), need (c.omode != 3), need (!(c.cin && c.app)), need (bitsAt (c.w 0) 0 24 == 0),
    need (decide (c.ntok * c.nhead ≤ 128)), aligned 64 (c.w 1), aligned 64 (c.w 2), aligned 64 (c.w 3),
    if c.app then firstOf [aligned 64 (c.w 4), aligned 64 (c.w 5)] else need (c.w 4 == 0 && c.w 5 == 0)])
    (fun c => [c.w 1, c.w 2, c.w 3] ++ if c.app then [c.w 4, c.w 5] else [])

/-- A finite value times 2^k. -/
def Fl.scaleBy (k : Int) : Fl → Fl
  | .fin n m e st => .fin n m (e + k) st
  | x => x

/-- 2^x, x exact (02 R57). -/
def pow2 (x : Fl) : Fl := (Fl.exp2 x).1

/-- p of a key whose t is d above m (02 R57): its value; 0 below the cutoff. -/
def probOf (d : Fl) : Fl :=
  if Fl.lt d (Fl.ofInt (-17)) then Fl.zero
  else Fmt.e4m3.decode (roundFloat .e4m3 .rne false ((pow2 d).scaleBy 8)).1

/-- 02 R57, R58: a chunk of keys with their values; `none` for a key that is masked or beyond the length. A NaN row's l and o
stay as they were before the chunk, which no final mode shows; an OMODE 2 row shows them, and the sign of a maximum that +0 and -0
both reach, which is that of the first such key (log 30). -/
def probChunk (q : List Fl) (scale : BitVec 32) (keys : List (Option (List Fl × List Fl))) (r : ProbRow) : ProbRow :=
  if (f32 r.m).isNan then r
  else
    let t := keys.map fun k => k.map fun kv => (fmul32 (fmul32 (dot32 q kv.1) scale) 0x3FB8AA3B#32, kv.2)
    let live := t.filterMap id
    if live.any fun x => (f32 x.1).isNan || x.1 == 0x7F800000#32 then { r with m := 0x7FC00000#32 }
    else
      let mc := live.foldl (fun a x => if Fl.lt (f32 a) (f32 x.1) then x.1 else a) 0xFF800000#32
      let r :=
        if Fl.lt (f32 r.m) (f32 mc) then
          if r.m = 0xFF800000#32 then { r with m := mc }
          else
            let f := rne32 (pow2 (Fl.add .rne (f32 r.m) (f32 mc).neg).1)
            { m := mc, l := fmul32 r.l f, o := r.o.map fun x => fmul32 x f }
        else r
      let ps := t.map fun k => match k with
        | none => (Fl.zero, [])
        | some x => (if x.1 = 0xFF800000#32 then Fl.zero else probOf (Fl.add .rne (f32 x.1) (f32 r.m).neg).1, x.2)
      let l := ps.foldl (fun a p => fadd32 a (rne32 p.1)) r.l
      let used := ps.filter fun p => !p.1.isZero
      let o := r.o.zipIdx.map fun (x, d) => fadd32 x (rne32 (exactSum (used.map fun p => (Fl.mul p.1 (p.2.getD d Fl.zero)).1)))
      { r with l := l, o := o }

/-- The element values of a row in memory (11 R300): the D first. -/
def rowVals (fmt d : Nat) (bs : List Byte) : List Fl :=
  let f := matFmt fmt
  let v := leValue bs
  (List.range d).map fun i => f.decode (lane f.bits v i)

/-- The new rows of an appending ASTEP from token t on, k left (11 R311). -/
def appendRows (w : Who) (core : Nat) (c : Cmd) (sd : SeqDesc) (p : Pool) (layer head : Nat) : Nat → Nat → Eng Unit
  | 0, _ => pure ()
  | k + 1, t => do
    let pos := sd.len + t
    let e ← ownEntry w p sd.tbl (pos / 64)
    let kr ← engRead w (c.w 4 + BitVec.ofNat 64 (t * p.rowK)) p.rowK
    let vr ← engRead w (c.w 5 + BitVec.ofNat 64 (t * p.rowV)) p.rowV
    engWrite w (p.keyAt e.pblk layer head (pos % 64)) kr
    engWrite w (p.valAt e.pblk layer head (pos % 64)) vr
    keepAtt core fun r => { r with tok := t + 1 }
    appendRows w core c sd p layer head k (t + 1)

/-- The key and value rows of a block (11 R311). -/
def readBlock (w : Who) (p : Pool) (b layer head : Nat) : Eng (List (List Fl × List Fl)) := do
  let ks ← engRead w (p.keyAt b layer head 0) (64 * p.rowK)
  let vs ← engRead w (p.valAt b layer head 0) (64 * p.rowV)
  pure ((List.range 64).map fun j =>
    (rowVals p.kfmt p.d ((ks.drop (j * p.rowK)).take p.rowK), rowVals p.vfmt p.d ((vs.drop (j * p.rowV)).take p.rowV)))

/-- A row of the walk: its query, length and lower bound. -/
structure WalkRow where
  q : List Fl
  len : Nat
  lo : Nat

/-- A row over a block's two chunks (11 R311). -/
def WalkRow.block (scale : BitVec 32) (i : Nat) (vmask : W64) (kv : List (List Fl × List Fl)) (r : WalkRow) (st : ProbRow) : ProbRow :=
  let keys := kv.zipIdx.map fun (x, j) =>
    if vmask.getLsbD j && decide (r.lo ≤ 64 * i + j) && decide (64 * i + j < r.len) then some x else none
  probChunk r.q scale (keys.drop 32) (probChunk r.q scale (keys.take 32) st)

/-- Block i resolved, its layer arrived: an entry awaited is not resolved again (11 R311, R314). A walk that a BTTRIM has cut
meets no fault (R323). -/
def walkEntry (w : Who) (core layer i : Nat) : Eng (Option (BlkEntry × Nat)) := do
  let r ← attNow core
  match r.found with
  | some x => pure (some x)
  | none =>
    let x ← (fun s => match attResolve w core i s with
      | (.error (.flt code a), s') => if r.cut then (.ok none, s') else (.error (.flt code a), s')
      | y => y : Eng (Option (BlkEntry × Nat)))
    match x with
    | none => if r.cut then pure none else Eng.fail fltLength r.sd.addr
    | some (e, l) =>
      if e.xfr && !e.arrive.testBit layer then
        keepAtt core fun r => { r with found := some (e, l) }
        Eng.hold waitArr [e.addr, BitVec.ofNat 64 layer, BitVec.ofNat 64 layer, BitVec.ofNat 64 layer]
      else pure (some (e, l))

/-- The walk over n blocks from i up (11 R311). -/
def walkBlocks (w : Who) (core : Nat) (p : Pool) (layer head : Nat) (scale : BitVec 32) (rows : List WalkRow) : Nat → Nat → Eng Unit
  | 0, _ => pure ()
  | n + 1, i => do
    if rows.all fun r => decide (64 * i + 63 < r.lo) then pure ()
    else match ← walkEntry w core layer i with
      | none => pure ()
      | some (e, l) =>
        let cut := (← attNow core).cut
        let kv ← (if cut then pure [] else readBlock w p e.pblk layer head)
        keepAtt core fun r => { r with
          rows := List.zipWith (WalkRow.block scale i e.vmask kv) rows r.rows, blks := r.blks + 1, lev := max r.lev l }
    keepAtt core fun r => { r with blk := i + 1, here := none, found := none }
    walkBlocks w core p layer head scale rows n (i + 1)

/-- A carry row's state (11 R312). -/
def carryRow (d : Nat) (bs : List Byte) : ProbRow :=
  let at_ := fun (i : Nat) => BitVec.ofNat 32 (leValue ((bs.drop i).take 4))
  ⟨at_ 0, at_ 4, (List.range d).map fun k => at_ (64 + 4 * k)⟩

/-- A row's output bytes, and whether it is empty or NaN (11 R311, R312, 02 R57, R58). -/
def outRow (omode : Nat) (osc : BitVec 32) (r : ProbRow) : List Byte × Bool × Bool :=
  if omode = 2 then (leBytes r.m.toNat 4 ++ leBytes r.l.toNat 4 ++ leBytes 0 56 ++ r.o.flatMap fun x => leBytes x.toNat 4, false, false)
  else
    let nan := (f32 r.m).isNan
    let empty := !nan && (f32 r.l).isZero
    let f := if omode = 0 then Fmt.fp32 else .bf16
    let code := fun (x : BitVec 32) =>
      if empty then 0
      else
        let out := if nan then 0x7FC00000#32 else fdiv32 (fdiv32 x 0x43800000#32) r.l
        (roundFloat f .rne false (Fl.mul (f32 out) (f32 osc)).1).1
    (r.o.flatMap fun x => leBytes (code x) (f.bits / 8), empty, nan)

/-- The bits of a map of rows, from bit lo. -/
def mapBits (bs : List Bool) (lo : Nat) : W64 :=
  BitVec.ofNat 64 ((List.range 64).foldl (fun n i => n + (bs.getD (lo + i) false).toNat * 2 ^ i) 0)

def Cmd.kvHead (c : Cmd) : Nat := bitsAt (c.w 0) 34 4
def Cmd.kvLayer (c : Cmd) : Nat := bitsAt (c.w 0) 27 7

/-- ASTEP reads and checks its sequence and pool, once (11 R311). -/
def astepFirst (core : Nat) (c : Cmd) : Eng AttRun := do
  let w := attWho core c
  let sd ← readSeq w (c.w 1)
  let p ← readPool w sd.pool
  Eng.check (decide (c.kvHead < p.heads) && decide (c.kvLayer < p.layers)) fltBadCmd 0
  Eng.check (!c.app || decide (sd.len + c.ntok ≤ 64 * sd.tcap)) fltLength sd.addr
  pure { sd := sd, pool := p, blk := bitsAt (c.w 7) 32 16 }

/-- The query rows of an ASTEP with a length snapshot (11 R311). -/
def astepRows (c : Cmd) (p : Pool) (l0 : Nat) (qs : List Byte) : List WalkRow :=
  let win := bitsAt (c.w 7) 0 32
  (List.range (c.ntok * c.nhead)).map fun r =>
    let len := if c.app then l0 + r / c.nhead + 1 else l0
    { q := rowVals p.kfmt p.d ((qs.drop (r * p.rowK)).take p.rowK)
      len := len
      lo := if win ≠ 0 ∧ win < len then len - win else 0 : WalkRow }

/-- The block index an ASTEP stops before (11 R311). -/
def astepStop (c : Cmd) (l0 : Nat) : Nat :=
  let hi := ((if c.app then l0 + c.ntok else l0) + 63) / 64
  let cnt := bitsAt (c.w 7) 48 16
  if cnt = 0 then hi else min hi (bitsAt (c.w 7) 32 16 + cnt)

/-- An output row's size, OB (11 R310). -/
def astepOut (c : Cmd) (p : Pool) : Nat := match c.omode with | 0 => 4 * p.d | 1 => 2 * p.d | _ => 64 + 4 * p.d

/-- The query and carry rows read, once: the query rows' bytes (11 R311). -/
def astepLoad (core : Nat) (c : Cmd) (p : Pool) : Eng (List Byte) := do
  let r ← attNow core
  match r.qs with
  | some qs => pure qs
  | none =>
    let w := attWho core c
    let n := c.ntok * c.nhead
    let qs ← engRead w (c.w 2) (n * p.rowK)
    let ins ← (if c.cin then engRead w (c.w 3) (n * (64 + 4 * p.d)) else pure [])
    let st := (List.range n).map fun r =>
      if c.cin then carryRow p.d (ins.drop (r * (64 + 4 * p.d))) else { o := List.replicate p.d 0 }
    keepAtt core fun r => { r with qs := some qs, rows := st }
    pure qs

/-- ASTEP's element (11 R316): its rows' reports `em` and `na`. -/
def astepElem (r : AttRun) (n : Nat) (em na : List Bool) : List W64 :=
  [BitVec.ofNat 64 (n + em.countP id * 2 ^ 8 + na.countP id * 2 ^ 16 + r.blks % 2 ^ 24 * 2 ^ 24 + r.lev * 2 ^ 48),
    mapBits em 0, mapBits em 64, mapBits na 0, mapBits na 64]

/-- Flags that nothing fixes, from a free value. -/
def freeFlags (n k : Nat) : List Bool := (List.range k).map fun i => (Config.freeWord (n + i / 64)).getLsbD (i % 64)

/-- The output rows of a walk that a BTTRIM has cut, and what it reports of them, are undefined (11 R323, log 2). -/
def astepCut (core : Nat) (c : Cmd) (p : Pool) : Eng (Option (List W64)) := do
  let r ← attNow core
  let n := c.ntok * c.nhead
  let bs ← (fun s => let (s, bs) := freeBytes s (n * astepOut c p); (.ok bs, s) : Eng (List Byte))
  engWrite (attWho core c) (c.w 3) bs
  let k := (← Eng.now).freeCtr
  Eng.change fun s => { s with freeCtr := k + 4 }
  pure (noted c (astepElem r n (freeFlags k n) (freeFlags (k + 2) n)))

/-- ASTEP (11 R311, R316). -/
def astepEng (core : Nat) (c : Cmd) : Eng (Option (List W64)) := do
  let w := attWho core c
  let r ← attBegin core (astepFirst core c)
  let p := r.pool
  if c.app then appendRows w core c r.sd p c.kvLayer c.kvHead (c.ntok - r.tok) r.tok
  let qs ← astepLoad core c p
  walkBlocks w core p c.kvLayer c.kvHead (BitVec.ofNat 32 (bitsAt (c.w 6) 0 32)) (astepRows c p r.sd.len qs)
    (astepStop c r.sd.len - r.blk) r.blk
  let r ← attNow core
  if r.cut then astepCut core c p
  else
    let outs := r.rows.map fun st => outRow c.omode (BitVec.ofNat 32 (bitsAt (c.w 6) 32 32)) st
    engWrite w (c.w 3) (outs.flatMap fun o => (o.1 ++ List.replicate (astepOut c p - o.1.length) 0))
    pure (noted c (astepElem r (c.ntok * c.nhead) (outs.map fun o => o.2.1) (outs.map fun o => o.2.2)))

/-! ### Block table commands (11 R317-R321) -/

/-- BTPOST's checks. -/
def btpostCheck : Cmd → Option (Code × W64) :=
  attCheck 4 (fun c => firstOf [need (bitsAt (c.w 0) 16 29 == 0), aligned 64 (c.w 1), need (bitsAt (c.w 2) 32 32 == 0)]) fun c => [c.w 1]

/-- 11 R317: an entry posted under a claim, with what follows the post. -/
def postEntry (w : Who) (tbl : W64) (i : Nat) (word0 : Nat) (vmask : W64) (andThen : Eng Unit) : Eng Unit := do
  let a := entryAt tbl i
  let old ← engAtomic w a 8 10 0 (2 ^ 34)
  Eng.check (old == 0) fltBadCmd a
  let back := fun (s : State) => match writeVal s w a 8 0 with | .ok s => s | .error _ => s
  Eng.cleanup (do
    engWrite w (a + 8) (leBytes vmask.toNat 8 ++ leBytes 0 16)
    engPut w a 8 word0
    andThen) back

/-- BTPOST (11 R317). -/
def btpostEng (core : Nat) (c : Cmd) : Eng (Option (List W64)) := do
  let w := attWho core c
  let sd ← readSeq w (c.w 1)
  let p ← readPool w sd.pool
  let i := bitsAt (c.w 0) 0 16
  let adv := (c.w 0).getLsbD 45
  Eng.check (decide (i < sd.tcap) && decide ((c.w 2).toNat < p.nblk)) fltBadCmd 0
  Eng.check (!adv || sd.len == 64 * i) fltLength sd.addr
  postEntry w sd.tbl i (mappedWord ((c.w 0).getLsbD 46) (c.w 2).toNat) (c.w 3)
    (if adv then do let _ ← engAtomic w (c.w 1) 4 10 sd.len (sd.len + 64) else pure ())
  pure (noted c [BitVec.ofNat 64 (if adv then sd.len + 64 else sd.len)])

/-- BTFORK's checks. -/
def btforkCheck : Cmd → Option (Code × W64) :=
  attCheck 4 (fun c => firstOf [need (bitsAt (c.w 0) 16 31 == 0), aligned 64 (c.w 1), aligned 64 (c.w 2), aligned 32 (c.w 3)])
    fun c => [c.w 1, c.w 2, c.w 3]

/-- The rows of a block's slots below n copied to another block, every layer and head (11 R318). -/
def copySlots (w : Who) (p : Pool) (src dst n : Nat) : Nat → Eng Unit
  | 0 => pure ()
  | k + 1 => do
    copySlots w p src dst n k
    let kr ← engRead w (p.keyAt src (k / p.heads) (k % p.heads) 0) (n * p.rowK)
    engWrite w (p.keyAt dst (k / p.heads) (k % p.heads) 0) kr
    let vr ← engRead w (p.valAt src (k / p.heads) (k % p.heads) 0) (n * p.rowV)
    engWrite w (p.valAt dst (k / p.heads) (k % p.heads) 0) vr

/-- The first layer of a range that has not arrived. -/
def missingLayer (arrive layers : Nat) : Option Nat := (List.range layers).find? fun l => !arrive.testBit l

/-- BTFORK's own block of the child (11 R318): the parent's partial last block, once every layer of it has arrived, copied. The
pool is read here, where the rule first needs it. -/
def forkBlock (core : Nat) (c : Cmd) (pd : SeqDesc) : Eng Unit := do
  let w := attWho core c
  let r ← attNow core
  let p ← (if r.here.isNone && r.found.isNone then readPool w pd.pool else pure r.pool)
  keepAtt core fun r => { r with pool := p }
  let f := pd.len
  let e ← (match r.found with
    | some x => pure x.1
    | none => do match ← attResolve w core (f / 64) with
      | none => Eng.fail fltLength pd.addr
      | some (e, l) =>
        keepAtt core fun r => { r with found := some (e, l) }
        match (if e.xfr then missingLayer e.arrive p.layers else none) with
        | some l => Eng.hold waitArr [e.addr, BitVec.ofNat 64 l, 0, BitVec.ofNat 64 (p.layers - 1)]
        | none => pure e)
  let own ← allocate w p (c.w 3) (f / 64)
  copySlots w p e.pblk own.pblk (f % 64) (p.layers * p.heads)
  engPut w (own.addr + 8) 8 e.vmask.toNat
  if own.xfr then engPut w own.addr 8 (mappedWord false own.pblk)

/-- BTFORK (11 R318). -/
def btforkEng (core : Nat) (c : Cmd) : Eng (Option (List W64)) := do
  let w := attWho core c
  let tcap := bitsAt (c.w 0) 0 16 + 1
  let r ← attBegin core (do
    let pd ← readSeq w (c.w 1)
    Eng.check (pd.depth != 4) fltForkDepth pd.addr
    Eng.check (decide (pd.len ≤ 64 * tcap)) fltLength pd.addr
    pure { sd := pd })
  let pd := r.sd
  let f := pd.len
  if f % 64 ≠ 0 then forkBlock core c pd
  let d := leBytes (f + (pd.depth + 1) * 2 ^ 32) 8 ++ leBytes (c.w 1).toNat 8 ++ leBytes f 8 ++ leBytes (c.w 3).toNat 8
    ++ leBytes tcap 8 ++ leBytes pd.pool.toNat 8 ++ leBytes 0 16
  engWrite w (c.w 2) d
  let _ ← engAtomic w (c.w 1 + 20) 4 0 1 0
  pure (noted c [BitVec.ofNat 64 f])

/-- BTCOMMIT's checks. -/
def btcommitCheck : Cmd → Option (Code × W64) :=
  attCheck 2 (fun c => firstOf [need (bitsAt (c.w 0) 4 43 == 0), aligned 64 (c.w 1)]) fun c => [c.w 1]

/-- BTCOMMIT (11 R319). -/
def btcommitEng (core : Nat) (c : Cmd) : Eng (Option (List W64)) := do
  let w := attWho core c
  let sd ← readSeq w (c.w 1)
  let n := sd.len + bitsAt (c.w 0) 0 4 + 1
  Eng.check (decide (n ≤ 64 * sd.tcap)) fltLength sd.addr
  let _ ← engAtomic w (c.w 1) 4 10 sd.len n
  pure (noted c [BitVec.ofNat 64 n])

/-- BTTRIM's checks. -/
def bttrimCheck : Cmd → Option (Code × W64) :=
  attCheck 3 (fun c => firstOf [need (bitsAt (c.w 0) 32 14 == 0), need (!(c.w 0).getLsbD 46 || bitsAt (c.w 0) 0 32 == 0),
    aligned 64 (c.w 1), aligned 4 (c.w 2)]) fun c => [c.w 1] ++ if c.w 2 = 0 then [] else [c.w 2]

/-- A running ASTEP has yet to read the block of an entry, as the tables stand (11 R311, R323). -/
def readsEntry (s : State) (w : Who) (c : Cmd) (r : AttRun) (entry : W64) : Bool :=
  let rows := astepRows c r.pool r.sd.len []
  (List.range (astepStop c r.sd.len - r.blk)).any fun k =>
    let i := r.blk + k
    !(rows.all fun x => decide (64 * i + 63 < x.lo)) &&
    match (if k = 0 then r.found else none) with
    | some x => x.1.addr == entry
    | none => match resolveBlk w r.pool r.sd i s with
      | (.ok (some (e, _)), _) => e.addr == entry
      | _ => false

/-- 11 R323: the running ASTEPs of a context that have yet to read the block of an entry that a BTTRIM frees. -/
def cutRuns (w : Who) (ctx : Nat) (entry : W64) (s : State) : State :=
  { s with atts := s.atts.map fun kv =>
    let st := s.estream engAtt kv.1
    match st.run with
    | some c =>
      if c.op == 1 && !st.stopped && !st.done && !st.data.isEmpty && c.ctx == ctx && readsEntry s w c kv.2 entry then
        (kv.1, { kv.2 with cut := true })
      else kv
    | none => kv }

/-- The mapped entries from i on, n of them, listed and zeroed (11 R320): the count. -/
def trimEntries (w : Who) (tbl list : W64) : Nat → Nat → Nat → Eng Nat
  | 0, _, k => pure k
  | n + 1, i, k => do
    let e ← readEntry w tbl i
    if e.v then
      Eng.change (cutRuns w w.ctx e.addr)
      if list ≠ 0 then engPut w (list + BitVec.ofNat 64 (4 * k)) 4 e.pblk
      engWrite w (e.addr + 8) (leBytes 0 24)
      engPut w e.addr 8 0
      trimEntries w tbl list n (i + 1) (k + 1)
    else trimEntries w tbl list n (i + 1) k

/-- BTTRIM (11 R320, R323). -/
def bttrimEng (core : Nat) (c : Cmd) : Eng (Option (List W64)) := do
  let w := attWho core c
  let sd ← readSeq w (c.w 1)
  let rel := (c.w 0).getLsbD 46
  let new := bitsAt (c.w 0) 0 32
  Eng.check (sd.children == 0) fltLength sd.addr
  Eng.check (rel || (decide (new ≤ sd.len) && decide (sd.forklen ≤ new))) fltLength sd.addr
  let lo := if rel then 0 else (new + 63) / 64
  let hi := if rel then sd.tcap else min sd.tcap ((sd.len + 63) / 64 + 1)
  let k ← trimEntries w sd.tbl (c.w 2) (hi - lo) lo 0
  if rel then
    engPut w (c.w 1) 8 (sd.depth * 2 ^ 32 + 2 ^ 35)
    if sd.parent ≠ 0 then
      let _ ← engAtomic w (sd.parent + 20) 4 0 (2 ^ 32 - 1) 0
  else
    let _ ← engAtomic w (c.w 1) 4 9 new 0
  pure (noted c [BitVec.ofNat 64 (k + (if rel then 0 else new) * 2 ^ 32)])

/-- BTSTAT's checks. -/
def btstatCheck : Cmd → Option (Code × W64) :=
  attCheck 2 (fun c => firstOf [need (!c.note && bitsAt (c.w 0) 16 31 == 0), aligned 64 (c.w 1)]) fun c => [c.w 1]

/-- BTSTAT (11 R321). -/
def btstatEng (core : Nat) (c : Cmd) : Eng (Option (List W64)) := do
  let w := attWho core c
  let r ← attBegin core (do
    let sd ← readSeq w (c.w 1)
    let p ← readPool w sd.pool
    pure { sd := sd, pool := p })
  let sd := r.sd
  match ← attResolve w core (bitsAt (c.w 0) 0 16) with
  | none => pure (some [0, 0, wordAt sd.words 0, wordAt sd.words 2])
  | some (e, lev) => pure (some [setBits e.w0 61 3 lev, e.vmask, wordAt sd.words 0, wordAt sd.words 2])

/-! ### The steps -/

/-- A step of ATT on commands of a code. -/
def attStep (core op : Nat) (s : State) (check : Cmd → Option (Code × W64)) (m : Nat → Cmd → Eng (Option (List W64))) :
    Host.Outcome State Fault Refusal :=
  runOrStart s engAtt core attKnown (· == op) (attStatus core) (fun _ c => check c)
    fun s c => runEng s engAtt core c (attStatus core) (m core c)

/-- ASTEP (11 R310-R316). -/
def execAstep (core : Nat) (s : State) : Host.Outcome State Fault Refusal := attStep core 1 s astepCheck astepEng
/-- BTPOST (11 R317). -/
def execBtpost (core : Nat) (s : State) : Host.Outcome State Fault Refusal := attStep core 2 s btpostCheck btpostEng
/-- BTFORK (11 R318). -/
def execBtfork (core : Nat) (s : State) : Host.Outcome State Fault Refusal := attStep core 3 s btforkCheck btforkEng
/-- BTCOMMIT (11 R319). -/
def execBtcommit (core : Nat) (s : State) : Host.Outcome State Fault Refusal := attStep core 4 s btcommitCheck btcommitEng
/-- BTTRIM (11 R320). -/
def execBttrim (core : Nat) (s : State) : Host.Outcome State Fault Refusal := attStep core 5 s bttrimCheck bttrimEng
/-- BTSTAT (11 R321). -/
def execBtstat (core : Nat) (s : State) : Host.Outcome State Fault Refusal := attStep core 6 s btstatCheck btstatEng

/-- The entry a stream waits for is read: the wait ends when `ends` holds; a read that faults stops the command (11 R324, 16
R451). -/
def pollEntry (s : State) (eng src : Nat) (c : Cmd) (w : Who) (status : State → W64) (ends : BlkEntry → Bool) : State :=
  match readEntry w (carried s eng src 8) 0 s with
  | (.ok e, s) => if ends e then endWait s eng src else s
  | (.error (.flt code a), s) => stopCmd s eng src c code a status
  | (.error (.wait _ _), s) => s

/-- ARRIVE_WAIT_END (11 R314, R318): the layers awaited have arrived, or a BTTRIM has freed the block of an ASTEP (R323). -/
def execArriveWaitEnd (core : Nat) (s : State) : Host.Outcome State Fault Refusal :=
  let st := s.estream engAtt core
  match st.run with
  | none => .next s
  | some c =>
    if st.wait ≠ waitArr ∨ st.stopped = true then .next s
    else if c.op = 1 ∧ (s.att core).cut = true then .next (endWait s engAtt core)
    else
      let lo := (carried s engAtt core 10).toNat
      let hi := (carried s engAtt core 11).toNat
      .next (pollEntry s engAtt core c (attWho core c) (attStatus core) fun e =>
        (List.range (hi + 1 - lo)).all fun k => e.arrive.testBit (lo + k))

/-- BUSY_WAIT_END (11 R306, R313): the word 0 awaited has changed. -/
def execBusyWaitEnd (core : Nat) (s : State) : Host.Outcome State Fault Refusal :=
  let st := s.estream engAtt core
  match st.run with
  | none => .next s
  | some c =>
    if st.wait ≠ waitBusy ∨ st.stopped = true then .next s
    else .next (pollEntry s engAtt core c (attWho core c) (attStatus core) fun e => !e.busy)

/-- ATT_COMPLETE (11 R309). -/
def execAttComplete (core : Nat) (s : State) : Host.Outcome State Fault Refusal := .next (completeCmd s engAtt core)
/-- ATT_CMDBOUND (11 R324). -/
def execAttCmdbound (core : Nat) (s : State) : Host.Outcome State Fault Refusal := .next (boundCmd s engAtt core (attStatus core))
/-- FLUSH, SKIP and RESUME of ctl.attctl (11 R325). -/
def execAttFlush (core : Nat) (s : State) : Host.Outcome State Fault Refusal := .next (flushStream s engAtt core)
def execAttSkip (core : Nat) (s : State) : Host.Outcome State Fault Refusal := .next (skipStream s engAtt core)
def execAttResume (core : Nat) (s : State) : Host.Outcome State Fault Refusal := .next (resumeStream s engAtt core)

end Sys2Proof.Machine
end

