-- ==== Sys2Proof/Machine/Execute.lean ====
section
/-! DEFINITION. The execute processor (spec 06 R158-R189): queue instructions, time, barriers, waiting on a word, ending a
thread, traps and their return. MFC and MTC stand in Machine/Control.lean. -/

namespace Sys2Proof.Machine

/-- The E-stream moves to its next group, a clock after its issue. -/
def nextE (s : State) : State := s.setCurT ((s.curT.tick .e).advance .e)

/-- Every tile result of the current thread has landed (03 R70: what MFC, MTC, TRAP, ERET and HALT wait for). -/
def landedE (s : State) : State := s.setCurT (landAll s.curT)

/-! ### Queue instructions (06 R163-R166) -/

/-- The head row of an operand queue removed. -/
def dropQ (t : Thread) (q : BitVec 3) : Thread :=
  { t with queues := { t.queues with q := t.queues.q.set q.toNat (t.queues.q[q.toNat]'q.isLt).tail q.isLt } }

/-- The trap of an uncorrectable head row is taken now, and the row leaves its queue (08 R214): nothing holds the trap back. -/
def takesBadRow (s : State) : Bool := mayIssue s && s.curT.out.isNone && !trapWaits s s.cur.core s.cur.slot

/-- The row field of the repetition to issue lies in 0-127 (03 R72). -/
def inSteps (t : Thread) (w : BitVec 7) : Bool :=
  match t.egrp.rep with
  | none => true
  | some r => (stepField w t.repIndex r.sd).isSome && (stepField 0 t.repIndex r.sa).isSome && (stepField 0 t.repIndex r.sb).isSome

/-- MOVQ to a tile row (06 R163): an uncorrectable row is removed as its fault is taken (08 R214), after the range check of a
repetition (03 R72). -/
def execMovqRow (q : BitVec 3) (w : BitVec 7) (s : State) : Host.Outcome State Fault Refusal :=
  match (s.curT.queues.q[q.toNat]'q.isLt).head? with
  | some r =>
    if r.bad then
      let s := if takesBadRow s && inSteps s.curT w then s.setCurT (dropQ s.curT q) else s
      repeated s 0 w 0 0 fun _ _ _ _ _ _ => .error (.flt fltUncorr 0)
    else
      repeated s 0 w 0 0 fun w _ _ _ t s =>
        tileIssue (s.setCurT (dropQ t q)) [] 4 fun t => .ok ⟨[(t.phys w, r.row.data, some r.row.sb)], 0⟩
  | none => repeated s 0 w 0 0 fun _ _ _ _ _ _ => .error .wait

/-- MOVQ to a scalar register (06 R163): bytes 7-0 of the row, ready 2 clocks after issue. -/
def execMovqScalar (q : BitVec 3) (d : BitVec 5) (s : State) : Host.Outcome State Fault Refusal :=
  match (s.curT.queues.q[q.toNat]'q.isLt).head? with
  | some r =>
    if r.bad then
      let s := if takesBadRow s then s.setCurT (dropQ s.curT q) else s
      runWord s fun _ => .error (.flt fltUncorr 0)
    else runWord s fun t => .ok (nextE (s.setCurT (((dropQ t q).wr .e d (r.row.data.extractLsb' 0 64)).slow .e d 2 true)))
  | none => runWord s fun _ => .error .wait

/-- Entries sq holds: 16, or 4 in a handler (05 R120, 06 R183). -/
def sqDepth (t : Thread) : Nat := if t.inh then 4 else 16

/-- An entry placed in sq: it goes to the oldest STA that waits for one; the place of an STA that a handler discarded takes
it (05 R125, 06 R186). -/
def placeSq (t : Thread) (e : SqEnt) : Thread :=
  if 0 < t.sqSkip && !t.inh then { t with sqSkip := t.sqSkip - 1 }
  else match giveSq t.saq e with
    | some q => { t with saq := q }
    | none => { t with queues := { t.queues with sq := t.queues.sq ++ [e] } }

/-- PUTS (06 R164): waits while sq is full. -/
def puts (s : State) (e : Thread → SqEnt) : Host.Outcome State Fault Refusal :=
  runWord s fun t =>
    if sqDepth t ≤ t.queues.sq.length then .error .wait
    else
      let t := atIssue t []
      .ok (nextE (s.setCurT (placeSq t (e t))))

/-- PUTS of e[a] (06 R164). -/
def execPutsScalar (a : BitVec 5) (s : State) : Host.Outcome State Fault Refusal :=
  puts s fun t => ⟨false, (t.rd .e a).zeroExtend 2048⟩

/-- PUTS of a tile row, read at issue (06 R164). -/
def execPutsRow (w : BitVec 7) (s : State) : Host.Outcome State Fault Refusal :=
  puts s fun t => ⟨true, t.data w⟩

/-- BRQ and BRQN (06 R165). -/
def branchQueue (s : State) (neg : Bool) (disp : BitVec 18) : Host.Outcome State Fault Refusal :=
  runWord s fun t => match t.queues.bq with
    | [] => .error .wait
    | b :: rest =>
      let t := { t with queues := { t.queues with bq := rest } }.tick .e
      .ok (s.setCurT (if b != neg then t.goto .e (t.here .e + (disp.signExtend 64 <<< 2)) else t.advance .e))

/-- BRQ (06 R165). -/
def execBrq (d : BitVec 18) (s : State) : Host.Outcome State Fault Refusal := branchQueue s false d

/-- BRQN (06 R165). -/
def execBrqn (d : BitVec 18) (s : State) : Host.Outcome State Fault Refusal := branchQueue s true d

/-- FQP (06 R166): waits while fq is full: 8 entries, 4 in a handler. -/
def execFqp (a : BitVec 5) (s : State) : Host.Outcome State Fault Refusal :=
  runWord s fun t =>
    if (if t.inh then 4 else 8) ≤ t.queues.fq.length then .error .wait
    else .ok (nextE (s.setCurT { t with queues := { t.queues with fq := t.queues.fq ++ [t.rd .e a] } }))

/-- TIME (06 R171): successive values of a thread never fall; ready 12 clocks after issue. -/
def execTime (d : BitVec 5) (s : State) : Host.Outcome State Fault Refusal :=
  runWord s fun t =>
    let v := if s.time.toNat < t.lastTime.toNat then t.lastTime else s.time
    .ok (nextE (s.setCurT (({ t with lastTime := v }.wr .e d v).slow .e d 12 true)))

/-! ### Releases and barriers (06 R162, R172-R176) -/

/-- A release by the E-stream: the operations the A-stream has issued are performed first, those of the first attempt's
clock (06 R162). -/
def releaseE (s : State) (body : State → X State) : X State :=
  let t := s.curT
  let n := t.ecut.getD t.saq.length
  if n = 0 ∧ t.atomsOut = 0 ∧ t.out = none then body (s.setCurT { t with ecut := none })
  else if t.ecut = none then .ok (s.setCurT { t with ecut := some n })
  else .error .wait

/-- A word of the E-stream that takes a pending weak-store fault first (04 R101); an access of the A-stream that has left the
package completes before the trap. -/
def guardedE (s : State) (body : Thread → X State) : Host.Outcome State Fault Refusal :=
  if !mayIssue s then .fault .noThread
  else match weakGuard s s.cur.core s.cur.slot true with
    | .trap s' => .next (if s.curT.out.isSome then waiting s else s')
    | .wait => .next (waiting s)
    | .pass => runWord s body

/-- The thread has no arrival at an instance's level, or one of a past arrangement (06 R175). -/
def heldAt (t : Thread) (level : Nat) : Option Arrival :=
  match t.arrival with
  | some a => if a.level = level then some a else none
  | none => none

/-- 06 R175: an arrival registered; an episode it completes is passed at once. -/
def arrive (s : State) (level : Nat) : State :=
  let t := s.curT
  let key := barKey t.ctx level s.cur.core
  let b := barInst s key
  let b' := { b with arrivals := b.arrivals + 1 }.settle
  let s := setBar s key b'
  if b'.episode ≠ b.episode then nextE (s.setCurT { t with arrival := none })
  else s.setCurT { t with arrival := some { level := level, episode := b.episode, losses := b.lost.length } }

/-- BARRIER (06 R175); at thread level it completes at once. -/
def execBarrier (sx : BitVec 4) (s : State) : Host.Outcome State Fault Refusal :=
  let level := sx.toNat
  if !levelValid level then runWord s fun _ => .error (.flt (if level ≤ 10 then fltIllegal else fltBadScope) 0)
  else if s.curT.inh || !s.curT.domset.getLsbD level then runWord s fun _ => .error (.flt fltIllegal 0)
  else guardedE s fun t =>
    if level = 0 then .ok (nextE s)
    else match heldAt t level with
      | some a =>
        let b := barInst s (barKey t.ctx level s.cur.core)
        if b.hasLost a then
          if t.out.isSome || trapWaits s s.cur.core s.cur.slot then .error .wait
          else .ok (raise (s.setCurT { t with arrival := none }) fltRemote 0)
        else if b.episode ≠ a.episode then
          .ok (nextE (s.setCurT { t with arrival := none }))
        else .error .wait
      | none => releaseE s fun s => .ok (arrive s level)

/-! ### Waiting on a word (06 R177) -/

/-- The word WAKEWAIT watches, read after its checks: a host or remote page raises FLT_ACCESS, whether or not the package can be
reached. -/
def watchWord (s : State) (core ctx : Nat) (addr : W64) : X (State × W64) :=
  let a := addr.toNat
  if a % 8 = 0 ∧ spadSize ≤ a ∧ a < 2 ^ 57 ∧ a / 2 ^ 51 ≠ s.pkg.toNat then .error (.flt fltAccess addr)
  else match resolve s (whoA core ctx) addr 8 .read with
  | .error e => .error e
  | .ok (s, ls) =>
    if (outside ls).isSome then .error (.flt fltAccess addr s)
    else match readAll s 0 ls with
      | .error e => .error e
      | .ok (s, bs) => .ok (s, BitVec.ofNat 64 (leValue bs))

/-- WAKEWAIT (06 R177). -/
def execWakewait (a : BitVec 5) (s : State) : Host.Outcome State Fault Refusal :=
  runWord s fun t =>
    if a = 31 then .error (.flt fltIllegal 0)
    else if t.asleep.isSome then .error .wait
    else match watchWord s s.cur.core t.ctx (t.rd .e a) with
      | .error e => .error e
      | .ok (s, v) =>
        let seen := t.rd .e (a + 1)
        if v ≠ seen then .ok (nextE (s.setCurT (s.curT.wr .e (a + 1) v)))
        else .ok (s.setCurT { s.curT with asleep := some (t.rd .e a, seen) })

/-- WAKEWAIT_WAKE (06 R177): a sleeper whose word has changed, or can no longer be read, wakes and reissues. -/
def execWakewaitWake (core slot : Nat) (s : State) : Host.Outcome State Fault Refusal :=
  let t := s.thread core slot
  match t.asleep with
  | none => .next s
  | some (addr, seen) =>
    let wake := s.setThread core slot { t with asleep := none }
    match watchWord s core t.ctx addr with
    | .error .wait => .next s
    | .error (.flt _ _ _) => .next wake
    | .ok (s', v) =>
      if v = seen then .next s' else .next (s'.setThread core slot { s'.thread core slot with asleep := none })

/-! ### Ending a thread (06 R178, R179) -/

/-- The result elements of a slot's task discarded (06 R179). -/
def dropElems (s : State) (core slot : Nat) (keep : Elem → Bool) : State :=
  { s with results := s.results.map fun kv =>
      if kv.1 / 16 = core then (kv.1, kv.2.filter fun e => e.slot != slot || keep e) else kv }

/-- Entries of stores whose sq data can never arrive are discarded (05 R123). -/
def dropUnfed (q : List SaOp) : List SaOp :=
  q.filter fun o => !o.unfed

/-- 06 R178: the thread has ended: it leaves every level and its queues are empty; TASK_RETIRE retires its task. -/
def endThread (s : State) (core slot : Nat) : State :=
  let s := dropElems (leaveLevels s core slot) core slot (fun _ => false)
  let t := s.thread core slot
  s.setThread core slot { t with halted := true, halting := false, queues := {}, ldqRow := 0, ldqAt := [], ecut := none }

/-- HALT (06 R178): in a handler it ends the thread in failure with the code of the trap being handled (06 R189; log 26). Faults that
the thread still holds are delivered first, at the boundary where it waits (06 R181). -/
def execHalt (s : State) : Host.Outcome State Fault Refusal :=
  if s.curT.inh then
    runWord s fun t => match failFor s s.cur.core s.cur.slot { code := t.code, stream := 1, async := false, pc := t.epc } with
      | some s' => .ok s'
      | none => .error .wait
  else guardedE s fun _ =>
    let s := landedE s
    let t := s.curT
    let t := { t with halting := true, saq := dropUnfed t.saq }
    if t.out.isSome then .ok (s.setCurT t)
    else
      let s := settle (s.setCurT t) s.cur.core s.cur.slot
      let t := s.curT
      if t.saq.isEmpty && t.atomsOut == 0 && t.pends.isEmpty then .ok (endThread s s.cur.core s.cur.slot) else .ok s

/-! ### Traps (06 R180-R189) -/

/-- TRAP (06 R188): precise, at the TRAP's group; the E-stream resumes at the next one. -/
def execTrap (im : BitVec 12) (s : State) : Host.Outcome State Fault Refusal :=
  runWord s fun t =>
    if t.out.isSome then .error .wait
    else
      let c : Cause := { code := im.zeroExtend 16, stream := 1, async := false, pc := t.epc }
      .ok (takeTrap s s.cur.core s.cur.slot c t.apc (t.here .e + 4))

/-- ERET (06 R188). -/
def execEret (s : State) : Host.Outcome State Fault Refusal :=
  runWord s fun t =>
    if !t.inh then .error (.flt fltPriv 0)
    else if t.saq.any SaOp.isStore || t.out.isSome then .error .wait
    else
      let s := dropElems s s.cur.core s.cur.slot fun e => !e.hand
      .ok (s.setCurT (returnFromTrap ((landAll t).tick .e)))

/-- The cause that an engine's fault makes for its thread (06 R180). -/
def Pend.cause (p : Pend) (t : Thread) : Cause :=
  { code := p.code, stream := 2, async := true, pc := t.epc, eng := p.eng, index := p.index, status := p.status, addr := p.addr }

/-- TRAP_ENTRY (06 R181, R182): a held imprecise fault is taken at a boundary, weak-store faults first and of those the oldest
store's (04 R101), then engine faults in their order; none while a handler runs, but the fault of a command that it pushed fails
the thread. -/
def execTrapEntry (core slot : Nat) (s : State) : Host.Outcome State Fault Refusal :=
  let t := s.thread core slot
  if t.inh then match t.pends.find? Pend.hand with
    | some p => .next (if t.live && !t.cancelled && t.failed.isNone && s.coreOn core then (failFor s core slot (p.cause t)).getD s else s)
    | none => .next s
  else if !t.live || t.halted || t.cancelled || t.failed.isSome || t.out.isSome || !s.coreOn core
    || trapWaits s core slot then .next s
  else match t.pends.find? Pend.weak with
    | some p =>
      let u := s.setThread core slot { t with pends := t.pends.filter fun q => !q.weak }
      match guardOf s core t 0 t.saq with
      | .fault c a pc => .next (takeWeak u core slot c a pc)
      | .wait => .next s
      | .clear => .next (takeWeak u core slot p.code p.addr p.pc)
    | none => match t.pends with
      | [] => .next s
      | p :: rest =>
        let s := s.setThread core slot { t with pends := rest }
        .next (takeTrap s core slot (p.cause t) t.apc t.epc)

end Sys2Proof.Machine
end

