-- ==== Sys2Proof/Machine/Qmg.lean ====
section
/-! DEFINITION. The queue managers (spec 10 R264-R299): task records, grids, lattice masks, the frame counter, placement,
dispatch, retirement, cancellation and the command streams. -/

namespace Sys2Proof.Machine

/-! ### Task records (10 R264, R265) -/

/-- Word i of a record. -/
def recWord (r : List W64) (i : Nat) : W64 := r.getD i 0

def recKind (r : List W64) : Nat := bitsAt (recWord r 0) 54 4
def recTimed (r : List W64) : Bool := (recWord r 0).getLsbD 53
def recSteal (r : List W64) : Bool := (recWord r 0).getLsbD 52
def recDie (r : List W64) : Nat := bitsAt (recWord r 0) 51 1
def recPrio (r : List W64) : Nat := bitsAt (recWord r 0) 49 2
def recScope (r : List W64) : Nat := bitsAt (recWord r 0) 45 4
def recGrid (r : List W64) : Nat := bitsAt (recWord r 0) 39 6
def recX (r : List W64) : Nat := bitsAt (recWord r 0) 31 8
def recY (r : List W64) : Nat := bitsAt (recWord r 0) 23 8
def recSlot (r : List W64) : Nat := bitsAt (recWord r 0) 15 8
def recTag (r : List W64) : Nat := bitsAt (recWord r 0) 0 15
def recCset (r : List W64) : Nat := bitsAt (recWord r 1) 48 16
def recPin (r : List W64) : Bool := (recWord r 1).getLsbD 47
def recPcore (r : List W64) : Nat := bitsAt (recWord r 1) 44 3
def recNode (r : List W64) : Nat := bitsAt (recWord r 1) 32 12
def recCsub (r : List W64) : Nat := bitsAt (recWord r 1) 28 4
def recBudget (r : List W64) : Nat := bitsAt (recWord r 1) 12 16
def recPhase (r : List W64) : Nat := bitsAt (recWord r 1) 8 4

/-- Bits set among the 16 of a cluster set. -/
def clusterCount (cset : Nat) : Nat := (List.range 16).countP fun c => cset.testBit c

/-- 10 R266, first row to fifth: the checks of a record's own fields, in the table's order. -/
def recordFault (r : List W64) : Option Code :=
  let tile := recKind r == 0
  let nonTileBad := recTimed r || recSteal r || recCset r != 0 || recPin r || recPcore r != 0
    || recWord r 5 != 0 || recWord r 6 != 0 || recWord r 7 != 0
  if 6 < recKind r ∨ (!tile && nonTileBad) = true ∨ (recSteal r && recPin r) = true then some fltBadCmd
  else if tile = true ∧ (recCset r = 0 ∨ (recPin r = true ∧ clusterCount (recCset r) ≠ 1) ∨ (recPin r = false ∧ recPcore r ≠ 0)) then
    some fltBadCmd
  else if recNode r = 0xFFF ∧ recCsub r ≠ 0 then some fltBadCmd
  else if recTimed r = true ∧ (recBudget r = 0 ∨ recPrio r ≠ 0) then some fltBadCmd
  else if recTimed r = false ∧ (recBudget r ≠ 0 ∨ recWord r 2 ≠ 0) then some fltBadCmd
  else if (recWord r 3).toNat % 64 ≠ 0 ∨ (tile = true ∧ (recWord r 4).toNat % 64 ≠ 0) ∨ (tile = false ∧ 7 < (recWord r 4).toNat)
      ∨ bitsAt (recWord r 1) 0 8 ≠ 0 ∨ (tile = true ∧ (bitsAt (recWord r 7) 10 54 ≠ 0 ∨ bitsAt (recWord r 7) 6 3 ≠ 0
        ∨ (recWord r 7).getLsbD 1 = true)) then some fltBadCmd
  else if 10 < recScope r then some fltBadScope
  else none

/-- A context's lattice mask in a slot; slot 0 is the empty mask (10 R270). -/
def latticeMask (q : Qmg) (ctx slot : Nat) : Option (List (Int × Int)) :=
  if slot = 0 then some [] else Tab.find q.lattice (ctx * 256 + slot)

/-- 10 R266, last row: the grid, the tile and the lattice slot; `anyTile` skips the tile's check (a template's, 10 R292). -/
def placeFault (q : Qmg) (ctx : Nat) (r : List W64) (anyTile : Bool) : Option Code :=
  match Tab.find q.grids (recGrid r) with
  | none => some fltBadCmd
  | some g =>
    if g.ctx ≠ ctx then some fltAccess
    else if g.dead = true ∨ (anyTile = false ∧ (g.w ≤ recX r ∨ g.h ≤ recY r)) then some fltBadCmd
    else if (latticeMask q ctx (recSlot r)).isNone then some fltBadCmd
    else none

/-- Every check of R266 in its order. -/
def publishFault (q : Qmg) (ctx : Nat) (r : List W64) (anyTile : Bool) : Option Code :=
  match recordFault r with
  | some c => some c
  | none => placeFault q ctx r anyTile

/-! ### Scoreboard and readiness (10 R268-R271) -/

/-- A tile of a grid is set. -/
def tileSet (g : QGrid) (x y : Nat) : Bool := (Tab.get 0 g.rows y).testBit x

/-- 10 R271: every offset of the mask names a set tile or one outside the grid. -/
def maskHolds (q : Qmg) (t : Task) : Bool :=
  match Tab.find q.grids (recGrid t.words) with
  | none => false
  | some g => t.mask.all fun (dx, dy) =>
    let x : Int := recX t.words + dx
    let y : Int := recY t.words + dy
    x < 0 || y < 0 || (g.w : Int) ≤ x || (g.h : Int) ≤ y || tileSet g x.toNat y.toNat

/-- 10 R298: a PENDING task whose mask holds moves on. -/
def evaluate (q : Qmg) (now : Nat) (t : Task) : Task :=
  if t.state = 0 ∧ maskHolds q t = true then { t with state := if recTimed t.words then 1 else 2, readyAt := now } else t

/-- The tasks of a grid evaluated afresh (10 R271). -/
def evaluateGrid (s : State) (die grid : Nat) : State :=
  let q := s.qmg die
  s.setQmg die { q with
    tasks := q.tasks.map fun kv => if recGrid kv.2.words = grid then (kv.1, evaluate q s.now kv.2) else kv }

/-- The lowest free entry number of a table. -/
def lowestFree {α : Type} : Tab α → Nat → Nat → Nat
  | _, 0, i => i
  | t, n + 1, i => match Tab.find t i with
    | none => i
    | some _ => lowestFree t n (i + 1)

/-- Queue entries of a die (10 R266). -/
def qmgEntries : Nat := 65536

/-- 10 R291: a checked record is accepted: its mask copied, its backing copy written, its task evaluated. -/
def accept (s : State) (die ctx : Nat) (r : List W64) : State :=
  let q := s.qmg die
  let n := lowestFree q.tasks q.tasks.length 0
  let t : Task := { words := r, ctx := ctx, mask := (latticeMask q ctx (recSlot r)).getD [], seq := q.seq }
  let s := s.setQmg die { q with tasks := Tab.set q.tasks n (evaluate q s.now t), seq := q.seq + 1 }
  if q.qback = 0 then s else devWrite s (q.qback + 64 * n) (r.flatMap fun w => leBytes w.toNat 8)

/-- What becomes of a record that reaches a queue manager. -/
inductive Pub where
  | accepted (s : State)
  | full
  | fault (c : Code)

/-- A record checked and accepted, or left waiting for an entry (10 R266, R289). -/
def publish (s : State) (die ctx : Nat) (r : List W64) : Pub :=
  match publishFault (s.qmg die) ctx r false with
  | some c => .fault c
  | none => if qmgEntries ≤ (s.qmg die).tasks.length then .full else .accepted (accept s die ctx r)

/-! ### Cancellation (10 R285, R296) -/

/-- A task leaves its core's local queue. -/
def leaveLocal (s : State) (t : Task) (entry : Nat) : State :=
  if t.state = 3 then s.setCore t.core { s.core t.core with queue := (s.core t.core).queue.filter (· != entry) } else s

/-- A dispatched command not yet started is in a stream's queue. -/
def queuedFor (die entry : Nat) (c : Cmd) : Bool := c.task == some (die, entry)

/-- A fault code as a log entry holds it: a TRAP's is none (00 R14). -/
def loggedCode (c : Code) : Code := if c < 0x1000 then 0 else c

/-- A CANCELLED or FAILED entry (10 R287). -/
def taskLog (s : State) (die kind : Nat) (t : Task) (code : Code) : State :=
  qmgLog s die kind (recGrid t.words) (recX t.words) (recY t.words) (loggedCode code) (if recKind t.words = 0 then t.core else 0xFFFF) s.time

/-- A slot's thread runs the task that an entry holds: the record it carries is that task's (17 R457). -/
def runsEntry (th : Thread) (die entry : Nat) (t : Task) : Bool :=
  th.task == (die, entry) && th.record.all fun r => r.seq == t.seq && r.words == t.words

/-- 10 R296: a live task is ended: removed when it is not dispatched; else stopped, its entry freed at its stop. The stores a
thread had issued, those its trap set aside with them, are performed. -/
def cancelTask (s : State) (die entry : Nat) : State :=
  match taskOf s die entry with
  | none => s
  | some t =>
    if t.state ≠ 4 then freeTask (leaveLocal s t entry) die entry
    else if recKind t.words = 0 ∧ runsEntry (s.thread t.core t.slot) die entry t = false then
      -- its thread lies in an image (17 R460)
      let outs := s.outs.map fun o => if o.core == t.core && o.task == (die, entry) then { o with dead := true } else o
      freeTask (taskLog { s with outs := outs } die 3 t 0) die entry
    else if recKind t.words = 0 then
      let th := s.thread t.core t.slot
      let th' : Thread :=
        { th with
          cancelled := true, agrp := {}, egrp := {}, asleep := none, out := none
          saq := dropUnfed (th.setAside ++ th.saq), setAside := [] }
      setTask (s.setThread t.core t.slot th') die entry { t with cancelled := true }
    else if s.streams.any fun kv => kv.2.queue.any (queuedFor die entry) then
      let s := { s with streams := s.streams.map fun kv =>
        (kv.1, { kv.2 with queue := kv.2.queue.filter fun c => !queuedFor die entry c }) }
      freeTask (taskLog s die 3 t 0) die entry
    else setTask s die entry { t with cancelled := true }

/-- The numbers of a die's live tasks that match. -/
def matching (s : State) (die : Nat) (p : Task → Bool) : List Nat :=
  ((s.qmg die).tasks.filter fun kv => p kv.2 && !kv.2.cancelled).map Prod.fst

/-- Tasks ended, in entry order. -/
def cancelAll (s : State) (die : Nat) (es : List Nat) : State := es.foldl (fun s e => cancelTask s die e) s

/-- 10 R285: a grid is killed. -/
def killGrid (s : State) (die grid : Nat) (code : Code) : State :=
  match Tab.find (s.qmg die).grids grid with
  | none => s
  | some g =>
    let s := cancelAll s die (matching s die fun t => recGrid t.words == grid)
    let s := qmgLog s die 4 grid 0 0 code 0xFFFF s.time
    let q := s.qmg die
    s.setQmg die { q with grids := Tab.set q.grids grid { g with dead := true } }

/-! ### Retirement (10 R272, R273, R278) -/

/-- QMG's master for a context (04 R102). -/
def whoQ (ctx : Nat) : Who := whoE engQmg 0 ctx

/-- 10 R272: the journal bit by an atomic OR on the row's byte, then the scoreboard bit; the OR's fault otherwise. -/
def setTile (s : State) (die grid x y : Nat) : State × Option Code :=
  match Tab.find (s.qmg die).grids grid with
  | none => (s, none)
  | some g =>
    match engineAtomic s (whoQ g.ctx) (g.journal + BitVec.ofNat 64 (32 * y + x / 8)) 1 7 (2 ^ (x % 8)) 0 with
    | .error (.flt c _ seen) => (seen.getD s, some c)
    | .error .wait => (s, none)
    | .ok (s, _) =>
      let q := s.qmg die
      (s.setQmg die { q with
        grids := Tab.set q.grids grid { g with rows := Tab.set g.rows y (Tab.get 0 g.rows y ||| 2 ^ x) } }, none)

/-- A node or its word lies in a poisoned line: no PUSH delivered what meets it, so it is reported (06 R180, 15 R406; log 46). -/
def nodeFault (s : State) (die : Nat) : State := qmgLog s die 5 engQmg 0 0 fltUncorr 0xFFFF 0

/-- 10 R278: one node's decrement and, when it leaves 0, its action, for a task of a grid. -/
def decrementNode (s : State) (die grid node : Nat) : State :=
  let a := (s.qmg die).qnode + 16 * node
  match portAtomic s a 4 0 0xFFFFFFFF 0 with
  | (s, none) => nodeFault s die
  | (s, some old) =>
    let s := if old = 1 then devTouch s a 16 false else s
    if old ≠ 1 then s
    else if devPoisoned s a 16 then nodeFault s die
    else
      let arg := s.dev.readLE (a + 8) 8
      match s.dev.readLE (a + 7) 1 with
      | 1 => qmgLog s die 1 grid 0 0 0 0xFFFF (BitVec.ofNat 64 node)
      | 2 => { s with msix := arg % 2048 :: s.msix }
      | 3 => match portAtomic s arg 8 0 1 0 with
        | (s, some _) => s
        | (s, none) => nodeFault s die
      | _ => s

/-- 10 R278: the ancestors k + 1 levels up for the set bits k of CSUB, nearest first; `n` levels are left. -/
def decrementUp (s : State) (die grid csub : Nat) : Nat → Nat → State
  | 0, _ => s
  | n + 1, node =>
    let a := (s.qmg die).qnode + 16 * node + 4
    let s := devTouch s a 2 false
    if devPoisoned s a 2 then nodeFault s die
    else
      let parent := s.dev.readLE a 2
      if parent = 0xFFFF then s
      else
        let s := if csub.testBit (3 - n) then decrementNode s die grid parent else s
        decrementUp s die grid csub n parent

/-- 10 R278: the decrements of a retirement; none while no node table is set up. -/
def decrements (s : State) (die : Nat) (t : Task) : State :=
  if recNode t.words = 0xFFF ∨ (s.qmg die).qnode = 0 then s
  else
    let grid := recGrid t.words
    decrementUp (decrementNode s die grid (recNode t.words)) die grid (recCsub t.words) 4 (recNode t.words)

/-- 10 R273: the tile, the decrements, the entry's freeing, the grid's evaluation; an OR that faults kills the grid. -/
def retireTask (s : State) (die entry : Nat) (t : Task) : State :=
  let grid := recGrid t.words
  match setTile s die grid (recX t.words) (recY t.words) with
  | (s, some c) => killGrid (freeTask s die entry) die grid c
  | (s, none) => evaluateGrid (freeTask (decrements s die t) die entry) die grid

/-- The slots of a cluster whose cores are not masked. -/
def clusterSlots (s : State) (cl : Nat) : List Thread :=
  ((List.range 8).filter fun i => !s.masks.cores.getLsbD (8 * cl + i)).flatMap fun i =>
    (List.range 16).map fun k => s.thread (8 * cl + i) k

/-- 10 R281: a cluster's placement counters brought up to the present: each slot's clocks since then are BUSY of its task's phase,
or IDLE of the phase of the task most recently dispatched on the cluster. -/
def chargePlace (s : State) (cl : Nat) : State :=
  let die := cl / 16
  let c := cl % 16
  let q := s.qmg die
  let n := (s.now - Tab.get 0 q.placeAt c) * clockRate s cl
  let slots := clusterSlots s cl
  let idle := n * slots.countP fun t => !t.live
  let charge := fun (tb : Tab (Nat × Nat)) ph =>
    let v := Tab.get (0, 0) tb (16 * c + ph)
    Tab.set tb (16 * c + ph)
      (v.1 + n * slots.countP (fun t => t.live && t.phase == ph), if Tab.get 0 q.lastPhase c = ph then v.2 + idle else v.2)
  s.setQmg die { q with place := (List.range 16).foldl charge q.place, placeAt := Tab.set q.placeAt c s.now }

/-- An island set to a point; a cluster's placement counters run at its rate until then (10 R281, 01 R34). -/
def setPoint (s : State) (isl p : Nat) : State := setIsland (if isl < 32 then chargePlace s isl else s) isl p

/-- A counter of the placement table as STATUS reads it: 48 bits that saturate (10 R281). -/
def placeCount (tenths : Nat) : W64 := BitVec.ofNat 64 (min (tenths / 10) 0xFFFFFFFFFFFF)

/-- A slot whose thread has ended is free. -/
def freeSlot (s : State) (core slot : Nat) : State := (chargePlace s (clusterOf core)).setThread core slot {}

/-- Engine faults that a thread holds when its task ends, untaken, are reported as those of a retired thread (06 R180, 10 R287). -/
def reportPends (s : State) (core slot : Nat) : State :=
  (s.thread core slot).pends.foldl (fun s p =>
    if p.weak then s else qmgLog s (dieOf core) 5 p.eng 0 0 p.code core (BitVec.ofNat 64 p.index)) s

/-- The retirement of a dispatched engine task waits as a release at a durable scope does (04 R109, R117). -/
def engineTaskHeld (s : State) (die entry : Nat) (t : Task) : Bool :=
  recScope t.words == 7 && (declaring s (512 + die) entry t.ctx || tailOpen s (512 + die) entry 0)

/-- A thread whose entry is gone, as when its image is resumed after a restart or a second time, has ended and may retire by the record
it carries (17 R457, R475; log 33). -/
def strayEnded (s : State) (core slot : Nat) : Bool :=
  let th := s.thread core slot
  th.live && th.record.isSome
    && (match taskOf s th.task.1 th.task.2 with
      | some t => t.state != 4 || t.core != core || t.slot != slot || !runsEntry th th.task.1 th.task.2 t
      | none => true)
    && (th.failed.isSome || th.cancelled
      || (th.halted && !releaseHeld s core slot (match th.record with | some r => recScope r.words | none => 0)))

/-- Its slot is freed, and its tile set and its decrements made where its grid still stands. -/
def retireStray (s : State) (core slot : Nat) : State :=
  let th := s.thread core slot
  let s := reportPends s core slot
  match th.record with
  | none => s
  | some r =>
    let die := th.task.1
    match th.failed with
    | some c => taskLog (freeSlot (dropElems s core slot fun _ => false) core slot) die 2 { r with core := core } c
    | none =>
      let s := freeSlot (if th.cancelled then endThread s core slot else s) core slot
      let grid := recGrid r.words
      if th.cancelled || !(Tab.find (s.qmg die).grids grid).any (·.ctx == r.ctx) then s
      else match setTile s die grid (recX r.words) (recY r.words) with
        | (s, some c) => killGrid s die grid c
        | (s, none) => evaluateGrid (decrements s die r) die grid

/-- TASK_RETIRE (10 R273, R275, R296): a task whose thread or command has ended retires, fails, or ends as cancelled. Retirement
is a release at the record's scope (04 R109, R117, 14 R387). -/
def execTaskRetire (die entry : Nat) (s : State) : Host.Outcome State Fault Refusal :=
  match s.threads.find? fun kv => kv.2.task == (die, entry) && strayEnded s (kv.1 / 16) (kv.1 % 16) with
  | some (k, _) => .next (retireStray s (k / 16) (k % 16))
  | none =>
  match taskOf s die entry with
  | none => .next s
  | some t =>
    if t.state ≠ 4 then .next s
    else if recKind t.words = 0 then
      let th := s.thread t.core t.slot
      if !th.live || !runsEntry th die entry t then .next s
      else match th.failed with
        | some c =>
          let s := reportPends s t.core t.slot
          let s := freeSlot (dropElems s t.core t.slot fun _ => false) t.core t.slot
          .next (freeTask (taskLog s die 2 t c) die entry)
        | none =>
          if t.cancelled then
            if th.saq.isEmpty && th.atomsOut == 0 then
              let s := freeSlot (endThread (reportPends s t.core t.slot) t.core t.slot) t.core t.slot
              .next (freeTask (taskLog s die 3 t 0) die entry)
            else .next (settle s t.core t.slot)
          else if th.halted then
            if releaseHeld s t.core t.slot (recScope t.words) then .next s
            else .next (retireTask (freeSlot (reportPends s t.core t.slot) t.core t.slot) die entry t)
          else .next s
    else match t.ended with
      | none => .next s
      | some c =>
        if t.cancelled then .next (freeTask (taskLog s die 3 t 0) die entry)
        else if c = 0 then .next (if engineTaskHeld s die entry t then s else retireTask s die entry t)
        else .next (freeTask (taskLog s die 2 t c) die entry)

/-! ### The frame counter (10 R276, R277, 01 R30) -/

/-- The tick at which a timed task overruns (10 R277). -/
def deadline (t : Task) : Nat := (recWord t.words 2).toNat + recBudget t.words

/-- Some task of the die is overrunning. -/
def overrunning (q : Qmg) : Bool := q.tasks.any fun kv => kv.2.overrun

/-- 10 R276: the counter runs. -/
def frameRuns (q : Qmg) : Bool := !q.hold && !overrunning q

/-- 10 R277: timed tasks whose deadline the counter has reached become overrunning, each with its SLIP entry; fuel tasks. -/
def sweepOverruns (die : Nat) : Nat → State → State
  | 0, s => s
  | n + 1, s =>
    let q := s.qmg die
    match q.tasks.find? fun kv => recTimed kv.2.words && !kv.2.overrun && !kv.2.cancelled && decide (deadline kv.2 ≤ q.frame.toNat) with
    | none => s
    | some (e, t) =>
      let s := setTask s die e { t with overrun := true }
      sweepOverruns die n (qmgLog s die 0 (recGrid t.words) (recX t.words) (recY t.words) evtSlip 0xFFFF q.frame)

/-- 10 R277, 01 R30: a timed task whose tick and mask hold is released: while none overruns and the counter runs, or when it
overruns itself. -/
def releasable (q : Qmg) (t : Task) : Bool :=
  t.state == 1 && decide ((recWord t.words 2).toNat ≤ q.frame.toNat) && (t.overrun || frameRuns q)

/-- Every releasable task READY. Their order is that of `readyBefore`. -/
def releaseTimed (s : State) (die : Nat) : State :=
  let q := s.qmg die
  s.setQmg die { q with
    tasks := q.tasks.map fun kv => if releasable q kv.2 then (kv.1, { kv.2 with state := 2, readyAt := s.now }) else kv }

/-- Deadlines and releases after a change of the counter (10 R277, R295). -/
def frameSettle (s : State) (die : Nat) : State :=
  releaseTimed (sweepOverruns die (s.qmg die).tasks.length s) die

/-- FRAME_TICK (10 R276): global time has passed a multiple of 128 ns since the last tick seen. -/
def execFrameTick (die : Nat) (s : State) : Host.Outcome State Fault Refusal :=
  let q := s.qmg die
  let t := s.now / 128
  if s.shut.phase ≠ 0 then .next s
  else if t ≤ q.tick then .next (frameSettle s die)
  else if frameRuns q then .next (frameSettle (s.setQmg die { q with frame := q.frame + 1, tick := q.tick + 1 }) die)
  else .next (frameSettle (s.setQmg die { q with tick := t }) die)

/-- TASK_OVERRUN (10 R277). -/
def execTaskOverrun (die : Nat) (s : State) : Host.Outcome State Fault Refusal := .next (frameSettle s die)

/-! ### Placement and dispatch (10 R267, R279-R282, 17 R456) -/

/-- 10 R282: effective priority. -/
def effPrio (t : Task) : Nat := min 3 (recPrio t.words + t.age)

/-- The order in which READY tasks are served: timed ones by tick and acceptance (10 R277), then by effective priority and
acceptance (10 R282). -/
def readyBefore (a b : Task) : Bool :=
  if recTimed a.words != recTimed b.words then recTimed a.words
  else if recTimed a.words then
    decide ((recWord a.words 2).toNat < (recWord b.words 2).toNat) || (recWord a.words 2 == recWord b.words 2 && decide (a.seq < b.seq))
  else decide (effPrio b < effPrio a) || (effPrio a == effPrio b && decide (a.seq < b.seq))

/-- PRIORITY_AGE (10 R282): each 4 ms a ready untimed task spends raises its effective priority. -/
def execPriorityAge (die entry : Nat) (s : State) : Host.Outcome State Fault Refusal :=
  match taskOf s die entry with
  | none => .next s
  | some t =>
    if t.state = 2 ∧ recTimed t.words = false ∧ effPrio t < 3 ∧ 4000000 * (t.age + 1) ≤ s.now - t.readyAt then
      .next (setTask s die entry { t with age := t.age + 1 })
    else .next s

/-- Live threads and local entries of a core (10 R279). -/
def coreLoad (s : State) (core : Nat) : Nat :=
  (List.range 16).countP (fun k => (s.thread core k).live) + (s.core core).queue.length

/-- 10 R279, R250, 17 R456: a core may take a task of a context: present, not suspect, owned by it or by none, with room. -/
def coreTakes (s : State) (ctx core : Nat) : Bool :=
  let k := s.core core
  !s.masks.cores.getLsbD core && !k.suspect && (k.owner == 0 || k.owner == ctx) && decide (k.queue.length < 4)

/-- The core of a cluster that takes a task: the least loaded, and the lowest of those. -/
def coreFor (s : State) (ctx cluster : Nat) : Option Nat :=
  ((List.range 8).map (cluster * 8 + ·)).foldl (fun best c =>
    if !coreTakes s ctx c then best
    else match best with
      | none => some c
      | some b => if coreLoad s c < coreLoad s b then some c else best) none

/-- A cluster may take a task: in its set and, for a timed task, not at the economy point (10 R279, 01 R33). -/
def clusterOk (s : State) (die cl : Nat) (t : Task) : Bool :=
  (recCset t.words).testBit cl && s.islandOn (die * 16 + cl) && !(recTimed t.words && Tab.get 0 s.islands (die * 16 + cl) == 1)

/-- The core an unpinned task goes to: the first cluster at or after the rotating pointer that qualifies; fuel clusters. -/
def clusterSearch (s : State) (die : Nat) (t : Task) : Nat → Nat → Option (Nat × Nat)
  | 0, _ => none
  | n + 1, cl =>
    match (if clusterOk s die cl t then coreFor s t.ctx (die * 16 + cl) else none) with
    | some c => some (c, cl)
    | none => clusterSearch s die t n ((cl + 1) % 16)

/-- Where a READY TILE task may go now: its core and, for an unpinned one, the pointer after it. -/
def placeOf (s : State) (die : Nat) (t : Task) : Option (Nat × Nat) :=
  let q := s.qmg die
  if recPin t.words then
    match (List.range 16).find? fun c => (recCset t.words).testBit c with
    | none => none
    | some cl =>
      let core := (die * 16 + cl) * 8 + recPcore t.words
      if clusterOk s die cl t && coreTakes s t.ctx core then some (core, q.rot) else none
  else match clusterSearch s die t 16 q.rot with
    | some (c, cl) => some (c, (cl + 1) % 16)
    | none => none

/-- The first task in ready order that can be placed. -/
def firstPlace (s : State) (die : Nat) : Option (Nat × Task × Nat × Nat) :=
  (s.qmg die).tasks.foldl (fun best kv =>
    if kv.2.state ≠ 2 ∨ recKind kv.2.words ≠ 0 then best
    else match best with
      | some (_, b, _, _) =>
        if readyBefore kv.2 b then (match placeOf s die kv.2 with | some (c, r) => some (kv.1, kv.2, c, r) | none => best) else best
      | none => match placeOf s die kv.2 with
        | some (c, r) => some (kv.1, kv.2, c, r)
        | none => none) none

/-- TASK_PLACE (10 R279): a READY TILE task enters a core's local queue, a timed one at its head. -/
def execTaskPlace (die : Nat) (s : State) : Host.Outcome State Fault Refusal :=
  match firstPlace s die with
  | none => .next s
  | some (e, t, core, rot) =>
    let s := setTask s die e { t with state := 3, core := core, readyFor := s.now - t.readyAt }
    let q := s.qmg die
    let s := s.setQmg die { q with rot := rot }
    let k := s.core core
    .next (s.setCore core { k with queue := if recTimed t.words then e :: k.queue else k.queue ++ [e] })

/-- 10 R280: one step of a core's stealing state. -/
def stealNext (x : BitVec 32) : BitVec 32 :=
  let x := x ^^^ (x <<< 13)
  let x := x ^^^ (x >>> 17)
  x ^^^ (x <<< 5)

/-- A thread with no record has ended and no entry holds its task: its slot is free. -/
def slotLeft (s : State) (core slot : Nat) : Bool :=
  let t := s.thread core slot
  t.record.isNone && (t.halted || t.failed.isSome || t.cancelled) && match taskOf s t.task.1 t.task.2 with
    | some k => k.state != 4 || k.core != core || k.slot != slot
    | none => true

/-- A core has a free slot. -/
def slotFree (s : State) (core : Nat) : Option Nat :=
  (List.range 16).find? fun k => !(s.thread core k).live || slotLeft s core k

/-- 17 R478: a task may take a slot of the active bank; after an exchange, one of the incoming context. -/
def bankTakes (s : State) (core ctx : Nat) : Bool :=
  let w := s.swap core
  decide (w.phase < 4) || w.cid == ctx

/-- 10 R279, 17 R456: the place in a core's local queue of the first task it may start. -/
def localHead (s : State) (core : Nat) : Option Nat :=
  let k := s.core core
  k.queue.findIdx? fun e => match taskOf s (dieOf core) e with
    | some t => (k.owner == 0 || k.owner == t.ctx || decide (4 ≤ (s.swap core).phase)) && bankTakes s core t.ctx
    | none => true

/-- STEAL_ATTEMPT (10 R280): the victim gives up its tail entry when it may be stolen. -/
def execStealAttempt (core : Nat) (s : State) : Host.Outcome State Fault Refusal :=
  let k := s.core core
  if (slotFree s core).isNone || !k.queue.isEmpty || s.masks.cores.getLsbD core then .next s
  else
    let x := stealNext (if k.steal = 0 then BitVec.ofNat 32 (core + 1) else k.steal)
    let s := s.setCore core { k with steal := x }
    let victim := core / 8 * 8 + (core % 8 + 1 + x.toNat % 7) % 8
    let v := s.core victim
    let die := dieOf core
    match v.queue.getLast? with
    | none => .next s
    | some e => match taskOf s die e with
      | none => .next s
      | some t =>
        if s.masks.cores.getLsbD victim || v.suspect || !recSteal t.words || !coreTakes s t.ctx core then .next s
        else
          let s := s.setCore victim { v with queue := v.queue.dropLast }
          let s := s.setCore core { s.core core with queue := [e] }
          .next (setTask s die e { t with core := core })

/-- 17 R456: a core that no context owns passes to one: its mailbox and counters, which messages and late posts may have reached,
are zero. -/
def Core.taken (k : Core) (ctx : Nat) : Core :=
  if k.owner = 0 then { k with owner := ctx, mailbox := [], ctr := Vector.replicate 32 0 } else k

/-- 05 R121, 06 R159, 10 R267: the thread a TILE task starts as; its tile registers are undefined. A poisoned descriptor gives it no
handler and no record's place (15 R406; log 43). It joins the levels of its member bits at once, an open episode's too (log 24). -/
def startThread (s : State) (core slot die entry : Nat) (t : Task) : State :=
  let s := reportPends s core slot
  let (s, bad) := readDesc s t.ctx
  let k := s.core core
  let vec := fun i => if bad.isSome then 0 else ctxWord s t.ctx i &&& ~~~63
  let n := s.freeCtr
  let a : Vector W64 32 := (((Vector.replicate 32 (0 : W64)).set 0 (BitVec.ofNat 64 (recX t.words))).set 1
    (BitVec.ofNat 64 (recY t.words))).set 2 (recWord t.words 5) |>.set 3 (recWord t.words 6)
  let th : Thread := {
    live := true, ctx := t.ctx, task := (die, entry), record := some t, disp := k.disp + 1, a := a
    apc := recWord t.words 3, epc := recWord t.words 4
    x := Vector.ofFn fun i => { data := Config.freeRow (n + i.val), sb := Config.freeSideband (n + i.val) }
    tveca := vec 2, tvece := vec 3, traprec := vec 4
    phase := recPhase t.words }
  let cl := clusterOf core
  let s := chargePlace { s with freeCtr := n + 128 } cl
  let q := s.qmg (dieOf core)
  let s := s.setQmg (dieOf core) { q with lastPhase := Tab.set q.lastPhase (cl % 16) (recPhase t.words) }
  let s := s.setCore core { k.taken t.ctx with disp := (k.disp + 1) % 2 ^ 32 }
  let s := s.setThread core slot th
  instLevels.foldl (fun s l => if (recWord t.words 7).getLsbD l then joinLevel s core slot l else s) s

/-- The words of bytes. -/
def wordsOf : Nat → List Byte → List W64
  | 0, _ => []
  | n + 1, bs => BitVec.ofNat 64 (leValue (bs.take 8)) :: wordsOf n (bs.drop 8)

/-- 10 R283: a queue entry that cannot be read is reloaded from its backing copy; `none` when that is lost too. -/
def reloadTask (s : State) (die entry : Nat) (t : Task) : Option Task :=
  let a := (s.qmg die).qback + 64 * entry
  let s := settleRange s a 64
  if (s.qmg die).qback = 0 ∨ devPoisoned s a 64 = true then none
  else some { t with words := wordsOf 8 (s.dev.bytes a 64) }

/-- A read of a queue entry, by whichever step makes it next, finds it uncorrectable: it is reloaded and processing goes on, or
its grid is killed (10 R283). -/
def entryLost (s : State) (die entry : Nat) : State :=
  match taskOf s die entry with
  | none => s
  | some t => match reloadTask s die entry t with
    | some t => setTask s die entry t
    | none => killGrid s die (recGrid t.words) fltTaskPoison

/-- TILE_DISPATCH (10 R267, R279): the head of a core's local queue starts in its lowest free slot. `lost` says that its
queue entry reads uncorrectable; a backing copy lost with it kills the grid (10 R283). -/
def execTileDispatch (core : Nat) (lost : Bool) (s : State) : Host.Outcome State Fault Refusal :=
  let k := s.core core
  let die := dieOf core
  match localHead s core, slotFree s core with
  | some i, some slot =>
    let e := k.queue.getD i 0
    let rest := removeAt k.queue i
    match taskOf s die e with
    | none => .next (s.setCore core { k with queue := rest })
    | some t =>
      if s.shut.phase ≠ 0 ∨ s.islandOn (clusterOf core) = false then .next s
      else match (if lost then reloadTask s die e t else some t) with
      | none => .next (killGrid s die (recGrid t.words) fltTaskPoison)
      | some t =>
        let s := s.setCore core { k with queue := rest }
        let s := setTask s die e { t with state := 4, core := core, slot := slot }
        .next (startThread s core slot die e t)
  | _, _ => .next s

/-- 01 R25, R26: the engine of a task kind and the dispatch entries a die has for it. -/
def kindEngine (kind : Nat) : Nat × Nat :=
  match kind with
  | 1 | 2 => (engSch, 64)
  | 3 => (engSmp, 32)
  | 4 => (engTre, 32)
  | 5 => (engXfr, 32)
  | _ => (engLnk, 32)

/-- The stream that carries a die's dispatched tasks to an engine; SMP has one stream for its die (12 R327). -/
def taskStream (eng die : Nat) : Nat := if eng = engSmp then die else 256 + die

/-- Commands of a die's dispatched tasks in an engine's dispatch entries (01 R26). -/
def entriesUsed (s : State) (eng die : Nat) : Nat :=
  (s.estream eng (taskStream eng die)).queue.countP fun c => c.task.isSome

/-- A READY non-TILE task stands before every other of its engine (10 R282, 01 R26). -/
def firstOfEngine (s : State) (die entry : Nat) (t : Task) : Bool :=
  (s.qmg die).tasks.all fun kv =>
    kv.1 == entry || kv.2.state != 2 || recKind kv.2.words == 0
      || kindEngine (recKind kv.2.words) != kindEngine (recKind t.words) || readyBefore t kv.2

/-- ENGINE_TASK_DISPATCH (01 R26, 10 R265, R274): the command block is read and enters a dispatch entry. -/
def execEngineTaskDispatch (die entry : Nat) (s : State) : Host.Outcome State Fault Refusal :=
  match taskOf s die entry with
  | none => .next s
  | some t =>
    let (eng, cap) := kindEngine (recKind t.words)
    if s.shut.phase ≠ 0 ∨ t.state ≠ 2 ∨ recKind t.words = 0 ∨ cap ≤ entriesUsed s eng die ∨ firstOfEngine s die entry t = false then .next s
    else
      let n := bitsAt (recWord t.words 4) 0 3 + 1
      let c : Cmd := { words := [], core := 0, slot := 0, disp := 0, hand := false, ctx := t.ctx, scope := recScope t.words,
                       task := some (die, entry) }
      let s := setTask s die entry { t with state := 4 }
      -- a block of up to 64 bytes at a multiple of 64, read as whole words (04 R92)
      let rd := (List.range n).foldl (fun (r : X (State × List W64)) i => match r with
        | .error e => .error e
        | .ok (s, ws) => match readMem s (whoE eng 0 t.ctx) (recWord t.words 3 + BitVec.ofNat 64 (8 * i)) 8 with
          | .error e => .error e
          | .ok (s, bs) => .ok (s, ws ++ [BitVec.ofNat 64 (leValue bs)])) (.ok (s, []))
      match rd with
      | .error (.flt code _ seen) => .next (engineFault (seen.getD s) eng c code 0 (recWord t.words 3))
      | .error .wait => .next s
      | .ok (s, ws) =>
        let k := taskStream eng die
        let st := s.estream eng k
        .next (s.setEstream eng k { st with queue := st.queue ++ [{ c with words := ws }] })

/-! ### Commands (10 R289-R297) -/

/-- ctl.qmgst (10 R289). -/
def qmgStatus (core : Nat) (s : State) : W64 :=
  let st := s.estream engQmg core
  BitVec.ofNat 64 (st.taken.toNat * 2 ^ 32 + (if st.stopped then 1 else if st.wait = 2 then 2 else 0) * 2 ^ 29 + st.code.toNat)

/-- The codes QMG defines and their word counts (10 R290). -/
def qmgWords (op : Nat) : Nat :=
  match op with
  | 1 => 8 | 2 => 3 | 3 => 2 | 4 => 3 | 5 => 2 | 6 => 2 | 7 => 1 | _ => 0

/-- The head of a core's QMG stream faults. -/
def qmgStop (s : State) (core : Nat) (c : Cmd) (code : Code) (addr : W64 := 0) : State :=
  stopCmd (startCmd s engQmg core) engQmg core c code addr (qmgStatus core)

/-- The head of a core's QMG stream has been applied. -/
def qmgDone (s : State) (core : Nat) : State :=
  let st := (startCmd s engQmg core).estream engQmg core
  s.setEstream engQmg core st.idle

/-- The head has been applied and places an element (10 R290). -/
def qmgElem (s : State) (core : Nat) (c : Cmd) (ws : List W64) : State :=
  completeCmd (workDone (startCmd s engQmg core) engQmg core c (some ws)) engQmg core

/-- A QMG step on the head of a core's stream, which stays there until it has been applied: a denied one, the codes undefined and
wrong word counts stop it (04 R102, 10 R290). `sub` says whether the head is this step's form of the code. A command
applied whose element found its result queue full completes at whichever step finds room (01 R24). -/
def onQmg (s : State) (core op : Nat) (sub : Cmd → Bool) (body : State → Cmd → State) : Host.Outcome State Fault Refusal :=
  match nextCmd s engQmg core with
  | none => .next (completeCmd s engQmg core)
  | some c =>
    if pushDenied s engQmg c then .next (qmgStop s core c fltAccess)
    else if qmgWords c.op ≠ c.words.length ∨ qmgWords c.op = 0 then .next (qmgStop s core c fltBadCmd)
    else if c.op = op ∧ sub c = true then .next (body s c)
    else .next s

/-- The stream of a core with progress noted at its head. -/
def qmgProg (s : State) (core : Nat) (prog wait : Nat) (data : List W64) : State :=
  let st := s.estream engQmg core
  s.setEstream engQmg core { st with prog := prog, wait := wait, data := data }

/-- PUBLISH (10 R266, R291): a record of the other die leaves for it, and the command waits at the stream's head. -/
def execPublish (core : Nat) (s : State) : Host.Outcome State Fault Refusal :=
  onQmg s core 1 (fun _ => true) fun s c =>
    let die := dieOf core
    if (s.estream engQmg core).prog = 1 then s
    else if recDie c.words ≠ die then
      let q := s.qmg (1 - die)
      let s := s.setQmg (1 - die) { q with carry := q.carry ++ [⟨core, c.ctx, c.words, false⟩] }
      qmgProg s core 1 0 []
    else match publish s die c.ctx c.words with
      | .accepted s => qmgDone s core
      | .full => qmgProg s core 0 2 []
      | .fault code => qmgStop s core c code

/-- PUBLISH_CARRY (10 R266): a record carried to a die is checked and accepted there, or waits for an entry; while none is free, the
records behind it are checked all the same. -/
def execPublishCarry (die : Nat) (s : State) : Host.Outcome State Fault Refusal :=
  let q := s.qmg die
  let k := if q.tasks.length < qmgEntries then 0 else q.carry.findIdx fun r => !r.full
  match q.carry[k]? with
  | none => .next s
  | some r =>
    let s' := s.setQmg die { q with carry := removeAt q.carry k }
    match publish s' die r.ctx r.words with
    | .accepted s => .next (qmgDone s r.core)
    | .full => .next (qmgProg (s.setQmg die { q with carry := updAt (fun r => { r with full := true }) q.carry k }) r.core 1 2 [])
    | .fault code => match nextCmd s' engQmg r.core with
      | some c => .next (qmgStop s' r.core c code)
      | none => .next s'

/-- The record of step k of a NEST walk over W columns from X0 and H rows from Y0 (10 R292). -/
def nestRecord (tmpl : List W64) (w0 w2 : W64) (k : Nat) : List W64 :=
  let x0 := bitsAt w0 49 8
  let x1 := bitsAt w0 41 8
  let y0 := bitsAt w0 33 8
  let y1 := bitsAt w0 25 8
  let (x, y) := if w0.getLsbD 57 then (x0 + k / (y1 - y0 + 1), y0 + k % (y1 - y0 + 1))
    else (x0 + k % (x1 - x0 + 1), y0 + k / (x1 - x0 + 1))
  let r0 := setBits (setBits (recWord tmpl 0) 31 8 x) 23 8 y
  let r2 := if recTimed tmpl then recWord tmpl 2 + BitVec.ofNat 64 (k * bitsAt w2 0 32) else recWord tmpl 2
  [r0, recWord tmpl 1, r2, recWord tmpl 3, recWord tmpl 4, recWord tmpl 5 + BitVec.ofNat 64 k, recWord tmpl 6, recWord tmpl 7]

/-- The tasks a NEST generates. -/
def nestCount (w0 : W64) : Nat :=
  (bitsAt w0 41 8 - bitsAt w0 49 8 + 1) * (bitsAt w0 25 8 - bitsAt w0 33 8 + 1)

/-- 10 R292: the checks of a NEST on its template and ranges. -/
def nestFault (s : State) (c : Cmd) (tmpl : List W64) : Option Code :=
  let w0 := c.w 0
  let q := s.qmg (recDie tmpl)
  if bitsAt (recWord tmpl 0) 58 6 ≠ 1 ∨ recKind tmpl ≠ 0 then some fltBadCmd
  else match publishFault q c.ctx tmpl true with
    | some code => some code
    | none => match Tab.find q.grids (recGrid tmpl) with
      | none => some fltBadCmd
      | some g =>
        if g.w ≤ bitsAt w0 41 8 ∨ g.h ≤ bitsAt w0 25 8 ∨ (recTimed tmpl = false ∧ bitsAt (c.w 2) 0 32 ≠ 0) then some fltBadCmd
        else none

/-- NEST (10 R292): its first step reads and checks the template, each further one publishes one record. -/
def execNest (core : Nat) (s : State) : Host.Outcome State Fault Refusal :=
  onQmg s core 2 (fun _ => true) fun s c =>
    let w0 := c.w 0
    let st := s.estream engQmg core
    if bitsAt w0 0 25 ≠ 0 ∨ bitsAt (c.w 2) 32 32 ≠ 0 ∨ (c.w 1).toNat % 64 ≠ 0 ∨ bitsAt w0 41 8 < bitsAt w0 49 8
        ∨ bitsAt w0 25 8 < bitsAt w0 33 8 then qmgStop s core c fltBadCmd
    else if st.data = [] then
      match readMem s (whoE engQmg core c.ctx) (c.w 1) 64 with
      | .error (.flt code a seen) => qmgStop (seen.getD s) core c code a
      | .error .wait => s
      | .ok (s, bs) =>
        let tmpl := wordsOf 8 bs
        match nestFault s c tmpl with
        | some code => qmgStop s core c code
        | none => qmgProg s core 0 0 tmpl
    else
      let r := nestRecord st.data w0 (c.w 2) st.prog
      match publish s (recDie r) c.ctx r with
      | .fault code => qmgStop s core c code
      | .full => qmgProg s core st.prog 2 st.data
      | .accepted s =>
        if nestCount w0 ≤ st.prog + 1 then qmgDone s core else qmgProg s core (st.prog + 1) 0 st.data

/-- GRID's operation (10 R293). -/
def gridOp (c : Cmd) : Nat := bitsAt (c.w 0) 56 2

/-- The journal of a grid written to zero: 8 KiB (10 R293). -/
def zeroJournal (s : State) (w : Who) (a : W64) : X State :=
  (List.range 128).foldl (fun r i => match r with
    | .error e => .error e
    | .ok s => writeMem s w (a + BitVec.ofNat 64 (64 * i)) (List.replicate 64 0)) (.ok s)

/-- A grid's record replaced. -/
def setGrid (s : State) (die g : Nat) (v : QGrid) : State :=
  let q := s.qmg die
  s.setQmg die { q with grids := Tab.set q.grids g v }

/-- GRID CREATE (10 R293); OP 3 is malformed. -/
def execGridCreate (core : Nat) (s : State) : Host.Outcome State Fault Refusal :=
  onQmg s core 3 (fun c => gridOp c == 0 || gridOp c == 3) fun s c =>
    let die := dieOf core
    let g := bitsAt (c.w 0) 50 6
    let old := Tab.find (s.qmg die).grids g
    if gridOp c = 3 ∨ bitsAt (c.w 0) 0 34 ≠ 0 ∨ (c.w 1).toNat % 8192 ≠ 0 then qmgStop s core c fltBadCmd
    else if (match old with | some v => v.ctx != c.ctx | none => false) then qmgStop s core c fltAccess
    else if old.isSome then qmgStop s core c fltBadCmd
    else match zeroJournal s (whoE engQmg core c.ctx) (c.w 1) with
      | .error (.flt code a seen) => qmgStop (seen.getD s) core c code a
      | .error .wait => s
      | .ok s =>
        qmgDone (setGrid s die g
          { ctx := c.ctx, w := bitsAt (c.w 0) 42 8 + 1, h := bitsAt (c.w 0) 34 8 + 1, journal := c.w 1 }) core

/-- The grid a GRID DESTROY or RESET names: its fault or the grid (10 R290, R293). -/
def ownGrid (s : State) (core : Nat) (c : Cmd) (deadOk : Bool) : Except Code QGrid :=
  if bitsAt (c.w 0) 0 50 ≠ 0 ∨ c.w 1 ≠ 0 then .error fltBadCmd
  else match Tab.find (s.qmg (dieOf core)).grids (bitsAt (c.w 0) 50 6) with
  | none => .error fltBadCmd
  | some g =>
    if g.ctx ≠ c.ctx then .error fltAccess
    else if g.dead = true ∧ deadOk = false then .error fltBadCmd
    else .ok g

/-- Live tasks of a grid on a die. -/
def gridTasks (s : State) (die g : Nat) : List (Nat × Task) := (s.qmg die).tasks.filter fun kv => recGrid kv.2.words == g

/-- GRID RESET (10 R293): no task of the grid is live. -/
def execGridReset (core : Nat) (s : State) : Host.Outcome State Fault Refusal :=
  onQmg s core 3 (fun c => gridOp c == 2) fun s c =>
    let die := dieOf core
    let n := bitsAt (c.w 0) 50 6
    match ownGrid s core c false with
    | .error code => qmgStop s core c code
    | .ok g =>
      if !(gridTasks s die n).isEmpty then qmgStop s core c fltBadCmd
      else match zeroJournal s (whoE engQmg core c.ctx) g.journal with
        | .error (.flt code a seen) => qmgStop (seen.getD s) core c code a
        | .error .wait => s
        | .ok s => qmgDone (setGrid s die n { g with rows := [] }) core

/-- The task of the thread that pushed a command, wherever the thread is, until it has retired. -/
def ownTask (s : State) (c : Cmd) : Option (Nat × Nat) :=
  match outOf s c.core c.slot c.disp with
  | some o => some o.task
  | none =>
    let t := s.thread c.core c.slot
    if t.live && t.disp == c.disp then some t.task else none

/-- GRID DESTROY (10 R293): its tasks are cancelled; the grid is freed once they have stopped, and takes no record from then
on (10 R292). -/
def execGridDestroy (core : Nat) (s : State) : Host.Outcome State Fault Refusal :=
  onQmg s core 3 (fun c => gridOp c == 1) fun s c =>
    let die := dieOf core
    let n := bitsAt (c.w 0) 50 6
    match ownGrid s core c true with
    | .error code => if (s.estream engQmg core).prog = 1 then qmgDone s core else qmgStop s core c code
    | .ok g =>
      if (s.estream engQmg core).prog = 0 ∧ ((gridTasks s die n).any fun kv => ownTask s c == some (die, kv.1)) = true then
        qmgStop s core c fltBadCmd
      else
        let s := if (s.estream engQmg core).prog = 0 then cancelAll s die (matching s die fun t => recGrid t.words == n) else s
        if (gridTasks s die n).isEmpty then
          let q := s.qmg die
          qmgDone (s.setQmg die { q with grids := Tab.drop q.grids n }) core
        else qmgProg (setGrid s die n { g with dead := true }) core 1 0 []

/-- A 4-bit two's complement nibble. -/
def nibble (v : Nat) : Int := if v < 8 then v else (v : Int) - 16

/-- 10 R269: the offsets of a 16-byte mask; `none` is a malformed one. -/
def maskOffsets : List Byte → Option (List (Int × Int))
  | [] => some []
  | b :: bs =>
    let lo := b.toNat % 16
    let hi := b.toNat / 16
    match maskOffsets bs with
    | none => none
    | some os =>
      if b = 0x88 then some os
      else if lo = 8 ∨ hi = 8 ∨ b = 0 then none
      else some ((nibble lo, nibble hi) :: os)

/-- LATTICE (10 R294). -/
def execLattice (core : Nat) (s : State) : Host.Outcome State Fault Refusal :=
  onQmg s core 4 (fun _ => true) fun s c =>
    let slot := bitsAt (c.w 0) 50 8
    match maskOffsets (leBytes (c.w 1).toNat 8 ++ leBytes (c.w 2).toNat 8) with
    | none => qmgStop s core c fltBadCmd
    | some os =>
      if slot = 0 ∨ bitsAt (c.w 0) 0 50 ≠ 0 then qmgStop s core c fltBadCmd
      else
        let q := s.qmg (dieOf core)
        qmgDone (s.setQmg (dieOf core) { q with lattice := Tab.set q.lattice (c.ctx * 256 + slot) os }) core

/-- FRAME (10 R295): timetable control is a grant of the context (17 R455). -/
def frameCmd (s : State) (core op : Nat) (f : Qmg → Cmd → Qmg) : Host.Outcome State Fault Refusal :=
  onQmg s core 5 (fun c => bitsAt (c.w 0) 56 2 == op || (op == 0 && bitsAt (c.w 0) 56 2 == 3)) fun s c =>
    let die := dieOf core
    if bitsAt (c.w 0) 56 2 = 3 ∨ bitsAt (c.w 0) 0 56 ≠ 0 ∨ (op ≠ 2 ∧ c.w 1 ≠ 0) then qmgStop s core c fltBadCmd
    else match readGrant s c.ctx 5 with
      | .error (.flt code _ seen) => qmgStop (seen.getD s) core c code
      | .error .wait => s
      | .ok (s, false) => qmgStop s core c fltAccess
      | .ok (s, true) => frameSettle (qmgDone (s.setQmg die (f (s.qmg die) c)) core) die

/-- FRAME GO (10 R295): the counter rises at the next multiple of 128 ns (10 R276). -/
def execFrameGo (core : Nat) (s : State) : Host.Outcome State Fault Refusal :=
  frameCmd s core 0 fun q _ => { q with hold := false, tick := if frameRuns q then q.tick else s.now / 128 }

/-- FRAME STOP (10 R295). -/
def execFrameStop (core : Nat) (s : State) : Host.Outcome State Fault Refusal :=
  frameCmd s core 1 fun q _ => { q with hold := true }

/-- FRAME SETBASE (10 R295). -/
def execFrameSetbase (core : Nat) (s : State) : Host.Outcome State Fault Refusal :=
  frameCmd s core 2 fun q c => { q with frame := c.w 1 }

/-- 10 R296: a CANCEL's match. -/
def cancelMatch (c : Cmd) (t : Task) : Bool :=
  t.ctx == c.ctx &&
  if (c.w 0).getLsbD 57 then
    recGrid t.words == bitsAt (c.w 0) 51 6 && decide (bitsAt (c.w 0) 43 8 ≤ recX t.words) && decide (recX t.words ≤ bitsAt (c.w 0) 35 8)
      && decide (bitsAt (c.w 0) 27 8 ≤ recY t.words) && decide (recY t.words ≤ bitsAt (c.w 0) 19 8)
  else (recTag t.words ^^^ bitsAt (c.w 1) 0 15) &&& bitsAt (c.w 1) 16 15 == 0

/-- 10 R296: the checks of a CANCEL. -/
def cancelFault (s : State) (core : Nat) (c : Cmd) : Option Code :=
  let w0 := c.w 0
  if bitsAt w0 0 19 ≠ 0 then some fltBadCmd
  else if w0.getLsbD 57 then
    if c.w 1 ≠ 0 ∨ bitsAt w0 35 8 < bitsAt w0 43 8 ∨ bitsAt w0 19 8 < bitsAt w0 27 8 then some fltBadCmd
    else match Tab.find (s.qmg (dieOf core)).grids (bitsAt w0 51 6) with
      | none => some fltBadCmd
      | some g => if g.ctx ≠ c.ctx then some fltAccess else none
  else if bitsAt w0 19 38 ≠ 0 ∨ bitsAt (c.w 1) 31 33 ≠ 0 ∨ (c.w 1).getLsbD 15 = true ∨ bitsAt (c.w 1) 16 15 = 0 then some fltBadCmd
  else none

/-- CANCEL (10 R296): applied at once; its element is placed when every matched task has stopped. -/
def execCancel (core : Nat) (s : State) : Host.Outcome State Fault Refusal :=
  onQmg s core 6 (fun _ => true) fun s c =>
    let die := dieOf core
    let st := s.estream engQmg core
    match (if st.data = [] then cancelFault s core c else none) with
    | some code => qmgStop s core c code
    | none =>
      let live := (s.qmg die).tasks.filter fun kv => cancelMatch c kv.2 && !kv.2.cancelled && ownTask s c != some (die, kv.1)
      let s' := if st.data = [] then cancelAll s die (live.map Prod.fst) else s
      let removed := live.countP fun kv => kv.2.state != 4
      let data := if st.data = [] then
          BitVec.ofNat 64 (removed % 65536 + (live.length - removed) % 65536 * 65536) :: live.map fun kv => BitVec.ofNat 64 kv.2.seq
        else st.data
      if (s'.qmg die).tasks.any fun kv => data.tail.contains (BitVec.ofNat 64 kv.2.seq) then qmgProg s' core 1 0 data
      else qmgElem s' core c [data.headD 0]

/-- ctl.qstat as it stands (10 R286). -/
def qstatWord (s : State) (die : Nat) : W64 :=
  let q := s.qmg die
  BitVec.ofNat 64 (q.slips * 2 ^ 48 + (q.tasks.countP fun kv => kv.2.overrun) % 65536 * 2 ^ 32 + q.hold.toNat * 2 ^ 31
    + (decide (4096 < q.since)).toNat * 2 ^ 30 + q.tasks.length % 2 ^ 17)

/-- The three words a scoreboard row becomes as four 64-bit words (10 R297). -/
def rowWords (v : Nat) : List W64 := (List.range 4).map fun j => BitVec.ofNat 64 (v / 2 ^ (64 * j))

/-- STATUS (10 R297). -/
def execStatus (core : Nat) (s : State) : Host.Outcome State Fault Refusal :=
  onQmg s core 7 (fun _ => true) fun s c =>
    let die := dieOf core
    let w0 := c.w 0
    let q := s.qmg die
    let g := Tab.find q.grids (bitsAt w0 49 6)
    let foreign := match g with | some g => g.ctx != c.ctx | none => false
    let sel := bitsAt w0 55 3
    if 3 < sel ∨ bitsAt w0 0 36 ≠ 0 ∨ (sel = 2 ∧ 15 < bitsAt w0 41 8) then qmgStop s core c fltBadCmd
    else if (sel = 0 ∨ sel = 3) ∧ foreign = true then qmgStop s core c fltAccess
    else match sel with
      | 0 => match g with
        | none => qmgStop s core c fltBadCmd
        | some g =>
          if g.h ≤ bitsAt w0 41 8 then qmgStop s core c fltBadCmd
          else qmgElem s core c (rowWords (Tab.get 0 g.rows (bitsAt w0 41 8)))
      | 1 => qmgElem s core c [q.frame, qstatWord s die,
          BitVec.ofNat 64 (q.tasks.countP fun kv => kv.2.ctx == c.ctx && recTimed kv.2.words)]
      | 2 =>
        let s := chargePlace s (16 * die + bitsAt w0 41 8)
        let k := 16 * bitsAt w0 41 8 + bitsAt w0 37 4
        let q := s.qmg die
        let v := Tab.get (0, 0) q.place k
        let s := if w0.getLsbD 36 then s.setQmg die { q with place := Tab.set q.place k (0, 0) } else s
        qmgElem s core c [placeCount v.1, placeCount v.2]
      | _ => match g with
        | none => qmgElem s core c [0, 0]
        | some v => qmgElem s core c
            [BitVec.ofNat 64 ((v.w - 1) * 256 + (v.h - 1) + v.dead.toNat * 2 ^ 16 + (!v.dead).toNat * 2 ^ 17),
             BitVec.ofNat 64 (gridTasks s die (bitsAt w0 49 6)).length]

/-- QMG_SKIP (10 R289): the stopped command is discarded. -/
def execQmgSkip (core : Nat) (s : State) : Host.Outcome State Fault Refusal := .next (skipStream s engQmg core)

/-- QMG_RESUME (10 R289): the stopped command is checked again. -/
def execQmgResume (core : Nat) (s : State) : Host.Outcome State Fault Refusal := .next (resumeStream s engQmg core)

/-- SCOREBOARD_REBUILD (10 R284): a row is read back from its journal; when that is lost too, the grid is killed. -/
def execScoreboardRebuild (die grid row : Nat) (lost : Bool) (s : State) : Host.Outcome State Fault Refusal :=
  match Tab.find (s.qmg die).grids grid with
  | none => .next s
  | some g =>
    if g.h ≤ row then .next s
    else if lost then .next (killGrid s die grid fltScoreboard)
    else
      -- 32 bytes of the journal, read as four words
      let rd := (List.range 4).foldl (fun (r : X (State × List Byte)) i => match r with
        | .error e => .error e
        | .ok (s, bs) => match readMem s (whoQ g.ctx) (g.journal + BitVec.ofNat 64 (32 * row + 8 * i)) 8 with
          | .error e => .error e
          | .ok (s, b) => .ok (s, bs ++ b)) (.ok (s, []))
      match rd with
      | .error (.flt _ _ seen) => .next (killGrid (seen.getD s) die grid fltScoreboard)
      | .error .wait => .next (killGrid s die grid fltScoreboard)
      | .ok (s, bs) => .next (setGrid s die grid { g with rows := Tab.set g.rows row (leValue bs % 2 ^ g.w) })

end Sys2Proof.Machine
end

