-- ==== Sys2Proof/Machine/Smp.lean ====
section
/-! DEFINITION. The sampler engine (spec 12 R327-R344). -/

namespace Sys2Proof.Machine

namespace State

def smp (s : State) (die : Nat) : Smp := Tab.get {} s.smps die

def setSmp (s : State) (die : Nat) (v : Smp) : State := { s with smps := Tab.set s.smps die v }

end State

/-! ### Registers (12 R342) -/

/-- WAITRING. -/
def waitRing : Nat := 2

/-- ctl.smpst; its read clears NOTOK. Dispatched commands stand in entries of their own (01 R26). -/
def smpStatus (die : Nat) (s : State) : W64 :=
  let st := s.estream engSmp die
  let m := s.smp die
  BitVec.ofNat 64 (m.notok * 2 ^ 48 + min (st.queue.countP fun c => c.task.isNone) 128 * 2 ^ 32
    + (if st.wait ≠ 0 then 2 else if st.run.isSome then 1 else 0) * 2 ^ 29 + m.code.toNat)

/-- ctl.smpwait: the HADDR awaited. -/
def smpWait (die : Nat) (s : State) : W64 :=
  if (s.estream engSmp die).wait ≠ 0 then carried s engSmp die 8 &&& ~~~7 else 0

/-! ### Checks and stages (12 R328-R332) -/

/-- A finite FP32 value. -/
def finite32 (b : Nat) : Bool := !(f32 (BitVec.ofNat 32 b)).isNan && !(f32 (BitVec.ofNat 32 b)).isInf

/-- x ≤ y over FP32 values that are no NaN. -/
def le32 (x y : Fl) : Bool := !x.isNan && !y.isNan && !Fl.lt y x

/-- SAMPLE's own fields (12 R328, R329). -/
def sampleCheck (c : Cmd) : Option (Code × W64) :=
  match commonFault c 8 with
  | some code => some (code, 0)
  | none => firstOf [
      need (bitsAt (c.w 0) 0 46 == 0 && c.w 7 == 0), need (decide (1 ≤ bitsAt (c.w 2) 0 32) && decide (bitsAt (c.w 2) 0 32 ≤ 262144)),
      need (decide (bitsAt (c.w 2) 32 32 + bitsAt (c.w 2) 0 32 ≤ 0xFFFFFFFF)),
      aligned 64 (c.w 1), aligned 32 (c.w 3), aligned 64 (c.w 4), need (!(c.task.isSome && (c.note || c.pen))),
      if inSpad (c.w 1) then some (fltAccess, c.w 1) else none, if inSpad (c.w 3) then some (fltAccess, c.w 3) else none,
      if c.w 4 != 0 && inSpad (c.w 4) then some (fltAccess, c.w 4) else none]

def Stage.kind (g : Stage) : Nat := bitsAt (wordAt g.words 0) 60 4
def Stage.low (g : Stage) : Nat := bitsAt (wordAt g.words 0) 0 32
def Stage.mode (g : Stage) : Nat := bitsAt (wordAt g.words 0) 32 2
def Stage.out (g : Stage) : Bool := (wordAt g.words 0).getLsbD 34

/-- The limits of a stage block at a place in its chain (12 R331, R332); lists are checked as they are read. -/
def stageOk (c : Cmd) (first : Bool) (g : Stage) : Bool :=
  let w := wordAt g.words
  let f := f32 (BitVec.ofNat 32 g.low)
  let hi := bitsAt (w 0) 32 28 == 0
  match g.kind with
  | 0 => hi && zeros [w 1, w 2, w 3] && finite32 g.low && Fl.lt Fl.zero f
  | 1 => hi && zeros [w 2, w 3] && decide (1 ≤ g.low) && decide (g.low ≤ 65536) && (w 1).toNat % 8 == 0
  | 2 => bitsAt (w 0) 33 27 == 0 && g.low == 0 && zeros [w 2, w 3] && (w 1).toNat % 64 == 0
  | 3 => hi && decide (1 ≤ g.low) && decide (g.low ≤ 65536) && (w 1).toNat % 4 == 0 && bitsAt (w 3) 32 32 == 0
      && finite32 (bitsAt (w 2) 0 32) && Fl.lt Fl.zero (f32 (BitVec.ofNat 32 (bitsAt (w 2) 0 32))) && finite32 (bitsAt (w 2) 32 32)
      && finite32 (bitsAt (w 3) 0 32)
  | 4 => hi && zeros [w 1, w 2, w 3] && decide (1 ≤ g.low) && decide (g.low ≤ 262144)
  | 5 => hi && zeros [w 1, w 2, w 3] && Fl.lt Fl.zero f && le32 f (Fl.ofInt 1)
  | 6 => hi && zeros [w 1, w 2, w 3] && le32 Fl.zero f && le32 f (Fl.ofInt 1)
  | 7 => bitsAt (w 0) 35 25 == 0 && g.low == 0 && zeros [w 2, w 3] && (if g.out then (w 1).toNat % 16 == 0 else w 1 == 0)
      && !(g.out && (g.mode == 1 || g.mode == 3))
      && (g.mode != 3 || (first && !(c.w 0).getLsbD 46 && bitsAt (c.w 2) 32 32 == 0))
  | _ => false

/-- The chain at an address, n blocks at most (12 R331). -/
def readChain (w : Who) (c : Cmd) : Nat → W64 → Bool → Eng (List Stage)
  | 0, a, _ => Eng.fail fltStage a
  | n + 1, a, first => do
    let g : Stage := ⟨a, words64 (← engRead w a 32)⟩
    Eng.check (stageOk c first g) fltStage a
    let at_ := wordAt g.words 1
    Eng.check (!((g.kind == 1 || g.kind == 2 || g.kind == 3 || (g.kind == 7 && g.out)) && inSpad at_)) fltAccess at_
    if g.kind = 7 then pure [g] else pure (g :: (← readChain w c n (a + 32) false))

def readReq (w : Who) (a : W64) : Eng Req := do
  let ws := words64 (← engRead w a 64)
  let x := wordAt ws
  Eng.check ((x 0).toNat % 4 == 0 && bitsAt (x 1) 32 32 == 0 && decide (1 ≤ (x 1).toNat) && decide ((x 1).toNat ≤ 1048576)
    && (x 2).toNat % 8 == 0 && (x 3).toNat % 8 == 0 && zeros [x 4, x 5, x 6, x 7]) fltBadCmd a
  pure ⟨x 0, (x 1).toNat, x 2, x 3⟩

/-! ### The working vector (12 R333, R334) -/

def negInf32 : BitVec 32 := 0xFF800000#32
def nan32 : BitVec 32 := 0x7FC00000#32

/-- An element is eligible. -/
def eligible (x : BitVec 32) : Bool := !(f32 x).isNan && x != negInf32

/-- a stands at or before b in rank order (12 R333). -/
def ranksBefore (a b : BitVec 32 × Nat) : Bool :=
  let x := f32 a.1
  let y := f32 b.1
  if x.isNan && y.isNan then decide (a.2 ≤ b.2)
  else if y.isNan then true
  else if x.isNan then false
  else match Fl.cmp x y with
    | .gt => true
    | .lt => false
    | .eq => decide (a.2 ≤ b.2)

/-- The elements in rank order with their local ids. -/
def ranked (w : List (BitVec 32)) : List (BitVec 32 × Nat) := sortBy ranksBefore w.zipIdx

/-- a − b rounded. -/
def fsub32 (a b : BitVec 32) : BitVec 32 := fadd32 a (neg32 b)

/-- 2^x rounded: FEXP2 of 02 R53. -/
def fexp32 (x : BitVec 32) : BitVec 32 := rne32 (pow2 (f32 x))

/-- log2 x rounded: FLOG2 of 02 R53. -/
def flog32 (x : Fl) : BitVec 32 := rne32 (Fl.log2 x).1

/-- The weights u and their sum Z (12 R334); `none` when no element is eligible. -/
def weights (w : List (BitVec 32)) : Option (List (BitVec 32) × BitVec 32) :=
  match (ranked w).find? fun p => eligible p.1 with
  | none => none
  | some (m, _) =>
    let u := w.map fun x =>
      if !eligible x then 0
      else fexp32 (fmul32 (if Fl.cmp (f32 x) (f32 m) == .eq then 0 else fsub32 x m) 0x3FB8AA3B#32)
    let pad := 2 ^ (Nat.log2 (2 * u.length - 1)) - u.length
    let z := (pairTree (fun x => (f32 (rne32 x), 0)) 32 ((u ++ List.replicate pad 0).map f32)).1
    some (u, rne32 z)

/-- TOPP's kept ids from a ranked list on. -/
def topp (u : List (BitVec 32)) (t : BitVec 32) : List (BitVec 32 × Nat) → BitVec 32 → List Nat
  | [], _ => []
  | (_, i) :: rest, c =>
    let c := fadd32 c (u.getD i 0)
    if !Fl.lt (f32 c) (f32 t) then [i] else i :: topp u t rest c

/-- The elements of a list of 32-bit values. -/
def readList (w : Who) (a : W64) (n : Nat) : Eng (List Nat) := do pure (elements 4 (← engRead w a (4 * n)))

/-- A stage other than SELECT (12 R334). -/
def stageEng (w : Who) (gbase : Nat) (v : List (BitVec 32)) (g : Stage) : Eng (List (BitVec 32)) := do
  let x := BitVec.ofNat 32 g.low
  let at_ := wordAt g.words 1
  match g.kind with
  | 0 => pure (v.map fun a => fmul32 a x)
  | 1 =>
    let ps := words64 (← engRead w at_ (8 * g.low))
    Eng.check (ps.all fun p => finite32 (bitsAt p 32 32) || bitsAt p 32 32 == 0xFF800000) fltStage g.addr
    pure (ps.foldl (fun v p =>
      let id := bitsAt p 0 32
      if gbase ≤ id then updAt (fun a => fadd32 a (BitVec.ofNat 32 (bitsAt p 32 32))) v (id - gbase) else v) v)
  | 2 =>
    let bs ← engRead w at_ ((v.length + 7) / 8)
    let deny := (wordAt g.words 0).getLsbD 32
    pure (v.zipIdx.map fun (a, i) => if ((bs.getD (i / 8) 0).getLsbD (i % 8)) == deny then negInf32 else a)
  | 3 =>
    let ids ← readList w at_ g.low
    let rep := BitVec.ofNat 32 (bitsAt (wordAt g.words 2) 0 32)
    let freq := f32 (BitVec.ofNat 32 (bitsAt (wordAt g.words 2) 32 32))
    let pres := BitVec.ofNat 32 (bitsAt (wordAt g.words 3) 0 32)
    pure (v.zipIdx.map fun (a, i) =>
      let n := ids.countP fun id => id == gbase + i
      if n = 0 ∨ (f32 a).isNan then a
      else
        let a := if Fl.lt Fl.zero (f32 a) then fdiv32 a rep else fmul32 a rep
        fsub32 (fsub32 a (rne32 (Fl.mul (Fl.ofInt n) freq).1)) pres)
  | 4 =>
    let keep := ((ranked v).take g.low).map Prod.snd
    let inKeep := (List.range v.length).map fun i => keep.contains i
    pure (List.zipWith (fun a b => if b then a else negInf32) v inKeep)
  | 5 => match weights v with
    | none => pure v
    | some (u, z) =>
      let keep := topp u (fmul32 x z) ((ranked v).filter fun p => eligible p.1) 0
      pure (v.zipIdx.map fun (a, i) => if keep.contains i then a else negInf32)
  | _ => match weights v with
    | none => pure v
    | some (u, _) => pure (List.zipWith (fun a ui => if eligible a && Fl.lt (f32 ui) (f32 x) then negInf32 else a) v u)

/-- The stages of a chain before its SELECT. -/
def stagesEng (w : Who) (gbase : Nat) : List Stage → List (BitVec 32) → Eng (List (BitVec 32))
  | [], v => pure v
  | g :: gs, v => if g.kind = 7 then pure v else do stagesEng w gbase gs (← stageEng w gbase v g)

/-! ### SELECT (12 R335, R336) -/

/-- ph(c2, c3) of 12 R335. -/
def phWords (key ctr : W64) (c2 c3 : Nat) : List (BitVec 32) :=
  philox key (ctr.extractLsb' 0 32) (ctr.extractLsb' 32 32) (BitVec.ofNat 32 c2) (BitVec.ofNat 32 c3)

/-- The categorical choice: the first eligible id whose running sum exceeds T, else the last with a weight. -/
def catGo (t : BitVec 32) : List (BitVec 32 × Nat) → BitVec 32 → Option Nat → Option Nat
  | [], _, last => last
  | (u, i) :: rest, c, last =>
    let c := fadd32 c u
    if Fl.lt (f32 t) (f32 c) then some i else catGo t rest c (if (f32 u).isZero then last else some i)

/-- The Gumbel score of an eligible element (12 R335). -/
def gumbel (key ctr : W64) (gbase : Nat) (x : BitVec 32) (i : Nat) : BitVec 32 :=
  let g := gbase + i
  let r := (phWords key ctr (g / 4) 1).getD (g % 4) 0
  let u : Fl := .fin false (2 * (r.extractLsb' 9 23).toNat + 1) (-24) false
  let t := flog32 (f32 (rne32 (Fl.log2 u).1.neg))
  fsub32 (fmul32 x 0x3FB8AA3B#32) t

/-- SELECT's choice over a working vector: the local id and its VALUE (12 R335). -/
def selectId (c : Cmd) (mode : Nat) (v : List (BitVec 32)) : Option (Nat × BitVec 32) :=
  let el := v.zipIdx.filter fun p => eligible p.1
  match mode with
  | 0 => ((ranked v).find? fun p => eligible p.1).map fun p => (p.2, p.1)
  | 1 => match weights v with
    | none => none
    | some (u, z) =>
      let r := (phWords (c.w 5) (c.w 6) 0xFFFFFFFF 2).headD 0
      let t := rne32 (Fl.mul (.fin false (r.extractLsb' 8 24).toNat (-24) false) (f32 z)).1
      (catGo t (el.map fun p => (u.getD p.2 0, p.2)) 0 none).map fun i => (i, v.getD i 0)
  | _ =>
    let sc := el.map fun p => (gumbel (c.w 5) (c.w 6) (bitsAt (c.w 2) 32 32) p.1 p.2, p.2)
    ((sortBy ranksBefore sc).head?).map fun p => (p.2, p.1)

/-- The rank of a merge record: NONE records last, then NaN, then by value; ties by GID (12 R336). -/
def recordBefore (a b : List Nat) : Bool :=
  let none_ := fun (r : List Nat) => (r.getD 3 0).testBit 0
  let gid := fun (r : List Nat) => r.getD 2 0
  let val := fun (r : List Nat) => BitVec.ofNat 32 (r.getD 0 0)
  if none_ a && none_ b then decide (gid a ≤ gid b)
  else if none_ b then true
  else if none_ a then false
  else ranksBefore (val a, gid a) (val b, gid b)

/-- A merge's token: the winner's GID (12 R336). -/
def mergeToken (rs : List (List Nat)) : Option Nat :=
  match (sortBy recordBefore rs).head? with
  | some r => if (r.getD 3 0).testBit 0 then none else some (r.getD 2 0)
  | none => none

/-! ### The command (12 R336-R339, R344) -/

/-- The result element: token or GID with the status, then the counter (12 R339). -/
def sampleElem (c : Cmd) (token : Option Nat) (k : Nat) : Option (List W64) :=
  noted c [BitVec.ofNat 64 (token.getD 0xFFFFFFFF + (if token.isNone then fltNoToken.toNat else 0) * 2 ^ 32), BitVec.ofNat 64 k]

/-- A result without a token is counted (12 R337, R342). -/
def countNone (die : Nat) (token : Option Nat) : Eng Unit := Eng.change fun s =>
  let m := s.smp die
  if token.isNone then s.setSmp die { m with notok := min 65535 (m.notok + 1) } else s

/-- A range takes free bytes, where its pages can be written (00 R10). -/
def freeRange (s : State) (w : Who) (a : W64) (n : Nat) : State :=
  (rangePieces (n / 64 + 2) a n).foldl (fun s p =>
    let (s, bs) := freeBytes s p.2
    match writeRange s w p.1 bs with
    | .ok s => s
    | .error _ => s) s

/-- 12 R340: SMP reads a request's counter; once another has written it since a sampler of this die did, its value and the ring's
entries are undefined (log 2). -/
def readCounter (die : Nat) (w : Who) (r : Req) (s : State) : X (State × Nat) :=
  match resolve s w r.caddr 8 .read with
  | .error e => .error e
  | .ok (s, ls) => match readVal s w r.caddr 8, ls with
    | .ok (s, k), (l, _) :: _ =>
      match s.ringCtrs.find? fun x => x.spot == l.spot with
      | none => .ok (s, k)
      | some x =>
        if !x.spoiled && x.die == die && x.value == k then .ok (s, k)
        else
          let s := { s with ringCtrs := s.ringCtrs.map fun y => if y.spot == l.spot then { y with spoiled := true } else y }
          readVal (freeRange (freeRange s w r.ring (4 * r.rcap)) w r.caddr 8) w r.caddr 8
    | r, _ => r

/-- 12 R338: the token enters the ring at k, and the counter becomes k + 1, both places checked before either is written (R341). -/
def writeToken (die : Nat) (w : Who) (r : Req) (k v : Nat) (s : State) : X State :=
  match resolveNow s w (r.ring + BitVec.ofNat 64 (4 * (k % r.rcap))) 4 .write with
  | .error e => .error e
  | .ok (s, ring) => match resolveNow s w r.caddr 8 .write with
    | .error e => .error e
    | .ok (s, ctr) =>
      let n := (k + 1) % 2 ^ 64
      let s := writeAll (writeAll s ring (leBytes v 4)) ctr (leBytes n 8)
      let spot := match ctr with | (l, _) :: _ => l.spot | [] => (0, 0)
      let bad := s.ringCtrs.any fun x => x.spot == spot && x.spoiled
      .ok { s with ringCtrs := ⟨spot, die, n, bad⟩ :: s.ringCtrs.filter fun x => x.spot != spot }

/-- The commit of a token (12 R338). -/
def commitToken (die : Nat) (w : Who) (c : Cmd) (r : Req) (token : Option Nat) : Eng (Option (List W64)) := do
  let k ← Eng.acc (readCounter die w r)
  if r.haddr ≠ 0 then
    let h ← engVal w r.haddr 8
    if h + r.rcap ≤ k then Eng.hold waitRing [r.haddr]
  Eng.put (writeToken die w r k (token.getD 0xFFFFFFFF))
  countNone die token
  pure (sampleElem c token ((k + 1) % 2 ^ 64))

/-- A token chosen is carried across WAITRING: word 0 marks it, word 1 holds it, 2^32 for none. -/
def carryToken (die : Nat) (token : Option Nat) : Eng Unit := do
  carry engSmp die 0 1
  carry engSmp die 1 (BitVec.ofNat 64 (token.getD (2 ^ 32)))

/-- The reads and checks that come before a command runs: its chain and its request (12 R329-R331, R344). -/
def sampleBegin (die : Nat) (c : Cmd) : Eng Unit := do
  let w := whoE engSmp c.core c.ctx
  let gs ← readChain w c 8 (c.w 3) true
  let sel := gs.getLastD default
  Eng.check (!(sel.mode == 3 && decide (64 < bitsAt (c.w 2) 0 32)) && !(!sel.out && c.w 4 == 0)) fltBadCmd (c.w 4)
  let req ← (if c.w 4 = 0 then pure { rcap := 1, ring := 0, caddr := 0, haddr := 0 } else readReq w (c.w 4))
  Eng.change fun s => s.setSmp die { s.smp die with req := req, chain := gs }

/-- SAMPLE's work (12 R333-R338). -/
def sampleEng (die : Nat) (c : Cmd) : Eng (Option (List W64)) := do
  let w := whoE engSmp c.core c.ctx
  let s ← Eng.now
  let req := (s.smp die).req
  if carried s engSmp die 0 = 1 then
    let t := (carried s engSmp die 1).toNat
    commitToken die w c req (if t < 2 ^ 32 then some t else none)
  else
    let gs := (s.smp die).chain
    let sel := gs.getLastD default
    let v := bitsAt (c.w 2) 0 32
    let gbase := bitsAt (c.w 2) 32 32
    if sel.mode = 3 then
      let token := mergeToken (chunk 4 (v + 1) (← readList w (c.w 1) (4 * v)))
      carryToken die token
      commitToken die w c req token
    else
      let bf := (c.w 0).getLsbD 46
      let sz := if bf then 2 else 4
      let canon := fun (x : Nat) =>
        let b := BitVec.ofNat 32 (if bf then x * 65536 else x)
        if (f32 b).isNan then nan32 else b
      let x ← stagesEng w gbase gs ((elements sz (← engRead w (c.w 1) (sz * v))).map canon)
      let pick := selectId c sel.mode x
      let token := pick.map fun p => gbase + p.1
      if sel.out then
        let rec_ := match pick with
          | some (i, val) => [val.toNat, i, gbase + i, 0]
          | none => [nan32.toNat, 0xFFFFFFFF, 0xFFFFFFFF, 1]
        engWrite w (wordAt sel.words 1) (rec_.flatMap fun n => leBytes n 4)
        countNone die token
        pure (sampleElem c token 0)
      else
        carryToken die token
        commitToken die w c req token

/-- A faulting command is discarded, and the engine goes on (12 R341); one that its checks refuse has not left IDLE (R344). -/
def smpDiscard (s : State) (die : Nat) (c : Cmd) (code : Code) (addr : W64) : State :=
  let s := s.setSmp die { s.smp die with code := code }
  let status := smpStatus die s
  let s := s.setEstream engSmp die (s.estream engSmp die).idle
  engineFault s engSmp c code status addr

/-- SAMPLE (12 R327-R344): the head's start, or the work of the running command. While 128 elements are kept none starts. -/
def execSample (die : Nat) (s : State) : Host.Outcome State Fault Refusal :=
  let st := s.estream engSmp die
  match st.run with
  | some c =>
    if st.done || st.wait != 0 then .next s
    else match sampleEng die c s with
      | (.ok ws, s) => .next (workDone s engSmp die c ws)
      | (.error (.flt code a), s) => .next (smpDiscard s die c code a)
      | (.error (.wait _ d), s) => .next (holdCmd s engSmp die waitRing (waitData s engSmp die d))
  | none => match st.queue.head? with
    | none => .next s
    | some c =>
      if 128 ≤ (s.smp die).kept.length ∨ mayStart s engSmp die = false then .next s
      else
        let s0 := s.setEstream engSmp die { st.idle with queue := st.queue.tail }
        match headFault s engSmp (· == 1) c with
        | some code => .next (smpDiscard s0 die c code 0)
        | none => match sampleCheck c with
          | some (code, a) => .next (smpDiscard s0 die c code a)
          | none => match sampleBegin die c s with
            | (.ok _, s) => .next (startCmd s engSmp die)
            | (.error (.flt code a), s) => .next (smpDiscard (s.setEstream engSmp die { st.idle with queue := st.queue.tail }) die c code a)
            | (.error (.wait _ _), _) => .next s

/-- RING_WAIT_END (12 R338): the host has made room. A read that faults ends the wait, and the command meets the fault. -/
def execRingWaitEnd (die : Nat) (s : State) : Host.Outcome State Fault Refusal :=
  let st := s.estream engSmp die
  match st.run with
  | none => .next s
  | some c =>
    if st.wait = 0 then .next s
    else
      let w := whoE engSmp c.core c.ctx
      let r := (s.smp die).req
      let room : Eng Bool := do
        let k ← engVal w r.caddr 8
        let h ← engVal w r.haddr 8
        pure (decide (k < h + r.rcap))
      match room s with
      | (.ok false, s) => .next s
      | (_, s) => .next (endWait s engSmp die)

/-- SMP_COMPLETE (12 R339): the post is made, and an element is kept until its core's result queue has room. -/
def execSmpComplete (die : Nat) (s : State) : Host.Outcome State Fault Refusal :=
  let st := s.estream engSmp die
  match st.run with
  | none => .next s
  | some c =>
    if !st.done || !parkRoom s c (if c.pen then 1 else 0) then .next s
    else
      let s := s.setEstream engSmp die st.idle
      let s := if c.pen then enginePost s c c.pctr 1 else s
      let s := match st.held with
        | some e => s.setSmp die { s.smp die with kept := (s.smp die).kept ++ [(c, e)] }
        | none => s
      .next (taskDone s c)

/-- SMP_ELEMENT_PLACE (12 R339): a kept element is placed; those of one core keep their order. -/
def execSmpElementPlace (die idx : Nat) (s : State) : Host.Outcome State Fault Refusal :=
  let m := s.smp die
  match m.kept[idx]? with
  | none => .next s
  | some (c, e) =>
    if (m.kept.take idx).any (fun p => p.1.core == c.core) || !elemRoom s engSmp c e then .next s
    else .next (giveElem (s.setSmp die { m with kept := removeAt m.kept idx }) engSmp c e)

/-- SMP_CMDBOUND (12 R341). -/
def execSmpCmdbound (die : Nat) (s : State) : Host.Outcome State Fault Refusal :=
  let st := s.estream engSmp die
  match st.run with
  | none => .next s
  | some c => if st.working && boundDue s engSmp die 0 then .next (smpDiscard s die c fltCmdBound 0) else .next s

end Sys2Proof.Machine
end

