-- ==== Sys2Proof/Machine/Tre.lean ====
section
/-! DEFINITION. The search-tree engine (spec 13 R345-R366). A descent's and a backup's node accesses are one a step; an
expansion, and a re-root once it has drained, are one act (log 31). -/

namespace Sys2Proof.Machine

namespace State

/-- A tree slot of a die. -/
def tree (s : State) (die tid : Nat) : Tree := Tab.get {} s.trees (die * 16 + tid)

def setTree (s : State) (die tid : Nat) (t : Tree) : State := { s with trees := Tab.set s.trees (die * 16 + tid) t }

/-- What a stream's running command carries. -/
def walkOf (s : State) (src : Nat) : Walk := Tab.get {} s.walks src

def setWalk (s : State) (src : Nat) (w : Walk) : State := { s with walks := Tab.set s.walks src w }

end State

/-- The die of a stream (01 R22): a core's, or that of a die's dispatched tasks. -/
def dieOfSrc (src : Nat) : Nat := if src < 256 then dieOf src else src - 256

/-! ### Configuration (13 R346) -/

def cfgPool (ws : List W64) : W64 := wordAt ws 0
def cfgGsz (ws : List W64) : Nat := 2 ^ bitsAt (wordAt ws 1) 32 4
def cfgNgrp (ws : List W64) : Nat := bitsAt (wordAt ws 1) 0 32
def cfgFree (ws : List W64) : W64 := wordAt ws 2
def cfgVloss (ws : List W64) : BitVec 32 := BitVec.ofNat 32 (bitsAt (wordAt ws 6) 32 32)
def cfgC (ws : List W64) : BitVec 32 := BitVec.ofNat 32 (bitsAt (wordAt ws 6) 0 32)
def cfgTwo (ws : List W64) : Bool := (wordAt ws 7).getLsbD 52
def cfgDmax (ws : List W64) : Nat := bitsAt (wordAt ws 7) 44 8
def cfgBufs (ws : List W64) : Nat := bitsAt (wordAt ws 7) 40 4 + 1
def cfgBatch (ws : List W64) : Nat := bitsAt (wordAt ws 7) 32 8 + 1
def cfgQfpu (ws : List W64) : BitVec 32 := BitVec.ofNat 32 (bitsAt (wordAt ws 7) 0 32)

/-- A node's address (13 R347). -/
def nodeAt (ws : List W64) (i : Nat) : W64 := cfgPool ws + BitVec.ofNat 64 (32 * i)

/-- A node index inside the pool. -/
def inPool (ws : List W64) (i : Nat) : Bool := decide (i < cfgNgrp ws * cfgGsz ws)

/-- The buffer of a batch (13 R356). -/
def batchBuf (ws : List W64) (k : Nat) : W64 := wordAt ws 3 + BitVec.ofNat 64 (4096 * (k % cfgBufs ws))

/-- A finite value that is not negative. -/
def finiteNonNeg (b : BitVec 32) : Bool := finite32 b.toNat && le32 Fl.zero (f32 b)

/-- The limits of a configuration block's fields (13 R346). -/
def cfgOk (ws : List W64) : Bool :=
  let glog := bitsAt (wordAt ws 1) 32 4
  (cfgPool ws).toNat % 64 == 0 && bitsAt (wordAt ws 1) 36 28 == 0 && decide (3 ≤ glog) && decide (glog ≤ 8)
    && decide (2 ≤ cfgNgrp ws) && decide (cfgNgrp ws < 2 ^ 24) && (cfgFree ws).toNat % 4 == 0 && (wordAt ws 3).toNat % 4096 == 0
    && (wordAt ws 4).toNat % 64 == 0 && (wordAt ws 5).toNat % 8 == 0 && finiteNonNeg (cfgVloss ws) && finiteNonNeg (cfgC ws)
    && bitsAt (wordAt ws 7) 53 11 == 0 && decide (1 ≤ cfgDmax ws) && finite32 (cfgQfpu ws).toNat

/-- The engine's master for a context. -/
def whoT (ctx : Nat) : Who := whoE engTre 0 ctx

/-- An address of a scratchpad, another package or host memory (13 R346); one that does not translate is left to its access. -/
def notLocal (s : State) (ctx : Nat) (a : W64) : Bool :=
  inSpad a || (decide (a.toNat < 2 ^ 57) && decide (a.toNat / 2 ^ 51 ≠ s.pkg.toNat))
    || match locate s (whoT ctx) a 1 .read with
      | .ok (_, .dev _ _) => false
      | .ok _ => true
      | .error _ => false

/-- An address in this package's device memory; another kind raises FLT_ACCESS (13 R346). -/
def engLocal (ctx : Nat) (a : W64) : Eng Unit := fun s =>
  if notLocal s ctx a then (.error (.flt fltAccess a), s) else (.ok (), s)

/-- A range's first byte, and the first of each further page. -/
def pageStarts (a : W64) (n : Nat) : List W64 :=
  (List.range ((a.toNat % 2 ^ 16 + n + 65535) / 2 ^ 16)).map fun i =>
    if i = 0 then a else BitVec.ofNat 64 (a.toNat / 2 ^ 16 * 2 ^ 16 + 2 ^ 16 * i)

/-- A whole range in this package's device memory (13 R346). -/
def engLocalAll (ctx : Nat) (a : W64) (n : Nat) : Eng Unit := fun s =>
  match (pageStarts a n).find? (notLocal s ctx) with
  | some x => (.error (.flt fltAccess x), s)
  | none => (.ok (), s)

/-- 13 R346: the record of ETMPL passes R266 as a TILE record, at the queue manager that its DIE names. -/
def checkTemplate (ctx : Nat) (a : W64) : Eng (List W64) := do
  let r := words64 (← engRead (whoT ctx) a 64)
  let s ← Eng.now
  Eng.check (bitsAt (wordAt r 0) 58 6 == 1 && recKind r == 0) fltBadCmd a
  match publishFault (s.qmg (recDie r)) ctx (r.take 5 ++ [0, 0] ++ r.drop 7) false with
  | some code => Eng.fail code a
  | none => pure r

/-- 13 R346: the configuration block at an address, checked. -/
def readCfg (ctx : Nat) (a : W64) : Eng (List W64) := do
  let ws := words64 (← engRead (whoT ctx) a 64)
  Eng.check (cfgOk ws) fltBadCmd a
  engLocalAll ctx (cfgPool ws) (32 * cfgNgrp ws * cfgGsz ws)
  engLocalAll ctx (cfgFree ws) (4 * cfgNgrp ws)
  engLocalAll ctx (wordAt ws 3) (4096 * cfgBufs ws)
  engLocalAll ctx (wordAt ws 5) 8
  let _ ← checkTemplate ctx (wordAt ws 4)
  pure ws

/-! ### Nodes (13 R347) -/

def noNode : Nat := 0xFFFFFFFF

def ndN (n : List W64) : Nat := bitsAt (wordAt n 0) 0 32
def ndW (n : List W64) : BitVec 32 := BitVec.ofNat 32 (bitsAt (wordAt n 0) 32 32)
def ndVl (n : List W64) : Nat := bitsAt (wordAt n 1) 0 16
def ndP (n : List W64) : Nat := bitsAt (wordAt n 1) 16 16
def ndCbase (n : List W64) : Nat := bitsAt (wordAt n 1) 32 32
def ndCcnt (n : List W64) : Nat := bitsAt (wordAt n 2) 0 16
def ndParent (n : List W64) : Nat := bitsAt (wordAt n 2) 32 32
def ndAction (n : List W64) : Nat := bitsAt (wordAt n 3) 0 32

/-- FLAGS: 0 EXP, 1 PEND, 2 TERM, 3 DEAD, 4 ROOT. -/
def ndFlag (n : List W64) (i : Nat) : Bool := (wordAt n 2).getLsbD (16 + i)

/-- A node with a field of a word set. -/
def ndSet (n : List W64) (word lo len v : Nat) : List W64 := updAt (fun x => setBits x lo len v) n word

def ndSetFlag (n : List W64) (i : Nat) (b : Bool) : List W64 := ndSet n 2 (16 + i) 1 b.toNat

/-- A new node (13 R348, R358). -/
def newNode (p parent flags action : Nat) : List W64 :=
  [0, BitVec.ofNat 64 (p * 65536), BitVec.ofNat 64 (parent * 2 ^ 32 + flags * 65536), BitVec.ofNat 64 action]

/-- How a command reaches the nodes of its tree: the slot, the context, the configuration words it goes by. -/
structure TreeRef where
  die : Nat
  tid : Nat
  ctx : Nat
  words : List W64

/-- Fields of a node are undefined (13 R363, log 2). -/
def freeFields : List Nat → List W64 → Eng (List W64)
  | [], n => pure n
  | f :: fs, n => do
    let k ← (fun s => let (k, s) := s.takeFree; (.ok k, s) : Eng Nat)
    let (at_, len) := nodeFields.getD f (0, 0)
    freeFields fs (ndSet n (at_ / 8) (8 * (at_ % 8)) (8 * len) (Config.freeWord k).toNat)

/-- A node's words as the engine sees them: what a thread has written to a live tree's pool is an undefined value (13 R363). -/
def seenNode (r : TreeRef) (i : Nat) (n : List W64) : Eng (List W64) := do
  let s ← Eng.now
  freeFields ((s.tree r.die r.tid).hits.filterMap fun h => if h.1 = i then some h.2 else none) n

/-- The engine has written a node whole. -/
def noteNode (r : TreeRef) (i : Nat) (s : State) : State :=
  let t := s.tree r.die r.tid
  if t.hits.any (·.1 == i) then s.setTree r.die r.tid { t with hits := t.hits.filter (·.1 != i) } else s

/-- The bytes of a node. -/
def nodeBytes (n : List W64) : List Byte := n.flatMap fun x => leBytes x.toNat 8

/-- A whole node read. -/
def readNode (r : TreeRef) (i : Nat) : Eng (List W64) := do
  let a := nodeAt r.words i
  engLocal r.ctx a
  seenNode r i (words64 (← engRead (whoT r.ctx) a 32))

/-- A whole node written. -/
def writeNode (r : TreeRef) (i : Nat) (n : List W64) : Eng Unit := do
  let a := nodeAt r.words i
  engLocal r.ctx a
  engWrite (whoT r.ctx) a (nodeBytes n)
  Eng.change (noteNode r i)

/-- One atomic update of a node (13 R352): the node as it stood. -/
def updateNode (r : TreeRef) (i : Nat) (f : List W64 → List W64) : Eng (List W64) := do
  let n ← readNode r i
  writeNode r i (f n)
  pure n

/-- The place of a node whose write would be performed; its fault otherwise, with nothing written. -/
def writablePlace (r : TreeRef) (i : Nat) : Eng Loc := Eng.acc fun s => locate s (whoT r.ctx) (nodeAt r.words i) 32 .write

/-- One atomic update of a node whose place has been checked, which cannot fault: the node as it stood. A line found uncorrectable
since then gives free values (log 31). -/
def updateAt (r : TreeRef) (i : Nat) (l : Loc) (f : List W64 → List W64) : Eng (List W64) := do
  let bs ← (fun s =>
    let (s, bs) := readLoc s 32 l
    let (s, bs) := if locPoisoned s l 32 then freeBytes s 32 else (s, bs)
    (.ok bs, s) : Eng (List Byte))
  let n ← seenNode r i (words64 bs)
  Eng.change fun s => noteNode r i (writeLoc s (nodeBytes (f n)) l)
  pure n

/-! ### Registers and checks (13 R350, R364, R365) -/

def Cmd.tid (c : Cmd) : Nat := bitsAt (c.w 0) 43 4

/-- ctl.trst. -/
def treStatus (src : Nat) (s : State) : W64 :=
  let st := s.estream engTre src
  let state := if st.stopped then 7 else if st.wait ≠ 0 then st.wait else if st.run.isSome then 1 else 0
  let tid := match st.run with | some c => if st.stopped then 0 else c.tid | none => 0
  BitVec.ofNat 64 (st.taken.toNat * 2 ^ 32 + state * 2 ^ 29 + tid * 2 ^ 16 + (if st.stopped then st.code.toNat else 0))

/-- The waits of ctl.trst.STATE. -/
def treWaitBatch : Nat := 2
def treWaitInfl : Nat := 3
def treWaitDrain : Nat := 4
def treWaitPool : Nat := 5
def treWaitQ : Nat := 6

def treKnown (op : Nat) : Bool := decide (1 ≤ op) && decide (op ≤ 6)

/-- The checks every command shares (13 R345, R350), then its own; `fresh` commands need no live slot. -/
def treCheck (words : Nat) (fresh : Cmd → Bool) (own : State → Cmd → Option (Code × W64)) (src : Nat) (s : State) (c : Cmd) :
    Option (Code × W64) :=
  match commonFault c words with
  | some code => some (code, 0)
  | none =>
    let t := s.tree (dieOfSrc src) c.tid
    if c.task.isSome && (c.note || c.pen) then some (fltBadCmd, 0)
    else match own s c with
      | some f => some f
      | none =>
        if fresh c then none
        else if !t.live then some (fltBadCmd, 0)
        else if t.ctx ≠ c.ctx then some (fltAccess, 0)
        else none

/-- A row of the engine: a command of its own whose wait it polls goes on; the rest as every engine. -/
def treRow (src : Nat) (s : State) (mine : Cmd → Bool) (polls : List Nat) (check : State → Cmd → Option (Code × W64))
    (work : State → Cmd → State) : Host.Outcome State Fault Refusal :=
  let st := s.estream engTre src
  let head := match st.run with | some c => some c | none => st.queue.head?
  match head with
  | none => .next s
  | some c =>
    if treKnown c.op && !mine c then .next s
    else
      let s := if st.run.isSome && polls.contains st.wait && runRoom s engTre src then endWait s engTre src else s
      runOrStart s engTre src treKnown (fun _ => true) (treStatus src) check work

/-- The running command's slot. -/
def Eng.tree (die : Nat) (c : Cmd) : Eng Tree := do
  let s ← Eng.now
  let t := s.tree die c.tid
  Eng.check t.live fltBadCmd 0
  Eng.check (t.ctx == c.ctx) fltAccess 0
  pure t

/-- The nodes of a command's tree, by configuration words. -/
def Cmd.treeRef (c : Cmd) (die : Nat) (words : List W64) : TreeRef := ⟨die, c.tid, c.ctx, words⟩

/-- The running command's slot changed. -/
def Eng.setTree (die : Nat) (c : Cmd) (f : Tree → Tree) : Eng Unit := Eng.change fun s => s.setTree die c.tid (f (s.tree die c.tid))

/-- The phase a command comes to, and what it carries. -/
def goPhase (s : State) (src phase : Nat) (k : Walk) : State :=
  let s := s.setWalk src k
  s.setEstream engTre src { s.estream engTre src with prog := phase }

/-- A step of a command: what it carries and its phase from here on, or its end. -/
inductive Pace where
  | on (phase : Nat) (k : Walk)
  | ends (ws : Option (List W64))

/-- A step of a command run. -/
def runPace (s : State) (src : Nat) (c : Cmd) (m : Eng Pace) : State :=
  match m s with
  | (.ok (.ends ws), s) => workDone s engTre src c ws
  | (.ok (.on p k), s) => goPhase s src p k
  | (.error (.flt code a), s) => stopCmd s engTre src c code a (treStatus src)
  | (.error (.wait k d), s) => holdCmd s engTre src k d

/-! ### Descent (13 R353-R356) -/

/-- score(ch) of 13 R354 for a parent's N. -/
def nodeScore (ws : List W64) (np : Nat) (ch : List W64) : BitVec 32 :=
  let int := fun (n : Nat) => rne32 (Fl.ofInt n)
  let n := ndN ch + ndVl ch
  let loss := rne32 (Fl.mul (Fl.ofInt (ndVl ch)) (f32 (cfgVloss ws))).1
  let q := if n = 0 then cfgQfpu ws else fdiv32 (fsub32 (ndW ch) loss) (int n)
  let root := rne32 (Fl.sqrt (f32 (int np))).1
  let u := fdiv32 (fmul32 (fmul32 (cfgC ws) (BitVec.ofNat 32 (ndP ch * 65536))) root) (int (1 + n))
  fadd32 q u

/-- A score beats the best so far: NaN ranks below −∞, and an equal score does not beat (13 R354). -/
def beats (x : BitVec 32) : Option (BitVec 32 × Nat) → Bool
  | none => true
  | some (b, _) => !(f32 x).isNan && ((f32 b).isNan || Fl.lt (f32 b) (f32 x))

/-- The wait a TDESC of a tree starts with, if any (13 R353). -/
def descentWait (w : Who) (t : Tree) : Eng (Option Nat) := do
  if t.drain then pure (some treWaitDrain)
  else if 65535 ≤ t.infl then pure (some treWaitInfl)
  else if t.bcnt = 0 then
    engLocal w.ctx (wordAt t.words 5)
    let b ← engVal w (wordAt t.words 5) 8
    let open_ := (t.k - BitVec.ofNat 32 b).toInt
    pure (if open_ < (cfgBufs t.words : Int) then none else some treWaitBatch)
  else pure none

/-- A descent's fault: undone before it is delivered (13 R353). -/
def descentFails (k : Walk) (m : Eng Pace) : Eng Pace := fun s =>
  match m s with
  | (.error (.flt code a), s') => (.ok (.on 3 { k with child := 0, fault := some (code, a) }), s')
  | r => r

/-- The parameters of the open batch (13 R361): those in force when it took its first leaf (log 31). -/
def Tree.batchWords (t : Tree) : List W64 := if t.bcnt = 0 then t.words else t.batch

/-- The close of batch K begins (13 R356): its publication is the next step. -/
def closeBatch (die : Nat) (c : Cmd) (k : Walk) : Eng Pace := do
  let t ← Eng.tree die c
  Eng.setTree die c fun t => { t with closing := true }
  pure (.on 5 { k with
    closed := true, buf := batchBuf t.batchWords t.k.toNat, count := BitVec.ofNat 64 (t.k.toNat * 2 ^ 32 + t.bcnt) })

/-- The batch under close is counted (13 R356): after its publication, or when its record is refused. -/
def countBatch (die tid : Nat) (s : State) : State :=
  let t := s.tree die tid
  if t.closing then s.setTree die tid { t with k := t.k + 1, bcnt := 0, closing := false } else s

/-- The publication of a closed batch, made with TRE as its master (13 R356, 04 R102); its record is read once, and waits in WAITQ
as it was read. -/
def publishBatch (src : Nat) (c : Cmd) (k : Walk) : Eng Unit := do
  let r ← (if k.record.isEmpty then checkTemplate c.ctx (wordAt k.words 4) else pure k.record)
  Eng.change fun s => s.setWalk src { k with record := r }
  let s ← Eng.now
  Eng.check (mayCommand s (engineTarget engQmg (128 * recDie r)) c.ctx (whoT c.ctx).unit) fltAccess 0
  match publish s (recDie r) c.ctx (r.take 5 ++ [k.buf, k.count] ++ r.drop 7) with
  | .fault code => Eng.fail code (wordAt k.words 4)
  | .full => Eng.hold treWaitQ []
  | .accepted s' => Eng.change fun _ => s'

/-- The batch is counted once its publication ends, well or by a fault. -/
def thenCount (die tid : Nat) (m : Eng Unit) : Eng Unit := fun s =>
  match m s with
  | (.ok (), s) => (.ok (), countBatch die tid s)
  | (.error (.flt code a), s) => (.error (.flt code a), countBatch die tid s)
  | (.error (.wait k d), s) => (.error (.wait k d), s)

/-- TDESC's element (13 R355). -/
def descentElem (c : Cmd) (k : Walk) : Option (List W64) :=
  noted c [BitVec.ofNat 64 (k.node + (k.path.length - 1) * 2 ^ 32 + k.status * 2 ^ 40),
    BitVec.ofNat 64 (k.batch.toNat + k.pos * 2 ^ 32 + k.closed.toNat * 2 ^ 48)]

/-- A step of TDESC (13 R353): phase 0 waits and starts; 1 updates a node; 2 scores a child; 3 undoes a node of the path;
4 batches and closes, and waits in WAITQ while another command is closing the batch (log 31); 5 publishes. -/
def tdescEng (src : Nat) (c : Cmd) : Eng Pace := do
  let die := dieOfSrc src
  let s ← Eng.now
  let k := s.walkOf src
  let r := c.treeRef die k.words
  match (s.estream engTre src).prog with
  | 0 =>
    let t ← Eng.tree die c
    match ← descentWait (whoT c.ctx) t with
    | some kind => Eng.hold kind []
    | none =>
      Eng.setTree die c fun t => { t with infl := t.infl + 1, dser := t.dser + 1 }
      pure (.on 1 { words := t.words, node := t.root, ser := t.dser })
  | 1 => descentFails k do
    let f := fun n => ndSet (if !ndFlag n 0 && !ndFlag n 2 && !ndFlag n 1 then ndSetFlag n 1 true else n) 1 0 16 (ndVl n + 1)
    let n ← updateNode r k.node f
    let k := { k with path := k.node :: k.path, child := 0 }
    if ndFlag n 2 then pure (.on 4 { k with status := 2 })
    else if ndFlag n 0 then
      if k.path.length = cfgDmax k.words + 1 then pure (.on 3 { k with fault := some (fltPathDepth, nodeAt k.words k.node) })
      else pure (.on 2 { k with snap := n, child := 0, best := none })
    else if ndFlag n 1 then pure (.on 3 { k with status := 1 })
    else pure (.on 4 { k with status := 0, snap := n })
  | 2 => descentFails k do
    let i := ndCbase k.snap + k.child
    let x := nodeScore k.words (ndN k.snap) (← readNode r i)
    let best := if beats x k.best then some (x, i) else k.best
    let k := { k with best := best, child := k.child + 1 }
    if k.child < ndCcnt k.snap then pure (.on 2 k)
    else pure (.on 1 { k with scored := k.scored + k.child, node := match best with | some (_, j) => j | none => i })
  | 3 => fun s =>
    let at_ := k.path.drop k.child
    match at_ with
    | i :: _ =>
      let s' := (updateNode r i (fun n => ndSet n 1 0 16 (ndVl n + 65535)) s).2
      (.ok (.on 3 { k with child := k.child + 1 }), s')
    | [] =>
      let s := s.setTree die c.tid { s.tree die c.tid with infl := (s.tree die c.tid).infl - 1 }
      match k.fault with
      | some (code, a) => (.error (.flt code a), s)
      | none => (.ok (.on 4 k), s)
  | 4 =>
    let t ← Eng.tree die c
    let k := { k with batch := t.k }
    let flush := (c.w 0).getLsbD 42
    if t.closing && (k.status == 0 || flush) then Eng.hold treWaitQ []
    else if k.status = 0 then
      let bw := t.batchWords
      let at_ := batchBuf bw t.k.toNat + BitVec.ofNat 64 (16 * t.bcnt)
      let ent := leBytes k.node 4 ++ leBytes (ndAction k.snap) 4 ++ leBytes (k.path.length - 1) 2 ++ leBytes 0 2 ++ leBytes k.ser.toNat 4
      descentFails k do
        engLocal c.ctx at_
        engWrite (whoT c.ctx) at_ ent
        Eng.setTree die c fun t => { t with bcnt := t.bcnt + 1, batch := bw }
        let k := { k with pos := t.bcnt }
        if cfgBatch bw ≤ t.bcnt + 1 ∨ flush = true then closeBatch die c k else pure (.ends (descentElem c k))
    else if flush = true ∧ t.bcnt ≠ 0 then closeBatch die c k
    else pure (.ends (descentElem c k))
  | _ =>
    thenCount die c.tid (publishBatch src c k)
    pure (.ends (descentElem c k))

def tdescWork (src : Nat) (s : State) (c : Cmd) : State := runPace s src c (tdescEng src c)

/-- TDESC (13 R353): a step of the running descent, or the start of the head. -/
def execTdesc (src : Nat) (s : State) : Host.Outcome State Fault Refusal :=
  treRow src s (·.op == 1) [treWaitBatch, treWaitInfl, treWaitDrain]
    (treCheck 1 (fun _ => false) (fun _ c => need (bitsAt (c.w 0) 0 42 == 0)) src) (tdescWork src)

/-- BATCH_QUEUE_WAIT_END (13 R356): a TDESC in WAITQ publishes its batch once an entry is free, on the die
its record names (10 R266), or goes on once the batch it would join or close is counted; else it waits on. -/
def execBatchQueueWaitEnd (src : Nat) (s : State) : Host.Outcome State Fault Refusal :=
  let st := s.estream engTre src
  match st.run with
  | some c =>
    let room := decide ((s.qmg (recDie (s.walkOf src).record)).tasks.length < qmgEntries)
    let free := if st.prog = 4 then !(s.tree (dieOfSrc src) c.tid).closing else room
    if st.wait = treWaitQ ∧ (free && runRoom s engTre src) = true then .next (tdescWork src (endWait s engTre src) c)
    else .next s
  | none => .next s

/-! ### Expansion (13 R358) -/

/-- Bytes 6-7 and P of a list's entries (13 R358). -/
def childOk (x : W64) : Bool :=
  bitsAt x 48 16 == 0 && finiteNonNeg (BitVec.ofNat 32 (bitsAt x 32 16 * 65536))

/-- TEXPAND's own fields (13 R358). -/
def texpandCheck (src : Nat) (s : State) (c : Cmd) : Option (Code × W64) :=
  let gsz := cfgGsz (s.tree (dieOfSrc src) c.tid).words
  let nc := bitsAt (c.w 0) 32 9
  let term := (c.w 0).getLsbD 42
  firstOf [need (bitsAt (c.w 0) 41 1 == 0 && bitsAt (c.w 0) 0 32 == 0 && bitsAt (c.w 1) 32 32 == 0),
    need (if term then nc == 0 else decide (1 ≤ nc) && decide (nc ≤ gsz)), need (if term then c.w 2 == 0 else (c.w 2).toNat % 8 == 0) (c.w 2)]

/-- The children of a group written, each whole. -/
def writeChildren (r : TreeRef) (parent b : Nat) : List W64 → Nat → Eng Unit
  | [], _ => pure ()
  | x :: rest, k => do
    writeNode r (b + k) (newNode (bitsAt x 32 16) parent 0 (bitsAt x 0 32))
    writeChildren r parent b rest (k + 1)

/-- A checked leaf with its children read: a group is popped, waiting for one under reclaim, its children written, and then the
leaf updated (13 R358). -/
def growLeaf (src : Nat) (c : Cmd) (k : Walk) : Eng (Option (List W64)) := do
  let die := dieOfSrc src
  let t ← Eng.tree die c
  let r := c.treeRef die k.words
  if t.fcnt = 0 ∧ t.reclaim ≠ [] then
    Eng.change fun s => goPhase s src 1 k
    Eng.hold treWaitPool []
  Eng.check (t.fcnt != 0) fltNodePool (nodeAt k.words k.node)
  let at_ := cfgFree k.words + BitVec.ofNat 64 (4 * (t.fcnt - 1))
  engLocal c.ctx at_
  let g ← engVal (whoT c.ctx) at_ 4
  Eng.setTree die c fun t => { t with fcnt := t.fcnt - 1 }
  let b := g * cfgGsz k.words
  writeChildren r k.node b k.kids 0
  let _ ← updateNode r k.node fun n =>
    ndSetFlag (ndSetFlag (ndSet (ndSet n 1 32 32 b) 2 0 16 k.kids.length) 0 true) 1 false
  pure (noted c [BitVec.ofNat 64 b])

/-- TEXPAND (13 R358): phase 0 reads its list and its leaf, once; 1 follows a WAITPOOL, and meets a leaf that another has
expanded meanwhile (R363). -/
def texpandEng (src : Nat) (c : Cmd) : Eng (Option (List W64)) := do
  let die := dieOfSrc src
  let s ← Eng.now
  match (s.estream engTre src).prog with
  | 0 =>
    let t ← Eng.tree die c
    let ws := t.words
    let r := c.treeRef die ws
    let leaf := (c.w 1).toNat
    let kids := words64 (← engRead (whoT c.ctx) (c.w 2) (8 * bitsAt (c.w 0) 32 9))
    Eng.check (kids.all childOk) fltBadCmd (c.w 2)
    Eng.check (inPool ws leaf) fltBadCmd (nodeAt ws leaf)
    let n ← readNode r leaf
    Eng.check (!ndFlag n 0 && !ndFlag n 2 && !ndFlag n 3) fltBadCmd (nodeAt ws leaf)
    if (c.w 0).getLsbD 42 then
      let _ ← updateNode r leaf fun n => ndSetFlag (ndSetFlag n 2 true) 1 false
      pure (noted c [BitVec.ofNat 64 noNode])
    else growLeaf src c { words := ws, node := leaf, kids := kids }
  | _ =>
    let k := s.walkOf src
    let n ← readNode (c.treeRef die k.words) k.node
    Eng.check (!ndFlag n 0) fltBadCmd (nodeAt k.words k.node)
    growLeaf src c k

def texpandWork (src : Nat) (s : State) (c : Cmd) : State :=
  runEng s engTre src c (treStatus src) (texpandEng src c)

/-- TEXPAND (13 R358). -/
def execTexpand (src : Nat) (s : State) : Host.Outcome State Fault Refusal :=
  treRow src s (·.op == 2) [] (treCheck 3 (fun _ => false) (texpandCheck src) src) (texpandWork src)

/-- POOL_WAIT_END (13 R358): a waiting TEXPAND takes a reclaimed group, or finds none to come. -/
def execPoolWaitEnd (src : Nat) (s : State) : Host.Outcome State Fault Refusal :=
  let st := s.estream engTre src
  match st.run with
  | some c =>
    let t := s.tree (dieOfSrc src) c.tid
    if st.wait = treWaitPool ∧ (t.fcnt ≠ 0 ∨ t.reclaim = []) ∧ runRoom s engTre src = true then .next (texpandWork src (endWait s engTre src) c) else .next s
  | none => .next s

/-! ### Backup (13 R359) -/

/-- TBACK's own fields. -/
def tbackCheck (c : Cmd) : Option (Code × W64) :=
  let v := bitsAt (c.w 1) 32 32
  need (bitsAt (c.w 0) 0 42 == 0 && finite32 v && (!(c.w 0).getLsbD 42 || v == 0))

/-- One node's update in a backup (13 R359). -/
def backNode (undo : Bool) (v : BitVec 32) (isLeaf : Bool) (n : List W64) : List W64 :=
  let n1 := if undo then n else ndSet (if ndN n = 2 ^ 32 - 1 then n else ndSet n 0 0 32 (ndN n + 1)) 0 32 32 (fadd32 (ndW n) v).toNat
  let n2 := if ndVl n = 0 then n1 else ndSet n1 1 0 16 (ndVl n - 1)
  if isLeaf then ndSetFlag n2 1 false else n2

/-- A step of TBACK: phase 0 starts; 1 reads a node of the chain, and finds it writable, so that no fault meets an update; 2
updates one where it was found, leaf first. -/
def tbackEng (src : Nat) (c : Cmd) : Eng Pace := do
  let die := dieOfSrc src
  let s ← Eng.now
  let k := s.walkOf src
  let r := c.treeRef die k.words
  let leaf := bitsAt (c.w 1) 0 32
  let undo := (c.w 0).getLsbD 42
  match (s.estream engTre src).prog with
  | 0 =>
    let t ← Eng.tree die c
    pure (.on 1 { words := t.words, node := leaf })
  | 1 =>
    Eng.check (inPool k.words k.node) fltBadCmd (nodeAt k.words k.node)
    let n ← readNode r k.node
    let l ← writablePlace r k.node
    Eng.check (!ndFlag n 3) fltBadCmd (nodeAt k.words k.node)
    let k := { k with path := k.path ++ [k.node], places := k.places ++ [l] }
    Eng.check (decide (k.path.length ≤ cfgDmax k.words + 1)) fltPathDepth (nodeAt k.words k.node)
    if ndParent n = noNode then
      Eng.check (ndFlag n 4) fltBadCmd (nodeAt k.words k.node)
      pure (.on 2 { k with child := 0 })
    else pure (.on 1 { k with node := ndParent n })
  | _ => match (k.path.zip k.places)[k.child]? with
    | some (i, l) =>
      let v := BitVec.ofNat 32 (bitsAt (c.w 1) 32 32)
      let n ← updateAt r i l (backNode undo (if k.neg then neg32 v else v) (i == leaf))
      pure (.on 2 { k with
        child := k.child + 1, neg := k.neg != cfgTwo k.words, under := k.under || ndVl n == 0
        nsat := k.nsat || (!undo && ndN n == 2 ^ 32 - 1) })
    | none =>
      let t := s.tree die c.tid
      Eng.setTree die c fun t => { t with infl := t.infl - 1 }
      pure (.ends (noted c [BitVec.ofNat 64 (k.path.length % 256 + (k.under || t.infl == 0).toNat * 256 + k.nsat.toNat * 512)]))

/-- TBACK (13 R359). -/
def execTback (src : Nat) (s : State) : Host.Outcome State Fault Refusal :=
  treRow src s (·.op == 3) [] (treCheck 2 (fun _ => false) (fun _ c => tbackCheck c) src)
    fun s c => runPace s src c (tbackEng src c)

/-! ### Re-rooting (13 R360) -/

/-- A node read that misses is no node with children. -/
def peekNode (r : TreeRef) (i : Nat) : Eng (List W64) := fun s =>
  match readNode r i s with
  | (.ok n, s') => (.ok n, s')
  | (.error _, s') => (.ok [], s')

/-- The groups of subtrees in preorder: the nodes still to visit, in order. -/
def subtreeGroups (r : TreeRef) : Nat → List Nat → Eng (List Nat)
  | 0, _ => pure []
  | _ + 1, [] => pure []
  | fuel + 1, i :: rest => do
    let n ← peekNode r i
    if ndFlag n 0 then
      let kids := (List.range (ndCcnt n)).map (ndCbase n + ·)
      pure (ndCbase n / cfgGsz r.words :: (← subtreeGroups r fuel (kids ++ rest)))
    else subtreeGroups r fuel rest

/-- DEAD set on children, ascending. -/
def markDead (r : TreeRef) : List Nat → Eng Unit
  | [] => pure ()
  | j :: rest => do
    let _ ← updateNode r j fun n => ndSetFlag n 3 true
    markDead r rest

/-- TREUSE once it has drained. -/
def rerootEng (die : Nat) (c : Cmd) (k : Walk) : Eng Pace := do
  let t ← Eng.tree die c
  if t.infl ≠ 0 then Eng.hold treWaitDrain []
  Eng.check (t.bcnt == 0) fltBadCmd 0
  let r := c.treeRef die k.words
  let new := ndCbase k.snap + bitsAt (c.w 0) 0 16
  let others := ((List.range (ndCcnt k.snap)).map (ndCbase k.snap + ·)).filter (· != new)
  let _ ← updateNode r new fun n => ndSetFlag (ndSet n 2 32 32 noNode) 4 true
  markDead r others
  let gs ← subtreeGroups r (cfgNgrp k.words * cfgGsz k.words + 1) others
  Eng.setTree die c fun t => { t with root := new, drain := false, reclaim := t.reclaim ++ k.node / cfgGsz k.words :: gs }
  pure (.ends (noted c [BitVec.ofNat 64 new]))

/-- A step of TREUSE: phase 0 checks the root and sets DRAIN; 1 waits for the drain and re-roots. A fault ends the drain. -/
def treuseEng (src : Nat) (c : Cmd) : Eng Pace := do
  let die := dieOfSrc src
  let s ← Eng.now
  match (s.estream engTre src).prog with
  | 0 =>
    let t ← Eng.tree die c
    let n ← readNode (c.treeRef die t.words) t.root
    Eng.check (ndFlag n 0 && decide (bitsAt (c.w 0) 0 16 < ndCcnt n)) fltBadCmd (nodeAt t.words t.root)
    Eng.setTree die c fun t => { t with drain := true }
    pure (.on 1 { words := t.words, node := t.root, snap := n })
  | _ => fun s => match rerootEng die c (s.walkOf src) s with
    | (.error (.flt code a), s') => (.error (.flt code a), s'.setTree die c.tid { s'.tree die c.tid with drain := false })
    | r => r

def treuseWork (src : Nat) (s : State) (c : Cmd) : State := runPace s src c (treuseEng src c)

/-- TREUSE (13 R360). -/
def execTreuse (src : Nat) (s : State) : Host.Outcome State Fault Refusal :=
  treRow src s (·.op == 4) [] (treCheck 1 (fun _ => false) (fun _ c => need (bitsAt (c.w 0) 16 27 == 0)) src) (treuseWork src)

/-- DRAIN_END (13 R360): INFL has reached 0, and a waiting TREUSE proceeds. -/
def execDrainEnd (src : Nat) (s : State) : Host.Outcome State Fault Refusal :=
  let st := s.estream engTre src
  match st.run with
  | some c =>
    if c.op = 4 ∧ st.wait = treWaitDrain ∧ (s.tree (dieOfSrc src) c.tid).infl = 0 ∧ runRoom s engTre src = true then
      .next (treuseWork src (endWait s engTre src) c)
    else .next s
  | none => .next s

/-- TREE_RECLAIM (13 R348, R360): the first group that waits is pushed on the free stack. -/
def execTreeReclaim (die tid : Nat) (s : State) : Host.Outcome State Fault Refusal :=
  let t := s.tree die tid
  match t.reclaim with
  | [] => .next s
  | g :: rest => match writeVal s (whoT t.ctx) (cfgFree t.words + BitVec.ofNat 64 (4 * t.fcnt)) 4 g with
    | .error (.flt _ _ seen) => .next (seen.getD s)
    | .error .wait => .next s
    | .ok s => .next (s.setTree die tid { t with fcnt := t.fcnt + 1, reclaim := rest })

/-! ### Configuration and status (13 R361, R362) -/

/-- OP of a TCFG. -/
def Cmd.cfgOp (c : Cmd) : Nat := bitsAt (c.w 0) 41 2

/-- TCFG's checks. -/
def tcfgCheck (src : Nat) : State → Cmd → Option (Code × W64) :=
  treCheck 2 (fun c => c.cfgOp == 0)
    (fun s c => firstOf [need (bitsAt (c.w 0) 0 41 == 0 && c.cfgOp != 3), need (c.cfgOp != 2 || c.w 1 == 0) (c.w 1),
      need (c.cfgOp != 0 || !(s.tree (dieOfSrc src) c.tid).live)]) src

/-- A TCFG whose OP is reserved faults at whichever of the three steps meets it. -/
def tcfgMine (op : Nat) (c : Cmd) : Bool := c.op == 5 && (c.cfgOp == op || c.cfgOp == 3)

/-- TCFG INIT (13 R348, R361). -/
def tcfgInitEng (die : Nat) (c : Cmd) : Eng (Option (List W64)) := do
  let w := whoT c.ctx
  let s ← Eng.now
  Eng.check (!(s.tree die c.tid).live) fltBadCmd 0
  let ws ← readCfg c.ctx (c.w 1)
  let n := cfgNgrp ws - 1
  writeNode (c.treeRef die ws) 0 (newNode 0x3F80 noNode 0x10 0)
  engWrite w (cfgFree ws) ((List.range n).flatMap fun i => leBytes (n - i) 4)
  Eng.setTree die c fun _ => { live := true, ctx := c.ctx, words := ws, fcnt := n }
  pure (noted c [0])

/-- TCFG INIT (13 R361). -/
def execTcfgInit (src : Nat) (s : State) : Host.Outcome State Fault Refusal :=
  treRow src s (tcfgMine 0) [] (tcfgCheck src) fun s c => runEng s engTre src c (treStatus src) (tcfgInitEng (dieOfSrc src) c)

/-- TCFG SETP (13 R361). -/
def tcfgSetpEng (die : Nat) (c : Cmd) : Eng (Option (List W64)) := do
  let t ← Eng.tree die c
  let ws ← readCfg c.ctx (c.w 1)
  Eng.check (ws.take 6 == t.words.take 6) fltBadCmd (c.w 1)
  Eng.setTree die c fun t => { t with words := ws }
  pure (noted c [0])

/-- TCFG SETP (13 R361). -/
def execTcfgSetp (src : Nat) (s : State) : Host.Outcome State Fault Refusal :=
  treRow src s (tcfgMine 1) [] (tcfgCheck src) fun s c => runEng s engTre src c (treStatus src) (tcfgSetpEng (dieOfSrc src) c)

/-- TCFG RELEASE (13 R361). -/
def tcfgReleaseEng (die : Nat) (c : Cmd) : Eng (Option (List W64)) := do
  let t ← Eng.tree die c
  if t.infl ≠ 0 ∨ t.reclaim ≠ [] then Eng.hold treWaitDrain []
  Eng.setTree die c fun _ => {}
  pure (noted c [0])

/-- TCFG RELEASE (13 R361). -/
def execTcfgRelease (src : Nat) (s : State) : Host.Outcome State Fault Refusal :=
  treRow src s (tcfgMine 2) [treWaitDrain] (tcfgCheck src)
    fun s c => runEng s engTre src c (treStatus src) (tcfgReleaseEng (dieOfSrc src) c)

/-- TSTAT (13 R362). -/
def tstatEng (die : Nat) (c : Cmd) : Eng (Option (List W64)) := do
  let t ← Eng.tree die c
  if (c.w 0).getLsbD 42 then
    pure (some [BitVec.ofNat 64 (t.root + t.fcnt * 2 ^ 32), BitVec.ofNat 64 (t.k.toNat + t.bcnt * 2 ^ 32 + t.infl * 2 ^ 48),
      BitVec.ofNat 64 (t.dser.toNat + t.reclaim.length * 2 ^ 32), BitVec.ofNat 64 (1 + t.drain.toNat * 2)])
  else
    let i := (c.w 1).toNat
    Eng.check (inPool t.words i) fltBadCmd (nodeAt t.words i)
    pure (some (← readNode (c.treeRef die t.words) i))

/-- TSTAT (13 R362). -/
def execTstat (src : Nat) (s : State) : Host.Outcome State Fault Refusal :=
  treRow src s (·.op == 6) []
    (treCheck 2 (fun _ => false) (fun _ c => need (bitsAt (c.w 0) 0 42 == 0 && !c.note && (!(c.w 0).getLsbD 42 || c.w 1 == 0))) src)
    fun s c => runEng s engTre src c (treStatus src) (tstatEng (dieOfSrc src) c)

/-! ### The engine (13 R351, R364, R365) -/

/-- TRE_COMPLETE (13 R351). -/
def execTreComplete (src : Nat) (s : State) : Host.Outcome State Fault Refusal := .next (completeCmd s engTre src)

/-- A stopped descent's path undone at once. -/
def undoPath (r : TreeRef) : List Nat → State → State
  | [], s => s
  | i :: rest, s => undoPath r rest (updateNode r i (fun n => ndSet n 1 0 16 (ndVl n + 65535)) s).2

/-- The child a descent chooses at a node as the tree stands (13 R354). -/
def chosenChild (s : State) (r : TreeRef) (n : List W64) : Nat :=
  let i := ndCbase n
  match (List.range (ndCcnt n)).foldl (fun best k => match readNode r (i + k) s with
    | (.ok ch, _) => let x := nodeScore r.words (ndN n) ch; if beats x best then some (x, i + k) else best
    | (.error _, _) => best) none with
  | some (_, j) => j
  | none => i

/-- The clocks of a descent from a node on, as the tree stands (13 R366): 100 a level, 4 a child scored; fuel the levels left. -/
def descentClocks (s : State) (r : TreeRef) : Nat → Nat → Nat
  | 0, _ => 0
  | fuel + 1, x => 100 + match readNode r x s with
    | (.ok n, _) => if ndFlag n 0 && !ndFlag n 2 && decide (0 < fuel) then 4 * ndCcnt n + descentClocks s r fuel (chosenChild s r n) else 0
    | (.error _, _) => 0

/-- The nodes of a chain from a node up, as the tree stands; fuel the nodes left. -/
def chainLength (s : State) (r : TreeRef) : Nat → Nat → Nat
  | 0, _ => 0
  | fuel + 1, x => 1 + match readNode r x s with
    | (.ok n, _) => if ndParent n = noNode then 0 else chainLength s r fuel (ndParent n)
    | (.error _, _) => 0

/-- The work bound of a running command, in clocks (13 R366): what it has done, and what is before it as the tree stands (log 48).
The table gives SETP and RELEASE none. -/
def treBound (s : State) (src : Nat) (c : Cmd) : Nat :=
  let die := dieOfSrc src
  let prog := (s.estream engTre src).prog
  let t := s.tree die c.tid
  let k : Walk := if prog = 0 then { words := t.words, node := t.root } else s.walkOf src
  let r := c.treeRef die k.words
  let levels := cfgDmax k.words + 1 - k.path.length
  match c.op with
  | 1 =>
    let ahead := match prog with
      | 0 | 1 => descentClocks s r levels k.node
      | 2 => 4 * ndCcnt k.snap + descentClocks s r levels (chosenChild s r k.snap)
      | _ => 0
    let closes := k.closed || (decide (prog < 5) && ((c.w 0).getLsbD 42 || decide (cfgBatch t.batchWords ≤ t.bcnt + 1)))
    200 + 100 * k.path.length + 4 * k.scored + ahead + (if closes then 600 else 0)
  | 2 => 300 + 2 * bitsAt (c.w 0) 32 9
  | 3 =>
    let next := if prog = 0 then bitsAt (c.w 1) 0 32 else k.node
    200 + 60 * (k.path.length + if prog < 2 then chainLength s r levels next else 0)
  | 4 => 400 + 2 * match prog with
    | 0 => (match readNode r k.node s with | (.ok n, _) => ndCcnt n | (.error _, _) => 0)
    | _ => ndCcnt k.snap
  | 5 =>
    if c.cfgOp = 0 then 400 + match readVal s (whoT c.ctx) (c.w 1 + 8) 8 with | .ok (_, x) => x % 2 ^ 32 | .error _ => 0
    else 0
  | _ => 200

/-- TRE_CMDBOUND (13 R364): a descent in flight is undone first (R353), a closed batch is counted (R356), and a re-root's drain
ends. A backup that has begun its updates ends them: one that faults changes nothing (R359). -/
def execTreCmdbound (src : Nat) (s : State) : Host.Outcome State Fault Refusal :=
  let st := s.estream engTre src
  let die := dieOfSrc src
  match st.run with
  | none => .next s
  | some c =>
    if !st.working || !boundDue s engTre src (treBound s src c) || (c.op == 3 && decide (2 ≤ st.prog)) then .next s
    else
      let k := s.walkOf src
      let t := fun (s : State) => s.tree die c.tid
      let s :=
        if c.op = 1 ∧ 1 ≤ st.prog ∧ st.prog ≤ 4 ∧ !(st.prog == 4 && k.status == 1) then
          let s := undoPath (c.treeRef die k.words) (if st.prog = 3 then k.path.drop k.child else k.path) s
          s.setTree die c.tid { t s with infl := (t s).infl - 1 }
        else if c.op = 4 ∧ st.prog = 1 then s.setTree die c.tid { t s with drain := false }
        else if c.op = 1 ∧ st.prog = 5 then countBatch die c.tid s
        else s
      .next (stopCmd s engTre src c fltCmdBound 0 (treStatus src))

/-- TRE_FLUSH (13 R365). -/
def execTreFlush (core : Nat) (s : State) : Host.Outcome State Fault Refusal := .next (flushStream s engTre core)

/-- TRE_SKIP (13 R365). -/
def execTreSkip (core : Nat) (s : State) : Host.Outcome State Fault Refusal := .next (skipStream s engTre core)

/-- TRE_RESUME (13 R365). -/
def execTreResume (core : Nat) (s : State) : Host.Outcome State Fault Refusal := .next (resumeStream s engTre core)

end Sys2Proof.Machine
end

