-- ==== Sys2Proof/Machine/Sch.lean ====
section
/-! DEFINITION. The retrieval engines and the flash index (spec 14 R367-R393): objects, hops, searches, the append log, passage
fetches. An index image is what a free function makes of its bytes, brought into R370's bounds (log 14); a command between its waits
is one act (log 32). -/

namespace Sys2Proof

/-- What an index image and a passage store hold: the spec gives neither a format (14 R370; log 14). -/
opaque Config.indexImage : List Byte → List Byte → Machine.ObjImage

/-- Where a merge places a vector: its neighbours, its list and its page, by a free count and its id (14 R383; log 14). -/
opaque Config.mergedPlace : Nat → Nat → List Nat × Nat × Machine.Page

namespace Machine

namespace State

def obj (s : State) (xid : Nat) : Obj := Tab.get {} s.objs xid
def setObj (s : State) (xid : Nat) (o : Obj) : State := { s with objs := Tab.set s.objs xid o }
def ctlr (s : State) (c : Nat) : Ctl := Tab.get {} s.ctls c
def setCtlr (s : State) (c : Nat) (k : Ctl) : State := { s with ctls := Tab.set s.ctls c k }
def look (s : State) (src : Nat) : Look := Tab.get {} s.looks src
def setLook (s : State) (src : Nat) (k : Look) : State := { s with looks := Tab.set s.looks src k }

end State

/-! ### Objects (14 R370-R372) -/

/-- CSZ (14 R372). -/
def Obj.csz (o : Obj) : Nat := 64 * ((o.codeBytes + 63) / 64)

/-! ### Images and merges in their bounds (14 R370, R371; log 14) -/

/-- A page as an image or a merge places it: what it is of its own (vertices, one inverted list, one passage block), the page, and
the how-manieth of the pages that what is placed there fills. -/
structure Placed where
  kind : Nat
  own : Nat
  page : Page
  nth : Nat := 0
  deriving DecidableEq

/-- A page's number among those that stand in order, from `base` up, and its controller and NAND die (14 R367, R370). -/
def pageOf (ps : List Placed) (base : Nat) (p : Placed) : Page := ⟨base + ps.idxOf p, p.page.ctl % 32, p.page.nand % 8⟩

/-- Records placed in turn, each on the page `at_` names while its 16 KiB hold it, else on the next one that page's records fill; `used`
is what stands on the pages, the last filled first. -/
def fillPages {α : Type} (size : α → Nat) (at_ : α → Placed) : List (Placed × Nat) → List α → List (α × Placed)
  | _, [] => []
  | used, x :: rest =>
    let (p, n) := (used.find? fun u => { u.1 with nth := 0 } == at_ x).getD (at_ x, 0)
    let (p, n) := if n + size x ≤ 16384 then (p, n) else ({ p with nth := p.nth + 1 }, 0)
    (x, p) :: fillPages size at_ ((p, n + size x) :: used) rest

/-- The first of each id, of 40 bits. -/
def firstIds {α : Type} (id : α → Nat) (xs : List α) : List α :=
  (xs.filter fun x => decide (id x < 2 ^ 40)).foldl (fun ys x => if ys.any fun y => id y == id x then ys else ys ++ [x]) []

/-- n bytes. -/
def fitBytes (n : Nat) (bs : List Byte) : List Byte := bs.take n ++ List.replicate (n - bs.length) 0

/-- The bytes of a vector's record: its code, its id and its neighbours' ids, of 40 bits each (14 R370; log 14). -/
def recordBytes (cb : Nat) (v : Vec) : Nat := cb + 5 + 5 * v.nbrs.length

/-- A segment set in its bounds: ids once, at most `room` vectors, `deg` neighbours each, codes of `cb` bytes, lists of their own
pages, no page past its 16 KiB; the pages numbered from `base` up. -/
def SegSet.bounded (graph : Bool) (deg cb room base : Nat) (st : SegSet) : SegSet :=
  let lists := max 1 (min st.entry 65536)
  let vs := ((firstIds Vec.id st.vecs).take room).map fun v =>
    { v with
      code := fitBytes cb v.code, nbrs := if graph then v.nbrs.take deg else [], list := if graph then 0 else v.list % lists }
  let placed := fillPages (recordBytes cb) (fun v => ⟨if graph then 0 else 1, v.list, v.page, 0⟩) [] vs
  let ps := (placed.map Prod.snd).eraseDups
  { vecs := placed.map fun (v, p) => { v with page := pageOf ps base p }
    entry := if graph then st.entry % 2 ^ 40 else lists
    merged := st.merged }

/-- The bytes of a block's key or value rows: layers × heads × 64 rows of the geometry (11 R300, R301). -/
def geomBytes (pgeom fmt : Nat) : Nat :=
  (bitsAt pgeom 8 7 + 1) * (bitsAt pgeom 15 4 + 1) * 64 * rowBytesOf (32 * (bitsAt pgeom 19 2 + 1)) fmt

/-- The pages of a passage block of n bytes: its own, as many as its rows fill at least (14 R370). -/
def blockPages (n own : Nat) (pages : List Page) : List Placed :=
  let ps := pages.eraseDups.map fun g => (⟨2, own, g, 0⟩ : Placed)
  ps ++ (List.range (max 1 ((n + 16383) / 16384) - ps.length)).map fun k => ⟨2, own, pages.headD default, k + 1⟩

/-- A passage store in its bounds: fewer than 2^32 ids, each once, 1 to 16 blocks each, every block's pages its own, numbered from 0
up. -/
def boundedPassages (pgeom : Nat) (xs : List Passage) : List Passage :=
  let xs := (firstIds Passage.id (xs.filter fun p => !p.blocks.isEmpty)).take (2 ^ 32 - 1)
  let placed := fun (x i : Nat) (b : PBlock) =>
    blockPages (geomBytes pgeom (bitsAt pgeom 0 4) + geomBytes pgeom (bitsAt pgeom 4 4)) (16 * x + i) b.pages
  let ps := (xs.zipIdx.flatMap fun (p, x) => (p.blocks.take 16).zipIdx.flatMap fun (b, i) => placed x i b).eraseDups
  xs.zipIdx.map fun (p, x) => ⟨p.id, (p.blocks.take 16).zipIdx.map fun (b, i) =>
    ⟨b.mask, fitBytes (geomBytes pgeom (bitsAt pgeom 0 4)) b.keys, fitBytes (geomBytes pgeom (bitsAt pgeom 4 4)) b.vals,
      (placed x i b).map (pageOf ps 0)⟩⟩

/-- The pages of a passage store. -/
def passagePages (xs : List Passage) : Nat := ((xs.flatMap Passage.blocks).flatMap PBlock.pages).eraseDups.length

/-- An image in its bounds, with room for so many vectors; its merge position is 0. -/
def ObjImage.bounded (room : Nat) (i : ObjImage) : ObjImage :=
  let kind := i.kind % 2
  let ck := i.ck % 5
  let degm1 := if kind = 0 then i.degm1 % 64 else 0
  let o : Obj := { img := { i with ck := ck, dq := i.dq % 128 } }
  let ps := boundedPassages (i.pgeom % 2 ^ 21) i.passages
  { kind := kind, ck := ck, metric := if ck = 4 then 2 else i.metric % 2, degm1 := degm1, dq := i.dq % 128
    cent := if kind = 0 then 0 else i.cent, logbase := i.logbase &&& ~~~63, logcap := max 64 (min i.logcap (2 ^ 24))
    pgeom := i.pgeom % 2 ^ 21, passages := ps
    set := { i.set.bounded (kind == 0) (degm1 + 1) o.codeBytes room (passagePages ps) with merged := 0 } }

/-- The vectors that the objects of a package hold at most (14 R370). -/
def vectorLimit : Nat := 16000000000

/-- The vectors of every live object but one. -/
def vectorsBeside (s : State) (xid : Nat) : Nat :=
  s.objs.foldl (fun n kv => if kv.1 ≠ xid ∧ kv.2.live = true then n + kv.2.set.vecs.length else n) 0

/-- The status entry of an object (14 R371). -/
def Obj.status (o : Obj) : List Nat :=
  let i := o.img
  [o.owner * 2 ^ 32 + o.live.toNat * 2 ^ 31 + o.pstore.toNat * 2 ^ 30 + i.kind % 4 * 2 ^ 28 + i.ck % 8 * 2 ^ 25 + i.metric % 4 * 2 ^ 23
      + i.degm1 % 64 * 2 ^ 17 + i.dq % 128 * 2 ^ 10 + o.merging.toNat * 2 ^ 9 + o.mfail.toNat * 2 ^ 8,
    o.set.vecs.length, o.set.entry, i.cent.toNat, i.logbase.toNat, o.esz * 2 ^ 32 + i.logcap, o.head, o.sealPos, o.flushed, o.set.merged,
    i.pgeom * 2 ^ 32 + i.passages.length, 0, 0, 0, 0, 0]

/-- An object changed, and its status entry written, once the table is set up (14 R371, 18 R495). -/
def putObj (s : State) (xid : Nat) (o : Obj) : State :=
  let s := s.setObj xid o
  if s.schobj = 0 then s else devWrite s (s.schobj + 128 * xid) (o.status.flatMap fun w => leBytes w 8)

/-- The address of an object's status entry. -/
def statusAt (s : State) (xid : Nat) : W64 := BitVec.ofNat 64 (s.schobj + 128 * xid)

/-- The format of a code's elements. -/
def codeFmt : Nat → Fmt
  | 0 => .e4m3 | 1 => .e5m2 | 2 => .int8 | _ => .int4

/-- The elements of a code (14 R372). -/
def Obj.elems (o : Obj) (code : List Byte) : List Fl :=
  let f := codeFmt o.img.ck
  let v := leValue code
  (List.range o.dim).map fun i => f.decode (lane f.bits v i)

/-- Bits in which two codes differ. -/
def bitsApart (a b : List Byte) : Nat := (List.zipWith (fun x y => (List.range 8).countP fun i => (x ^^^ y).getLsbD i) a b).foldl (· + ·) 0

/-- The distance between a query and a code (14 R372). -/
def Obj.dist (o : Obj) (q c : List Byte) : BitVec 32 :=
  if o.img.ck = 4 then rne32 (Fl.ofInt (bitsApart q c))
  else
    let x := o.elems q
    let y := o.elems c
    if (x ++ y).any fun e => e.isNan || e.isInf then nan32
    else
      let diff := fun (a b : Fl) => (Fl.add .rne a b.neg).1
      let terms := List.zipWith (fun a b => if o.img.metric = 0 then (Fl.mul (diff a b) (diff a b)).1 else (Fl.mul a b).1.neg) x y
      let t := exactSum terms
      if t.isZero then 0 else rne32 t

/-- Distances by value, every NaN above +∞ (14 R372). -/
def distCmp (a b : BitVec 32) : Ordering :=
  let x := f32 a
  let y := f32 b
  if x.isNan then (if y.isNan then .eq else .gt) else if y.isNan then .lt else Fl.cmp x y

/-- Pairs (id, distance) by distance, then id. -/
def pairLe (a b : Nat × BitVec 32) : Bool :=
  match distCmp a.2 b.2 with
  | .lt => true
  | .gt => false
  | .eq => decide (a.1 ≤ b.1)

def posInf32 : BitVec 32 := 0x7F800000#32

/-! ### The append log (14 R376, R380, R384) -/

/-- The engine's master. -/
def whoS (ctx : Nat) : Who := whoE engSch 0 ctx

/-- The address of a log position in the mirror. -/
def Obj.logAt (o : Obj) (p : Nat) : W64 := o.img.logbase + BitVec.ofNat 64 (o.esz * (p % o.img.logcap))

/-- A log entry's bytes (14 R380). -/
def logBytes (o : Obj) (p id : Nat) (tomb : Bool) (code : List Byte) : List Byte :=
  let bs := leBytes (id + tomb.toNat * 2 ^ 63) 8 ++ leBytes p 8 ++ code
  bs ++ List.replicate (o.esz - bs.length) 0

/-- The mirror's bytes at a position are those an append wrote there, where one did and no restoration is to come. -/
def Obj.intact (o : Obj) (p : Nat) (bs : List Byte) : Bool :=
  o.restoring || (o.tail.filter fun e => e.pos == p).all fun e => bs == logBytes o p e.id e.tomb e.code

/-- A log entry read from the mirror, or, since a restart, from flash below the position that was programmed then (14 R384); a mirror
found changed by software spoils the object (14 R380). -/
def readLogEnt (xid : Nat) (o : Obj) (p : Nat) : Eng LogEnt := do
  if p < o.cold then
    match o.flash.find? fun e => e.pos == p with
    | some e => return e
    | none => pure ()
  let bs ← engRead (whoS o.owner) (o.logAt p) o.esz
  if !o.intact p bs then Eng.change fun s => s.setObj xid { s.obj xid with spoiled := true }
  let w := leValue (bs.take 8)
  pure ⟨p, w % 2 ^ 40, w.testBit 63, (bs.drop 16).take o.codeBytes⟩

/-- n entries from a position up. -/
def readLog (xid : Nat) (o : Obj) : Nat → Nat → Eng (List LogEnt)
  | 0, _ => pure []
  | n + 1, p => do pure ((← readLogEnt xid o p) :: (← readLog xid o n (p + 1)))

/-- For each id the entry with the highest position decides: those that decide (14 R376). -/
def deciding (es : List LogEnt) : List LogEnt := es.filter fun e => !es.any fun f => f.id == e.id && decide (e.pos < f.pos)

/-- An id the log entries decide is hidden in the segments. -/
def hiddenBy (es : List LogEnt) (id : Nat) : Bool := es.any fun e => e.id == id

/-! ### Registers and checks (14 R373, R391) -/

def schKnown (op : Nat) : Bool := decide (1 ≤ op) && decide (op ≤ 6)

def Cmd.xid (c : Cmd) : Nat := bitsAt (c.w 0) 41 6

/-- WAITLOG and WAITMERGE. -/
def waitLog : Nat := 2
def waitMerge : Nat := 3

/-- ctl.schst. -/
def schStatus (src : Nat) (s : State) : W64 :=
  let st := s.estream engSch src
  let state := if st.stopped then 4 else if st.wait ≠ 0 then st.wait else if st.run.isSome then 1 else 0
  BitVec.ofNat 64 (st.taken.toNat * 2 ^ 32 + state * 2 ^ 29 + (if st.stopped then st.code.toNat else 0))

/-- ctl.schret; its read clears it. -/
def schRet (s : State) : W64 := BitVec.ofNat 64 (s.schRetry * 2 ^ 32 + s.schLimit)

/-- Counts of 32 bits saturate. -/
def sat32 (n : Nat) : Nat := min n (2 ^ 32 - 1)

/-- The checks every command shares (14 R370, R373), then its own. -/
def schCheck (words : Nat) (own : Obj → Cmd → Option (Code × W64)) (s : State) (c : Cmd) : Option (Code × W64) :=
  match commonFault c words with
  | some code => some (code, 0)
  | none =>
    let o := s.obj c.xid
    if c.task.isSome && (c.note || c.pen) then some (fltBadCmd, 0)
    else if !o.live then some (fltBadCmd, 0)
    else if o.owner ≠ c.ctx then some (fltAccess, 0)
    else own o c

/-- A field's address outside scratchpad. -/
def noSpad (a : W64) : Option (Code × W64) := if inSpad a then some (fltAccess, a) else none

/-- A FETCHKV that faults returns the entry it holds BUSY to 0 before the fault is raised (11 R317, 14 R386). -/
def releaseClaim (s : State) (src : Nat) (c : Cmd) : State :=
  match (s.look src).claimed with
  | some a =>
    let s := match writeVal s (whoS c.ctx) a 8 0 with | .ok s => s | .error _ => s
    s.setLook src { s.look src with claimed := none }
  | none => s

/-- The running command's fault. -/
def schStop (s : State) (src : Nat) (c : Cmd) (code : Code) (a : W64) : State :=
  stopCmd (releaseClaim s src c) engSch src c code a (schStatus src)

/-- A step of a command on what it carries. -/
def schPace (s : State) (src : Nat) (c : Cmd) (m : Eng (Nat × Look × Option (Option (List W64)))) : State :=
  match m s with
  | (.ok (_, _, some ws), s) => workDone s engSch src c ws
  | (.ok (p, k, none), s) =>
    let s := s.setLook src k
    s.setEstream engSch src { s.estream engSch src with prog := p }
  | (.error (.flt code a), s) => schStop s src c code a
  | (.error (.wait k _), s) => holdCmd s engSch src k []

/-! ### The serial order of an object's commands (14 R387) -/

/-- A stream's command on an object has started and may still take effect. -/
def pendsOn (s : State) (xid src : Nat) (p : Cmd → Bool) : Bool :=
  let st := s.estream engSch src
  !st.stopped && !st.done && match st.run with | some c => c.xid == xid && p c | none => false

/-- A command that starts takes its place in its object's order; a FETCHKV has none. -/
def enterOrder (s : State) (src : Nat) (c : Cmd) : State :=
  let s := { s with objs := s.objs.map fun kv => (kv.1, { kv.2 with order := kv.2.order.filter (· != src) }) }
  if c.op = 2 then s else s.setObj c.xid { s.obj c.xid with order := (s.obj c.xid).order ++ [src] }

/-- It has taken effect. -/
def leaveOrder (s : State) (src : Nat) (c : Cmd) : State :=
  s.setObj c.xid { s.obj c.xid with order := (s.obj c.xid).order.filter (· != src) }

/-- Every command of its object that started before it has taken effect. A binding depends on earlier seals alone (log 32). -/
def schTurn (s : State) (src : Nat) (c : Cmd) : Bool :=
  let p := fun (x : Cmd) => if c.op = 1 then x.op == 5 else true
  ((s.obj c.xid).order.takeWhile (· != src)).all fun x => !pendsOn s c.xid x p

/-- A command waits for its turn; what it waits is no work of its own (14 R390). -/
def queueTurn (s : State) (src : Nat) : State :=
  (s.setLook src { s.look src with queued := true }).setEstream engSch src ((s.estream engSch src).pause (engClock s engSch src))

/-- Its turn has come. -/
def takeTurn (s : State) (src : Nat) : State :=
  if (s.look src).queued then
    (s.setLook src { s.look src with queued := false }).setEstream engSch src ((s.estream engSch src).unpause (engClock s engSch src))
  else s

/-! ### Hops (14 R367-R369) -/

/-- A hop joins the queue of its page's controller. -/
def queueHop (s : State) (src xid : Nat) (pg : Page) : State :=
  let k := s.ctlr pg.ctl
  s.setCtlr pg.ctl { k with queue := k.queue ++ [{ xid := xid, page := pg, riders := [src] }] }

/-- Hops queued for a command, which waits for them; time in hops does not count toward its bound (14 R390). -/
def queueHops (src xid : Nat) (pgs : List Page) : Eng Unit := Eng.change fun s =>
  let s := pgs.foldl (fun s p => queueHop s src xid p) s
  s.setEstream engSch src ((s.estream engSch src).pause (engClock s engSch src))

/-- The hops behind the head for its page join it, up to 64 queries, a query counted once (14 R368): the riders that join those
there are, and the queue without them. -/
def joinHops (h : Hop) : List Hop → List Nat → List Nat × List Hop
  | [], _ => ([], [])
  | x :: rest, rs =>
    if x.xid = h.xid ∧ x.page = h.page ∧ (rs ++ x.riders).eraseDups.length ≤ 64 then
      let (r, q) := joinHops h rest (rs ++ x.riders)
      (x.riders ++ r, q)
    else
      let (r, q) := joinHops h rest rs
      (r, x :: q)

/-- The island of a controller's group is on (01 R32). -/
def ctlOn (s : State) (ctl : Nat) : Bool := s.islandOn (36 + ctl / 8)

/-- HOP_ISSUE (14 R367, R368): the oldest hop of a controller whose NAND die is idle, when that is the die named. -/
def execHopIssue (ctl die : Nat) (s : State) : Host.Outcome State Fault Refusal :=
  let k := s.ctlr ctl
  match k.queue.findIdx? fun h => !k.reading.any fun r => r.page.nand == h.page.nand with
  | none => .next s
  | some i => match k.queue[i]? with
    | none => .next s
    | some h =>
      if h.page.nand ≠ die ∨ s.masks.ctls.getLsbD ctl = true ∨ ctlOn s ctl = false then .next s
      else
        let (r, q) := joinHops h (k.queue.drop (i + 1)) h.riders
        .next (s.setCtlr ctl { queue := k.queue.take i ++ q, reading := k.reading ++ [{ h with riders := h.riders ++ r }] })

/-- The commands that ride a hop, each once. -/
def hopSrcs (h : Hop) : List Nat := h.riders.eraseDups

/-- A change of what a stream's command carries. -/
def updLook (s : State) (src : Nat) (f : Look → Look) : State := s.setLook src (f (s.look src))

/-- A command leaves every hop it rides. -/
def dropRider (s : State) (src : Nat) : State :=
  let strip := fun (h : Hop) => { h with riders := h.riders.filter (· != src) }
  { s with ctls := s.ctls.map fun kv =>
      (kv.1, { queue := (kv.2.queue.map strip).filter fun h => !h.riders.isEmpty, reading := kv.2.reading.map strip }) }

/-- The command of a stream fails on a page (14 R369). -/
def failHop (page : Nat) (s : State) (src : Nat) : State :=
  let s := dropRider s src
  match (s.estream engSch src).run with
  | some c => schStop s src c fltReadRetry (BitVec.ofNat 64 page)
  | none => s

/-- A page has reached a command: when it was the last, the time of its hops has passed. -/
def landHop (h : Hop) (s : State) (src : Nat) : State :=
  let s := updLook s src fun l => { l with left := l.left - h.riders.count src, pages := l.pages + 1 }
  if (s.look src).left = 0 then s.setEstream engSch src ((s.estream engSch src).unpause (engClock s engSch src)) else s

/-- HOP_READ_DONE (14 R369): a read in flight has delivered its page, or its data is uncorrectable. -/
def execHopReadDone (ctl idx : Nat) (ok : Bool) (s : State) : Host.Outcome State Fault Refusal :=
  let k := s.ctlr ctl
  match k.reading[idx]? with
  | none => .next s
  | some h =>
    if ctlOn s ctl = false then .next s
    else
    let s := s.setCtlr ctl { k with reading := removeAt k.reading idx }
    if ok then .next ((hopSrcs h).foldl (landHop h) s)
    else if h.retries < 8 then
      let s := (hopSrcs h).foldl (fun s src => updLook s src fun l => { l with retries := min 255 (l.retries + 1) }) s
      let k := s.ctlr ctl
      .next ({ s with schRetry := sat32 (s.schRetry + 1) }.setCtlr ctl { k with
        queue := k.queue ++ if h.riders.isEmpty then [] else [{ h with retries := h.retries + 1 }] })
    else .next ((hopSrcs h).foldl (failHop h.page.num) { s with schLimit := sat32 (s.schLimit + 1) })

/-! ### SEARCH (14 R375-R379) -/

def Cmd.kq (c : Cmd) : Nat := bitsAt (c.w 0) 32 8 + 1
def Cmd.beam (c : Cmd) : Nat := bitsAt (c.w 0) 24 8 + 1
def Cmd.maxr (c : Cmd) : Nat := bitsAt (c.w 0) 16 8
def Cmd.probes (c : Cmd) : Nat := bitsAt (c.w 0) 8 8 + 1

/-- SEARCH's fields (14 R372, R375). -/
def searchCheck : State → Cmd → Option (Code × W64) :=
  schCheck 3 fun o c => firstOf [
    need (bitsAt (c.w 0) 40 1 == 0 && bitsAt (c.w 0) 0 8 == 0),
    need (if o.img.kind = 0 then c.maxr != 0 && bitsAt (c.w 0) 8 8 == 0 else c.maxr == 0 && bitsAt (c.w 0) 24 8 == 0),
    aligned 64 (c.w 1), aligned 64 (c.w 2), noSpad (c.w 1), noSpad (c.w 2)]

/-- The vertex of an id. -/
def vecOf (k : Look) (id : Nat) : Option Vec := k.set.vecs.find? fun v => v.id == id

/-- The frontier of a round: (id, key), lowest first (14 R377). -/
def frontier (c : Cmd) (k : Look) : List (Nat × BitVec 32) :=
  let un := sortBy pairLe (k.seen.filter fun r => !hiddenBy k.log r.1)
  let few := decide (un.length < c.kq)
  let kth := match un[c.kq - 1]? with | some r => r.2 | none => posInf32
  let cands := sortBy pairLe (k.keys.filter fun r => !(k.seen.any fun x => x.1 == r.1) && (vecOf k r.1).isSome)
  (cands.takeWhile fun r => few || distCmp r.2 kth == .lt).take c.beam

/-- key(n) := min(key(n), d). -/
def lowerKey (keys : List (Nat × BitVec 32)) (n : Nat) (d : BitVec 32) : List (Nat × BitVec 32) :=
  match keys.find? fun r => r.1 == n with
  | some _ => keys.map fun r => if r.1 = n ∧ distCmp d r.2 = .lt then (n, d) else r
  | none => keys ++ [(n, if distCmp d posInf32 = .lt then d else posInf32)]

/-- A round's end: its distances and its keys (14 R377). -/
def endRound (o : Obj) (k : Look) : Look :=
  let ds := k.front.filterMap fun r => (vecOf k r.1).map fun v => (v, o.dist k.query v.code)
  let seen := k.seen ++ ds.map fun d => (d.1.id, d.2)
  let edges := ds.flatMap fun d => d.1.nbrs.map fun n => (n, d.2)
  { k with
    rounds := k.rounds + 1, seen := seen
    keys := edges.foldl (fun keys e => if seen.any (fun x => x.1 == e.1) then keys else lowerKey keys e.1 e.2) k.keys }

/-- The pages of inverted lists, each once. -/
def listPages (k : Look) (ls : List Nat) : List Page := ((k.set.vecs.filter fun v => ls.contains v.list).map Vec.page).eraseDups

/-- The next round's hops, or the results (phase 2). -/
def nextRound (src : Nat) (c : Cmd) (k : Look) : Eng (Nat × Look × Option (Option (List W64))) := do
  let f := if k.rounds < c.maxr then frontier c k else []
  if f.isEmpty then pure (2, { k with front := [] }, none)
  else
    let pgs := f.filterMap fun r => (vecOf k r.1).map Vec.page
    queueHops src c.xid pgs
    pure (1, { k with front := f, left := pgs.length }, none)

/-- The centroids of an inverted object with their distances (14 R378). -/
def centroids (o : Obj) (q : List Byte) : Nat → Nat → Eng (List (Nat × BitVec 32))
  | 0, _ => pure []
  | n + 1, i => do
    let code ← engRead (whoS o.owner) (o.img.cent + BitVec.ofNat 64 (o.csz * i)) o.codeBytes
    pure ((i, o.dist q code) :: (← centroids o q n (i + 1)))

/-- The results: the k lowest pairs over the vectors seen and the log (14 R377, R378). -/
def results (o : Obj) (c : Cmd) (k : Look) : List (Nat × BitVec 32) :=
  let seg := k.seen.filter fun r => !hiddenBy k.log r.1
  let live := (k.log.filter fun e => !e.tomb).map fun e => (e.id, o.dist k.query e.code)
  (sortBy pairLe (seg ++ live)).take c.kq

/-- The header of a result area (14 R379). -/
def searchHeader (k : Look) (n : Nat) : List Byte :=
  leBytes n 2 ++ leBytes k.rounds 1 ++ leBytes k.retries 1 ++ leBytes k.pages 4 ++ leBytes k.bound 8 ++ leBytes k.set.merged 8
    ++ leBytes (sat32 (k.bound - k.set.merged)) 4 ++ List.replicate 36 0

/-- The binding of a SEARCH (14 R376), with the log entries it counts. -/
def bindSearch (src : Nat) (c : Cmd) : Eng (Nat × Look × Option (Option (List W64))) := do
  let o := (← Eng.now).obj c.xid
  let es ← readLog c.xid o (o.sealPos - o.set.merged) o.set.merged
  Eng.change fun s => leaveOrder s src c
  pure (4, { set := o.set, bound := o.sealPos, log := deciding es, wild := ((← Eng.now).obj c.xid).spoiled }, none)

/-- What a command's start does: its place in its object's order, for which it may have to wait; a SEARCH binds, unless an earlier
seal is to come (14 R376, R387). -/
def schBegins (src : Nat) (s : State) (c : Cmd) : State :=
  let s := enterOrder (s.setLook src {}) src c
  if c.op = 2 then s
  else if !schTurn s src c then queueTurn s src
  else if c.op = 1 then schPace s src c (bindSearch src c) else s

/-- The results of a search whose log software has changed are undefined: its area, and its element (14 R380, 00 R10). -/
def spoilResults (c : Cmd) (ws : List W64) : Eng (List W64) := fun s =>
  let s := freeRange s (whoS c.ctx) (c.w 2) (64 + 16 * c.kq)
  let (n, s) := s.takeFree
  let (m, s) := s.takeFree
  (.ok (ws.zipIdx.map fun w => Config.freeWord (if w.2 = 0 then n else m)), s)

/-- A bound SEARCH reads its query, and takes its entry vertex or its lists (14 R377, R378). -/
def openSearch (c : Cmd) (o : Obj) (k : Look) : Eng Look := do
  let k := { k with query := ← engRead (whoS c.ctx) (c.w 1) o.codeBytes }
  if o.img.kind = 0 then pure { k with keys := [(k.set.entry, negInf32)] }
  else pure { k with lists := ((sortBy pairLe (← centroids o k.query k.set.entry 0)).take c.probes).map Prod.fst }

/-- The one round of an inverted search has ended (14 R378). -/
def endLists (o : Obj) (k : Look) : Look :=
  { k with rounds := 1, seen := (k.set.vecs.filter fun v => k.lists.contains v.list).map fun v => (v.id, o.dist k.query v.code) }

/-- A step of SEARCH: phase 0 binds in its turn; 4 starts; 1 waits for a round's hops; 2 writes the results. -/
def searchEng (src : Nat) (c : Cmd) : Eng (Nat × Look × Option (Option (List W64))) := do
  let s ← Eng.now
  let o := s.obj c.xid
  let w := whoS c.ctx
  match (s.estream engSch src).prog with
  | 0 =>
    if schTurn s src c then
      Eng.change fun s => takeTurn s src
      bindSearch src c
    else pure (0, s.look src, none)
  | 4 =>
    let k ← openSearch c o (s.look src)
    if o.img.kind = 0 then nextRound src c k
    else
      let pgs := listPages k k.lists
      queueHops src c.xid pgs
      pure (1, { k with left := pgs.length }, none)
  | 1 => pure (1, s.look src, none)
  | _ =>
    let k := s.look src
    let rs := results o c k
    engWrite w (c.w 2 + 64) (rs.flatMap fun r => leBytes r.1 8 ++ leBytes r.2.toNat 4 ++ leBytes 0 4)
    let hd := searchHeader k rs.length
    engWrite w (c.w 2) hd
    let ws := [BitVec.ofNat 64 (leValue (hd.take 8)), BitVec.ofNat 64 k.bound]
    let ws ← if k.wild then spoilResults c ws else pure ws
    pure (2, k, some (noted c ws))

/-- The head's start or a step of the running command, of one code. -/
def schRow (src op : Nat) (s : State) (check : State → Cmd → Option (Code × W64)) (work : State → Cmd → State) :
    Host.Outcome State Fault Refusal :=
  runOrStart s engSch src schKnown (· == op) (schStatus src) check work (schBegins src)

/-- SEARCH (14 R375-R379). -/
def execSearch (src : Nat) (s : State) : Host.Outcome State Fault Refusal :=
  schRow src 1 s searchCheck fun s c => schPace s src c (searchEng src c)

/-- SEARCH_ROUND_END (14 R377, R378): every hop of the round is done. -/
def execSearchRoundEnd (src : Nat) (s : State) : Host.Outcome State Fault Refusal :=
  let st := s.estream engSch src
  match st.run with
  | none => .next s
  | some c =>
    let k := s.look src
    if c.op ≠ 1 ∨ st.stopped = true ∨ st.done = true ∨ st.prog ≠ 1 ∨ k.left ≠ 0 then .next s
    else
      let o := s.obj c.xid
      if o.img.kind = 0 then .next (schPace s src c (nextRound src c (endRound o k)))
      else .next (schPace s src c (pure (2, endLists o k, none)))

/-! ### Appends, deletes, seals, merges (14 R381-R384) -/

/-- IDXAPPEND's and IDXDELETE's fields. -/
def appendCheck (del : Bool) : State → Cmd → Option (Code × W64) :=
  schCheck 2 fun _ c => firstOf [
    need (bitsAt (c.w 0) 13 28 == 0 && decide (bitsAt (c.w 0) 0 13 < 4096)), aligned (if del then 8 else 64) (c.w 1), noSpad (c.w 1)]

/-- The records of a list: (id, code). -/
def readRecords (w : Who) (o : Obj) (del : Bool) (list : W64) : Nat → Nat → Eng (List (Nat × List Byte))
  | 0, _ => pure []
  | n + 1, i => do
    let rsz := if del then 8 else 64 * ((8 + o.codeBytes + 63) / 64)
    let a := list + BitVec.ofNat 64 (rsz * i)
    let bs ← engRead w a (if del then 8 else 8 + o.codeBytes)
    let id := leValue (bs.take 8)
    Eng.check (decide (id < 2 ^ 40)) fltBadCmd a
    pure ((id, bs.drop 8) :: (← readRecords w o del list n (i + 1)))

/-- The entries written from a position up. -/
def writeLog (o : Obj) (del : Bool) : Nat → List (Nat × List Byte) → Eng Unit
  | _, [] => pure ()
  | p, (id, code) :: rest => do
    engWrite (whoS o.owner) (o.logAt p) (logBytes o p id del code)
    writeLog o del (p + 1) rest

/-- The records of an append, read once. -/
def recordsOf (del : Bool) (src : Nat) (c : Cmd) : Eng (List (Nat × List Byte)) := do
  let s ← Eng.now
  match (s.look src).recs with
  | some rs => pure rs
  | none =>
    let rs ← readRecords (whoS c.ctx) (s.obj c.xid) del (c.w 1) (bitsAt (c.w 0) 0 13 + 1) 0
    Eng.change fun s => updLook s src fun k => { k with recs := some rs }
    pure rs

/-- IDXAPPEND and IDXDELETE (14 R381), in their turn; the positions are taken and the entries written in one act. -/
def appendEng (del : Bool) (src : Nat) (c : Cmd) : Eng (Option (List W64)) := do
  let o := (← Eng.now).obj c.xid
  let n := bitsAt (c.w 0) 0 13 + 1
  let rs ← recordsOf del src c
  let s ← Eng.now
  if o.img.logcap < o.head + n - o.set.merged then
    if o.merging then Eng.hold waitLog [] else Eng.fail fltSeal (statusAt s c.xid)
  writeLog o del o.head rs
  Eng.change fun s => leaveOrder s src c
  Eng.change fun s => putObj s c.xid { s.obj c.xid with
    head := o.head + n
    writers := (s.obj c.xid).writers ++ [let (core, slot, disp) := c.writer; (core, slot, disp, o.head + n)]
    tail := (s.obj c.xid).tail ++ rs.zipIdx.map fun (r, i) => ⟨o.head + i, r.1, del, r.2⟩ }
  pure (noted c [BitVec.ofNat 64 o.head])

/-- The work of a command done in one act, once every earlier command of its object has taken effect (14 R387). -/
def schWork (src : Nat) (m : Nat → Cmd → Eng (Option (List W64))) (s : State) (c : Cmd) : State :=
  if schTurn s src c then runEng (takeTurn s src) engSch src c (schStatus src) (m src c) else s

/-- IDXAPPEND (14 R381). -/
def execIdxappend (src : Nat) (s : State) : Host.Outcome State Fault Refusal := schRow src 3 s (appendCheck false) (schWork src (appendEng false))

/-- IDXDELETE (14 R381). -/
def execIdxdelete (src : Nat) (s : State) : Host.Outcome State Fault Refusal := schRow src 4 s (appendCheck true) (schWork src (appendEng true))

/-- The object an append that waits would have room in, or whose merge has ended. -/
def logFrees (o : Obj) (n : Nat) : Bool := !o.merging || decide (o.head + n - o.set.merged ≤ o.img.logcap)

/-- WAITLOG_END (14 R392): there is room, or no merge runs; the append goes on. -/
def execWaitlogEnd (src : Nat) (s : State) : Host.Outcome State Fault Refusal :=
  let st := s.estream engSch src
  match st.run with
  | some c =>
    if st.wait = waitLog ∧ logFrees (s.obj c.xid) (bitsAt (c.w 0) 0 13 + 1) = true then
      .next (schWork src (appendEng (c.op == 4)) (endWait s engSch src) c)
    else .next s
  | none => .next s

/-- IDXSEAL's fields (14 R382). -/
def sealCheck : State → Cmd → Option (Code × W64) :=
  schCheck 2 fun _ c => need (bitsAt (c.w 0) 0 40 == 0 && (!(c.w 0).getLsbD 40 || c.w 1 == 0))

/-- IDXSEAL (14 R382): every entry below HEAD is written, since an append is one act. -/
def sealEng (src : Nat) (c : Cmd) : Eng (Option (List W64)) := do
  let s ← Eng.now
  let o := s.obj c.xid
  let t := if (c.w 0).getLsbD 40 then o.head else (c.w 1).toNat
  Eng.check (decide (t ≤ o.head) && decide (o.sealPos ≤ t)) fltSeal (statusAt s c.xid)
  Eng.change fun s => leaveOrder s src c
  Eng.change fun s => putObj s c.xid { s.obj c.xid with sealPos := t }
  pure (noted c [BitVec.ofNat 64 t])

/-- IDXSEAL (14 R382). -/
def execIdxseal (src : Nat) (s : State) : Host.Outcome State Fault Refusal := schRow src 5 s sealCheck (schWork src sealEng)

/-- IDXMERGE's fields (14 R383). -/
def mergeCheck : State → Cmd → Option (Code × W64) := schCheck 1 fun _ c => need (bitsAt (c.w 0) 0 41 == 0)

/-- IDXMERGE (14 R383). -/
def mergeEng (src : Nat) (c : Cmd) : Eng (Option (List W64)) := do
  let s ← Eng.now
  let o := s.obj c.xid
  if o.sealPos ≠ o.set.merged then
    if o.merging then Eng.hold waitMerge []
    Eng.change fun s => putObj s c.xid { s.obj c.xid with target := o.sealPos, merging := true, mfail := false }
  Eng.change fun s => leaveOrder s src c
  pure (noted c [BitVec.ofNat 64 o.sealPos])

/-- IDXMERGE (14 R383). -/
def execIdxmerge (src : Nat) (s : State) : Host.Outcome State Fault Refusal := schRow src 6 s mergeCheck (schWork src mergeEng)

/-- WAITMERGE_END (14 R392): the merge has ended, and the waiting IDXMERGE goes on. -/
def execWaitmergeEnd (src : Nat) (s : State) : Host.Outcome State Fault Refusal :=
  let st := s.estream engSch src
  match st.run with
  | some c =>
    if st.wait = waitMerge ∧ (s.obj c.xid).merging = false then .next (schWork src mergeEng (endWait s engSch src) c) else .next s
  | none => .next s

/-- LOG_ENTRY_PROGRAM (14 R384): the next mirror entry is programmed in flash, and FLUSHED rises. After a restart the mirror is
restored first. -/
def execLogEntryProgram (xid : Nat) (s : State) : Host.Outcome State Fault Refusal :=
  let o := s.obj xid
  if o.live = false ∨ o.head ≤ o.flushed ∨ o.restoring = true then .next s
  else match readLogEnt xid o o.flushed s with
    | (.error _, _) => .next s
    | (.ok e, s) =>
      .next (putObj s xid { s.obj xid with
        flushed := o.flushed + 1, flash := o.flash ++ [e], writers := o.writers.filter fun w => decide (o.flushed + 1 < w.2.2.2) })

/-- The set a merge builds from the old one and the log entries it folds (14 R383): its vectors; their place is free, in the
image's bounds (log 14). -/
def mergedSet (n : Nat) (o : Obj) (es : List LogEnt) (target : Nat) : SegSet :=
  let old := o.set
  let graph := o.img.kind == 0
  let d := deciding es
  let place := fun (id : Nat) (code : List Byte) =>
    let (nbrs, list, page) := Config.mergedPlace n id
    (⟨id, code, nbrs, list, page⟩ : Vec)
  let vecs := ((old.vecs.filter fun v => !hiddenBy d v.id).map fun v => place v.id v.code)
    ++ (d.filter fun e => !e.tomb).map fun e => place e.id e.code
  let entry :=
    if !graph || vecs.any (fun v => v.id == old.entry) then old.entry
    else ((vecs.map Vec.id)[Config.freeChoice n % vecs.length]?).getD old.entry
  SegSet.bounded graph (o.img.degm1 + 1) o.codeBytes vecs.length (passagePages o.img.passages) ⟨vecs, entry, target⟩

/-- MERGE_DONE (14 R383): once FLUSHED has reached its target, a merge switches its new set live, or fails, as it does when the
package's objects would hold too many vectors (14 R370). -/
def execMergeDone (xid : Nat) (ok : Bool) (s : State) : Host.Outcome State Fault Refusal :=
  let o := s.obj xid
  if o.merging = false ∨ o.flushed < o.target then .next s
  else
  let (n, s') := s.takeFree
  let (below, rest) := o.flash.partition fun e => decide (e.pos < o.target)
  let set := mergedSet n o below o.target
  if ok && decide (vectorsBeside s xid + set.vecs.length ≤ vectorLimit) then
    .next (putObj s' xid { o with
      merging := false, set := set, flash := rest, tail := o.tail.filter fun e => decide (o.target ≤ e.pos) })
  else .next (putObj s xid { o with merging := false, mfail := true })

/-! ### FETCHKV (14 R385, R386) -/

def Cmd.adv (c : Cmd) : Bool := (c.w 0).getLsbD 40
def Cmd.early (c : Cmd) : Bool := (c.w 0).getLsbD 39

/-- FETCHKV's fields. -/
def fetchCheck : State → Cmd → Option (Code × W64) :=
  schCheck 3 fun o c => firstOf [need (bitsAt (c.w 0) 24 15 == 0), aligned 64 (c.w 1), aligned 16 (c.w 2), noSpad (c.w 1), noSpad (c.w 2),
    need o.pstore]

/-- The geometry of a pool, laid out as PGEOM (11 R301). -/
def Pool.geom (p : Pool) : Nat := (p.d / 32 - 1) * 2 ^ 19 + (p.heads - 1) * 2 ^ 15 + (p.layers - 1) * 2 ^ 8 + p.vfmt * 16 + p.kfmt

/-- The next block of a FETCHKV, if any: the rest of its passage's, or the next passage's. -/
def nextBlock (w : Who) (o : Obj) (c : Cmd) : Nat → Look → Eng (Option (PBlock × Look))
  | 0, _ => pure none
  | n + 1, k => match k.more with
    | b :: rest => pure (some (b, { k with more := rest }))
    | [] => do
      let i := k.passage
      if bitsAt (c.w 0) 0 8 < i then pure none
      else
        let a := c.w 2 + BitVec.ofNat 64 (16 * i)
        let id := bitsAt (BitVec.ofNat 64 (← engVal w a 8)) 0 40
        match o.img.passages.find? fun p => p.id == id with
        | none => Eng.fail fltBadCmd a
        | some p => nextBlock w o c n { k with passage := i + 1, more := p.blocks }

/-- Own entry x claimed and a block popped for it; a pop that faults returns the entry to 0 (14 R386, 11 R303). -/
def claimBlock (w : Who) (p : Pool) (a : W64) : Eng Nat := do
  let old ← engAtomic w a 8 10 0 (2 ^ 34)
  Eng.check (old == 0) fltBadCmd a
  Eng.cleanup (popBlock w p) fun s => match writeVal s w a 8 0 with | .ok s => s | .error _ => s

/-- The sequence and the pool, read and checked once (14 R386); LEN, which the command raises, is read where it is needed. -/
def fetchDesc (w : Who) (o : Obj) (c : Cmd) (k : Look) : Eng (SeqDesc × Pool) :=
  match k.desc with
  | some d => pure d
  | none => do
    let sd ← readSeq w (c.w 1)
    let p ← readPool w sd.pool
    Eng.check (p.geom == o.img.pgeom) fltBadCmd sd.pool
    pure (sd, p)

/-- A step of FETCHKV: phase 0 takes the next block and queues its hops; 1 waits for them; 2 copies a layer. -/
def fetchEng (src : Nat) (c : Cmd) : Eng (Nat × Look × Option (Option (List W64))) := do
  let s ← Eng.now
  let o := s.obj c.xid
  let w := whoS c.ctx
  let k := if (s.estream engSch src).prog = 0 then { (s.look src) with index := bitsAt (c.w 0) 8 16 } else s.look src
  match (s.estream engSch src).prog with
  | 2 =>
    match k.cur, k.desc with
    | some b, some (sd, p) =>
      let a := entryAt sd.tbl k.index
      let take := fun (bs : List Byte) (row : Nat) => (bs.drop (k.layer * p.heads * 64 * row)).take (p.heads * 64 * row)
      engWrite w (p.keyAt k.pblk k.layer 0 0) (take b.keys p.rowK)
      engWrite w (p.valAt k.pblk k.layer 0 0) (take b.vals p.rowV)
      if c.early then
        let _ ← engAtomic w (a + 16 + BitVec.ofNat 64 (8 * (k.layer / 64))) 8 7 (2 ^ (k.layer % 64)) 0
      if k.layer + 1 < p.layers then pure (2, { k with layer := k.layer + 1 }, none)
      else
        if !c.early then
          engWrite w (a + 8) (leBytes b.mask.toNat 8 ++ leBytes 0 16)
          engPut w a 8 (mappedWord false k.pblk)
          Eng.change fun s => updLook s src fun k => { k with claimed := none }
        if c.adv then
          let old ← engVal w sd.addr 8
          let _ ← engAtomic w sd.addr 8 10 old (old / 2 ^ 32 * 2 ^ 32 + (old % 2 ^ 32 + 64) % 2 ^ 32)
        pure (3, { k with index := k.index + 1, posted := k.posted + 1, cur := none, claimed := none }, none)
    | _, _ => pure (3, k, none)
  | 1 => if k.left = 0 then pure (2, k, none) else pure (1, k, none)
  | _ =>
    let (sd, p) ← fetchDesc w o c k
    let k := { k with desc := some (sd, p) }
    match ← nextBlock w o c 257 k with
    | none => pure (3, k, some (noted c [BitVec.ofNat 64 (k.posted + (← engVal w sd.addr 8) % 2 ^ 32 * 2 ^ 32)]))
    | some (b, k) =>
      let len := (← engVal w sd.addr 8) % 2 ^ 32
      Eng.check (decide (k.index < sd.tcap) && (!c.adv || len == 64 * k.index)) fltLength sd.addr
      let a := entryAt sd.tbl k.index
      let n ← claimBlock w p a
      if c.early then
        Eng.cleanup (do
          engWrite w (a + 8) (leBytes b.mask.toNat 8 ++ leBytes 0 16)
          engPut w a 8 (mappedWord true n)) fun s => match writeVal s w a 8 0 with | .ok s => s | .error _ => s
      queueHops src c.xid b.pages
      pure (1, { k with
        cur := some b, pblk := n, layer := 0, left := b.pages.length, claimed := if c.early then none else some a }, none)

/-- A FETCHKV's start forgets what the stream's last command carried. -/
def fetchWork (src : Nat) (s : State) (c : Cmd) : State :=
  let s := if (s.estream engSch src).prog = 0 then s.setLook src {} else s
  schPace s src c (fetchEng src c)

/-- FETCHKV (14 R385, R386). -/
def execFetchkv (src : Nat) (s : State) : Host.Outcome State Fault Refusal := schRow src 2 s fetchCheck (fetchWork src)

/-! ### The engine (14 R374, R390, R391) -/

/-- SCH_COMPLETE (14 R374). -/
def execSchComplete (src : Nat) (s : State) : Host.Outcome State Fault Refusal := .next (completeCmd s engSch src)

/-- The work bound of a running command, in clocks: its rounds, its log scan, its append, seal or merge (14 R390, R393). -/
def schBound (s : State) (src : Nat) (c : Cmd) : Nat :=
  let k := s.look src
  let ns := match c.op with
    | 1 => 3000 * (k.rounds + 1) + (k.bound - k.set.merged) * (s.obj c.xid).esz * 1000 / 32768
    | 3 | 4 => 20000
    | 5 | 6 => 2000
    | _ => 0
  ns * 21 / 10

/-- SCH_CMDBOUND (14 R390): time in hops is not counted, nor what it waits for its turn on its object. -/
def execSchCmdbound (src : Nat) (s : State) : Host.Outcome State Fault Refusal :=
  let st := s.estream engSch src
  match st.run with
  | none => .next s
  | some c =>
    if st.working && boundDue s engSch src (schBound s src c) && (st.prog != 1 || (s.look src).left == 0)
        && !(s.look src).queued then .next (schStop s src c fltCmdBound 0)
    else .next s

/-- SCH_FLUSH (14 R391). -/
def execSchFlush (core : Nat) (s : State) : Host.Outcome State Fault Refusal := .next (flushStream s engSch core)

/-- SCH_SKIP (14 R391). -/
def execSchSkip (core : Nat) (s : State) : Host.Outcome State Fault Refusal := .next (skipStream s engSch core)

/-- SCH_RESUME (14 R391). -/
def execSchResume (core : Nat) (s : State) : Host.Outcome State Fault Refusal := .next (resumeStream s engSch core)

end Machine

end Sys2Proof
end

