-- ==== Sys2Proof/Machine/Link.lean ====
section
/-! DEFINITION. Die links, the fabric and the link engine LNK (spec 16 R417-R439, R448-R454). Messages are not carried flit by
flit: replay, repair and retraining change only time (R419, R420; log 5). -/

namespace Sys2Proof.Machine

namespace State

def mod (s : State) (lk : Nat) : LinkMod := Tab.get {} s.mods lk
def setMod (s : State) (lk : Nat) (m : LinkMod) : State := { s with mods := Tab.set s.mods lk m }
def dq (s : State) (i : Nat) : DqPair := Tab.get {} s.dqs i
def setDq (s : State) (i : Nat) (p : DqPair) : State := { s with dqs := Tab.set s.dqs i p }
def group (s : State) (i : Nat) : CollGroup := Tab.get {} s.groups i
def setGroup (s : State) (i : Nat) (g : CollGroup) : State := { s with groups := Tab.set s.groups i g }

end State

/-! ### Die links and fabric ports (16 R417-R421, R429) -/

/-- An entry of the link event log (16 R450). -/
def linkLog (s : State) (kind what unit width : Nat) (code : Code) : State :=
  let bs := leBytes kind 1 ++ leBytes what 1 ++ leBytes unit 1 ++ leBytes width 1 ++ leBytes code.toNat 2 ++ leBytes 0 2 ++ leBytes s.now 8
  let (s', lg) := logWrite s s.lnklog 16 1024 bs
  { s' with lnklog := lg }

/-- The link of a module, and its number there (16 R448, 18 R493); 3 is the fabric. -/
def linkOf (lk : Nat) : Nat × Nat :=
  if lk < 96 then (0, lk) else if lk < 128 then (1, lk - 96) else if lk < 160 then (2, lk - 128) else (3, lk - 160)

/-- The modules of a link. -/
def linkMods (link : Nat) : List Nat := match link with
  | 0 => List.range 96
  | 1 => (List.range 32).map (96 + ·)
  | _ => (List.range 32).map (128 + ·)

/-- Lanes at a width state. -/
def lanesAt (lk state : Nat) : Nat := match state with
  | 0 => if lk < 160 then 64 else 8
  | 1 => if lk < 160 then 32 else 4
  | _ => 0

/-- Failed lanes among the first n. -/
def failedBelow (f : BitVec 66) (lo n : Nat) : Nat := (List.range n).countP fun i => f.getLsbD (lo + i)

/-- FLIT_RECEIVE (16 R419): a flit reaches a receiver, which takes it, or asks for a replay and discards what follows. -/
def execFlitReceive (lk : Nat) (bad : Bool) (s : State) : Host.Outcome State Fault Refusal :=
  let m := s.mod lk
  if m.paused || m.nak || m.state == 2 then .next s
  else .next (s.setMod lk (if bad then { m with nak := true } else { m with seq := m.seq + 1 }))

/-- FLIT_REPLAY (16 R419): the sender replays from the bad flit; the 65th replay within 1 ms calls for a retraining. -/
def execFlitReplay (lk : Nat) (s : State) : Host.Outcome State Fault Refusal :=
  let m := s.mod lk
  if !m.nak || m.paused then .next s
  else
    let rs := s.now :: m.replays.filter fun t => decide (s.now < t + 1000000)
    .next (s.setMod lk { m with nak := false, replays := rs, count := m.count + 1, retrain := m.retrain || decide (64 < rs.length) })

/-- MODULE_RETRAIN (16 R419): the module pauses. -/
def execModuleRetrain (lk : Nat) (s : State) : Host.Outcome State Fault Refusal :=
  let m := s.mod lk
  if m.retrain then .next (s.setMod lk { m with retrain := false, replays := [], paused := true }) else .next s

/-- MODULE_PAUSE_END (16 R419, R420). -/
def execModulePauseEnd (lk : Nat) (s : State) : Host.Outcome State Fault Refusal := .next (s.setMod lk { s.mod lk with paused := false })

/-- The package stops (18 R485): every island but 34 is off, and only QUOTE and a host reset are served. -/
def stopPackage (s : State) (code : Code) : State :=
  { ((List.range 40).filter (· != 34)).foldl (fun s i => setPoint s i 2) s with svState := 4, svCode := code }

/-- A stop for which the spec names no code (16 R421, 18 R482): sv.bootst holds 0 or a fault code of 00 R14, a free value
(log 2). -/
def stopFree (s : State) : State :=
  let (n, s) := s.takeFree
  stopPackage s (faultCodes.getD ((Config.freeWord n).toNat % faultCodes.length) 0)

/-- 16 R420: the width of a die-link module with its failed lanes. -/
def widthState (halfMode : Bool) (f : BitVec 66) : Nat :=
  let lo := failedBelow f 0 32
  let hi := failedBelow f 32 32
  let spare := failedBelow f 64 2
  if (if halfMode then lo + hi == 0 else decide (lo + hi + spare ≤ 2)) then 0
  else if lo ≠ 0 ∧ hi ≠ 0 then 2
  else if lo + hi = 0 then 0
  else 1

/-- LANE_FAIL (16 R420, R421): a lane of a die-link module is condemned. -/
def execLaneFail (lk lane : Nat) (s : State) : Host.Outcome State Fault Refusal :=
  let m := s.mod lk
  if m.failed.getLsbD lane || m.state == 2 then .next s
  else
    let (link, unit) := linkOf lk
    let f := m.failed ||| BitVec.twoPow 66 lane
    let half := s.halfMode.getLsbD link
    let st := max m.state (widthState half f)
    let remapped := !half && m.state == 0 && st == 0
    let s := s.setMod lk { m with failed := f, state := st, paused := m.paused || remapped || st != m.state }
    let s := if remapped || st ≠ m.state then linkLog s 0 link unit (lanesAt lk st) evtLane else s
    if link ≠ 0 ∧ (linkMods link).all (fun x => (s.mod x).state == 2) = true then .next (stopFree s) else .next s

/-! ### Packages and time (16 R429-R433) -/

/-- An answer of a fault to every A-stream access outstanding to a package. -/
def failOut (p : Nat) (t : Thread) : Thread :=
  match t.out with
  | some r => if 3 ≤ r.kind ∧ r.kind ≤ 5 ∧ r.addr / 2 ^ 51 = p ∧ r.reply = none then { t with out := some { r with reply := some (fltRemote, 0) } } else t
  | none => t

/-- A domain instance of which an unreachable package is a member keeps no arrival (06 R176). -/
def loseBar (p : Nat) (kv : Nat × BarInst) : Nat × BarInst :=
  if kv.1 / 256 % 16 = 9 ∧ (Tab.get (0, 0) kv.2.far p).1 ≠ 0 then (kv.1, kv.2.lose) else kv

/-- A remote store whose answer is a fault stays in its queue; the fault is held, with the group of what covers it, unless an older
store's comes first (04 R101, R115). -/
def failSent (s : State) (core slot idx : Nat) (code : Code) : State :=
  let t := s.thread core slot
  match t.saq[idx]? with
  | some (.store e) =>
    let s := s.setThread core slot { t with saq := updAt (fun _ => .store { e with sent := false }) t.saq idx }
    match (if t.cancelled then .clear else guardOf s core t 0 (t.saq.take idx)) with
    | .clear => storeFails s core slot idx code e.ea
    | _ => s
  | _ => s

/-- The operation is a store sent to a package. -/
def SaOp.sentTo (p : Nat) : SaOp → Bool
  | .store e => e.sent && e.ea.toNat / 2 ^ 51 == p
  | _ => false

/-- The first store sent to a package that waits for its answer. -/
def sentTo (p : Nat) (t : Thread) : Option Nat := t.saq.findIdx? (SaOp.sentTo p)

/-- Every store sent to a package fails; fuel the queue's length. -/
def failStores (p core slot : Nat) : Nat → State → State
  | 0, s => s
  | n + 1, s => match sentTo p (s.thread core slot) with
    | some i => failStores p core slot n (failSent s core slot i fltRemote)
    | none => s

/-- The bytes a COLL writes at DST (16 R435): of every member for GATHER. -/
def collSpan (s : State) (c : Cmd) : Nat :=
  let n := if bitsAt (c.w 0) 43 4 = 7 then (List.range 64).countP (fun p => (s.group (bitsAt (c.w 0) 35 8)).members.getLsbD p) else 1
  n * bitsAt (c.w 3) 0 32

/-- A collective in progress ends with a fault at this member (16 R432, R438); its DST bytes are undefined. -/
def endColl (s : State) (gid : Nat) (code : Code) (status : Nat → State → W64) : State :=
  s.streams.foldl (fun s kv =>
    if kv.1 / 512 ≠ engLnk then s
    else
      let src := kv.1 % 512
      let st := s.estream engLnk src
      match st.run with
      | some c =>
        if c.op = 3 ∧ bitsAt (c.w 0) 35 8 = gid ∧ st.stopped = false ∧ st.done = false then
          stopCmd (freeRange s (whoE engLnk 0 c.ctx) (c.w 2) (collSpan s c)) engLnk src c code (BitVec.ofNat 64 gid) (status src)
        else s
      | none => s) s

/-- ctl.lnkst (16 R449). -/
def lnkStatus (src : Nat) (s : State) : W64 :=
  let st := s.estream engLnk src
  let state := if st.stopped then 4 else if st.wait ≠ 0 then st.wait else if st.run.isSome then 1 else 0
  BitVec.ofNat 64 (st.taken.toNat * 2 ^ 32 + state * 2 ^ 29 + (if st.stopped then st.code.toNat else 0))

/-- 16 R432: a package becomes unreachable: what is outstanding to it fails, its barriers and collectives end. -/
def declareUnreach (s : State) (p : Nat) : State :=
  if s.unreach.getLsbD p then s
  else
    let s := linkLog { s with unreach := s.unreach ||| BitVec.twoPow 64 p } 1 3 p 0 fltRemote
    let s : State := { s with threads := s.threads.map fun kv => (kv.1, failOut p kv.2), bars := s.bars.map (loseBar p) }
    let s := s.threads.foldl (fun (s : State) kv => failStores p (kv.1 / 16) (kv.1 % 16) kv.2.saq.length s) s
    s.groups.foldl (fun (s : State) kv => if kv.2.opened && kv.2.members.getLsbD p then endColl s kv.1 fltRemote lnkStatus else s) s

/-- The ports of a package whose route stands. -/
def liveRoutes (s : State) (p : Nat) : List Nat := (List.range 18).filter fun i =>
  (Tab.get 0 s.routes p).testBit i && !(Tab.get 0 s.routeDown p).testBit i && (s.mod (160 + i)).state != 2 && !s.masks.fabric.getLsbD i

/-- A package every one of whose routes has failed becomes unreachable. -/
def checkRoutes (s : State) (p : Nat) : State :=
  if s.indom = true ∧ p ≠ s.pkg.toNat ∧ Tab.get 0 s.routes p ≠ 0 ∧ liveRoutes s p = [] then declareUnreach s p else s

/-- ROUTE_FAIL (16 R432): a route through a port makes no progress. -/
def execRouteFail (pkg port : Nat) (s : State) : Host.Outcome State Fault Refusal :=
  if (Tab.get 0 s.routes pkg).testBit port then
    .next (checkRoutes { s with routeDown := Tab.set s.routeDown pkg (Tab.get 0 s.routeDown pkg ||| 2 ^ port) } pkg)
  else .next s

/-- FABRIC_LANE_FAIL (16 R429, R432): a port drops to the half without the lane, then off. -/
def execFabricLaneFail (port lane : Nat) (s : State) : Host.Outcome State Fault Refusal :=
  let lk := 160 + port
  let m := s.mod lk
  if m.failed.getLsbD lane || m.state == 2 then .next s
  else
    let f := m.failed ||| BitVec.twoPow 66 lane
    let st := if failedBelow f 0 4 ≠ 0 ∧ failedBelow f 4 4 ≠ 0 then 2 else 1
    let s := s.setMod lk { m with failed := f, state := st, paused := m.paused || st != m.state }
    let s := if st ≠ m.state then linkLog s 0 3 port (lanesAt lk st) evtLane else s
    .next ((List.range 64).foldl checkRoutes s)

/-- TIME_EXCHANGE (16 R433): the local count is slewed, never stepped back. -/
def execTimeExchange (slew : Int) (s : State) : Host.Outcome State Fault Refusal :=
  if s.indom then .next { s with time := s.time + BitVec.ofNat 64 slew.toNat } else .next s

/-! ### LNK's checks (16 R422, R423) -/

def waitDq : Nat := 2
def waitPeer : Nat := 3
def waitHost : Nat := 5

def lnkKnown (op : Nat) : Bool := decide (1 ≤ op) && decide (op ≤ 5)

/-- The checks every LNK and XFR command shares, then its own. -/
def frontCheck (words : Nat) (own : State → Cmd → Option (Code × W64)) (s : State) (c : Cmd) : Option (Code × W64) :=
  match commonFault c words with
  | some code => some (code, 0)
  | none => if c.task.isSome && (c.note || c.pen) then some (fltBadCmd, 0) else own s c

/-- A HOST task's block holds one WAKEPOST (16 R439). -/
def lnkCheck (words : Nat) (own : State → Cmd → Option (Code × W64)) (s : State) (c : Cmd) : Option (Code × W64) :=
  if c.task.isSome && c.op != 4 then some (fltBadCmd, 0) else frontCheck words own s c

/-- A row of LNK for the commands that are its own. -/
def lnkRow (src : Nat) (s : State) (mine : Cmd → Bool) (check : State → Cmd → Option (Code × W64)) (work : State → Cmd → State) :
    Host.Outcome State Fault Refusal :=
  let st := s.estream engLnk src
  match (match st.run with | some c => some c | none => st.queue.head?) with
  | none => .next s
  | some c =>
    if lnkKnown c.op && !mine c then .next s
    else runOrStart s engLnk src lnkKnown (fun _ => true) (lnkStatus src) check work

/-- The work of a command in one act. -/
def lnkWork (src : Nat) (m : Cmd → Eng (Option (List W64))) (s : State) (c : Cmd) : State := runEng s engLnk src c (lnkStatus src) (m c)

def whoL (ctx : Nat) : Who := whoE engLnk 0 ctx

/-! ### Die queues (16 R424-R427) -/

def Cmd.kind1 (c : Cmd) : Bool := (c.w 0).getLsbD 46
def Cmd.dqid (c : Cmd) : Nat := bitsAt (c.w 0) 42 4

/-- The pair a command names, from a die on the right side (16 R424). -/
def pairCheck (s : State) (c : Cmd) (west : Bool) : Option (Code × W64) :=
  let p := s.dq c.dqid
  if !p.opened then some (fltBadCmd, 0)
  else if p.ctx ≠ c.ctx then some (fltAccess, 0)
  else need ((dieOf c.core == 0) == west)

/-- DQPUT's fields (16 R425). -/
def dqputCheck : State → Cmd → Option (Code × W64) :=
  lnkCheck 3 fun s c =>
    if c.kind1 then firstOf [
      need (bitsAt (c.w 0) 0 42 == 0 && bitsAt (c.w 1) 37 27 == 0 && decide (bitsAt (c.w 1) 32 5 ≤ 16) && bitsAt (c.w 2) 32 32 == 0),
      pairCheck s c false]
    else firstOf [need (bitsAt (c.w 0) 0 38 == 0 && bitsAt (c.w 1) 32 32 == 0), aligned 64 (c.w 2), noSpad (c.w 2), pairCheck s c true]

/-- Window numbers compared: the signed difference. -/
def winDiff (a b : BitVec 32) : Int := (a - b).toInt

/-- DQPUT of a draft (16 R425). The check of WIN and the put are one act. -/
def putDraft (c : Cmd) : Eng (Option (List W64)) := do
  let s ← Eng.now
  let p := s.dq c.dqid
  let win := BitVec.ofNat 32 (bitsAt (c.w 1) 0 32)
  let n := bitsAt (c.w 0) 38 4 + 1
  Eng.check p.opened fltBadCmd 0
  Eng.check (win == p.nextw) fltBadCmd 0
  if 2 < winDiff win p.vw ∨ 4 ≤ p.drafts.length then Eng.hold waitDq []
  let toks ← engRead (whoL c.ctx) (c.w 2) (4 * n)
  Eng.change fun s => s.setDq c.dqid { p with nextw := win + 1, drafts := p.drafts ++ [⟨win, n, toks, p.wep⟩] }
  pure (noted c [BitVec.ofNat 64 win.toNat])

/-- DQPUT of a verdict (16 R425). -/
def putVerdict (c : Cmd) : Eng (Option (List W64)) := do
  let s ← Eng.now
  let p := s.dq c.dqid
  let win := BitVec.ofNat 32 (bitsAt (c.w 1) 0 32)
  let acc := bitsAt (c.w 1) 32 5
  Eng.check (p.opened && decide (0 < winDiff win p.vw) && decide (winDiff win p.tw ≤ 0)) fltBadCmd 0
  match p.taken.find? fun t => t.1 == win with
  | none => Eng.fail fltBadCmd 0
  | some (_, count) =>
    Eng.check (decide (acc ≤ count)) fltBadCmd 0
    if 4 ≤ p.verdicts.length then Eng.hold waitDq []
    let full := acc == count
    Eng.change fun s => s.setDq c.dqid { p with
      eep := if full then p.eep else p.eep + 1
      vw := win
      verdicts := p.verdicts ++ [⟨win, acc, full, BitVec.ofNat 32 (bitsAt (c.w 2) 0 32)⟩]
      taken := p.taken.filter fun t => decide (0 < winDiff t.1 win) }
    pure (noted c [BitVec.ofNat 64 win.toNat])

/-- DQPUT of a draft (16 R425). -/
def execDqputDraft (src : Nat) (s : State) : Host.Outcome State Fault Refusal :=
  lnkRow src s (fun c => c.op == 1 && !c.kind1) dqputCheck (lnkWork src putDraft)

/-- DQPUT of a verdict (16 R425). -/
def execDqputVerdict (src : Nat) (s : State) : Host.Outcome State Fault Refusal :=
  lnkRow src s (fun c => c.op == 1 && c.kind1) dqputCheck (lnkWork src putVerdict)

/-- DQGET's fields (16 R426). -/
def dqgetCheck : State → Cmd → Option (Code × W64) :=
  lnkCheck 2 fun s c => firstOf [need (bitsAt (c.w 0) 0 42 == 0), aligned 64 (c.w 1),
    if c.kind1 && c.w 1 == 0 then none else noSpad (c.w 1), pairCheck s c c.kind1]

/-- The oldest draft that is not stale: it, the drafts behind it, and the stale ones dropped (16 R426). -/
def takeDraft (eep : BitVec 32) : List DqDraft → Nat → Option DqDraft × List DqDraft × Nat
  | [], n => (none, [], n)
  | x :: rest, n => if winDiff x.stamp eep < 0 then takeDraft eep rest (min 65535 (n + 1)) else (some x, rest, n)

/-- DQGET of a draft (16 R426); the stale ones it drops stay dropped while it waits. -/
def getDraft (c : Cmd) : Eng (Option (List W64)) := do
  let s ← Eng.now
  let p := s.dq c.dqid
  Eng.check p.opened fltBadCmd 0
  let (x, rest, n) := takeDraft p.eep p.drafts p.stale
  Eng.change fun s => s.setDq c.dqid { p with drafts := rest, stale := n }
  match x with
  | none => Eng.hold waitDq []
  | some x =>
    Eng.change fun s => s.setDq c.dqid { (s.dq c.dqid) with tw := x.win, taken := p.taken ++ [(x.win, x.count)] }
    let bs := leBytes x.win.toNat 4 ++ leBytes x.count 1 ++ leBytes 0 59 ++ x.tokens
    engWrite (whoL c.ctx) (c.w 1) (bs ++ List.replicate (128 - bs.length) 0)
    pure (noted c [BitVec.ofNat 64 (x.win.toNat + x.count * 2 ^ 32), 0])

/-- DQGET of a verdict (16 R426). -/
def getVerdict (c : Cmd) : Eng (Option (List W64)) := do
  let s ← Eng.now
  let p := s.dq c.dqid
  Eng.check p.opened fltBadCmd 0
  match p.verdicts with
  | [] => Eng.hold waitDq []
  | x :: rest =>
    Eng.change fun s => s.setDq c.dqid { p with verdicts := rest, wep := if x.full then p.wep else p.wep + 1 }
    if c.w 1 ≠ 0 then
      engWrite (whoL c.ctx) (c.w 1) (leBytes x.win.toNat 4 ++ leBytes x.acc 4 ++ leBytes x.full.toNat 4 ++ leBytes x.ctok.toNat 4)
    pure (noted c [BitVec.ofNat 64 (x.win.toNat + x.acc * 2 ^ 32 + x.full.toNat * 2 ^ 37), BitVec.ofNat 64 x.ctok.toNat])

/-- DQGET of a draft (16 R426). -/
def execDqgetDraft (src : Nat) (s : State) : Host.Outcome State Fault Refusal :=
  lnkRow src s (fun c => c.op == 2 && !c.kind1) dqgetCheck (lnkWork src getDraft)

/-- DQGET of a verdict (16 R426). -/
def execDqgetVerdict (src : Nat) (s : State) : Host.Outcome State Fault Refusal :=
  lnkRow src s (fun c => c.op == 2 && c.kind1) dqgetCheck (lnkWork src getVerdict)

/-- WAITDQ_END (16 R427): a waiting command of a die queue tries again. -/
def execWaitdqEnd (src : Nat) (s : State) : Host.Outcome State Fault Refusal :=
  let st := s.estream engLnk src
  match st.run with
  | some c =>
    if st.wait ≠ waitDq ∨ runRoom s engLnk src = false then .next s
    else .next (lnkWork src (if c.op = 1 then (if c.kind1 then putVerdict else putDraft) else (if c.kind1 then getVerdict else getDraft))
      (endWait s engLnk src) c)
  | none => .next s

/-- 18 R486 DQCLOSE: the commands that wait on a pair end with FLT_BADCMD, its entries are discarded, and it closes. -/
def closePair (s : State) (i : Nat) : State :=
  let s := s.setDq i {}
  s.streams.foldl (fun s kv =>
    let src := kv.1 % 512
    let st := s.estream engLnk src
    match st.run with
    | some c =>
      if kv.1 / 512 = engLnk ∧ (c.op = 1 ∨ c.op = 2) ∧ c.dqid = i ∧ st.wait = waitDq then stopCmd s engLnk src c fltBadCmd 0 (lnkStatus src) else s
    | none => s) s

/-! ### Collectives (16 R434-R438) -/

def Cmd.gid (c : Cmd) : Nat := bitsAt (c.w 0) 35 8
def Cmd.collOp (c : Cmd) : Nat := bitsAt (c.w 0) 43 4
def Cmd.root (c : Cmd) : Nat := bitsAt (c.w 0) 29 6
def Cmd.len (c : Cmd) : Nat := bitsAt (c.w 3) 0 32
def Cmd.seq (c : Cmd) : BitVec 32 := BitVec.ofNat 32 (bitsAt (c.w 3) 32 32)

/-- The members of a group, ascending. -/
def CollGroup.list (g : CollGroup) : List Nat := (List.range 64).filter fun p => g.members.getLsbD p

/-- COLL's fields and its group (16 R432, R434, R435, R438). -/
def collCheck : State → Cmd → Option (Code × W64) :=
  lnkCheck 4 fun s c =>
    let g := s.group c.gid
    let bar := c.collOp == 8
    let id := BitVec.ofNat 64 c.gid
    firstOf [
      need (decide (c.collOp ≤ 8) && bitsAt (c.w 0) 0 29 == 0 && (c.collOp == 6 || c.root == 0)),
      need (if bar then c.w 1 == 0 && c.w 2 == 0 && c.len == 0 else c.len % 64 == 0 && decide (64 ≤ c.len) && decide (c.len ≤ 2 ^ 24)),
      if bar then none else firstOf [aligned 64 (c.w 1), aligned 64 (c.w 2), noSpad (c.w 1), noSpad (c.w 2)],
      need g.opened, if g.ctx ≠ c.ctx then some (fltAccess, 0) else none,
      if g.withdrawn then some (fltWithdrawn, id) else none,
      if g.members &&& s.unreach ≠ 0 then some (fltRemote, id) else none,
      need (c.collOp != 6 || g.members.getLsbD c.root), need (c.seq == g.seq)]

/-- COLL's start (16 R435, R437): SRC is read, the group's SEQ advances, and the command waits for its peers. -/
def collEng (c : Cmd) : Eng (Option (List W64)) := do
  let w := whoL c.ctx
  let bs ← (if c.collOp = 8 then pure [] else engRead w (c.w 1) c.len)
  Eng.change fun s => { s with peers := s.peers ++ [⟨c.gid, s.pkg.toNat, c.seq, c.collOp, c.root, bs⟩] }
  Eng.hold waitPeer []

/-- A COLL at the head that a withdrawn group refuses at its start: its DST bytes are undefined (16 R438). -/
def refusedColl (s : State) (src : Nat) : State :=
  match nextCmd s engLnk src with
  | some c =>
    if c.op = 3 ∧ pushDenied s engLnk c = false ∧ (collCheck s c).map Prod.fst = some fltWithdrawn then
      freeRange s (whoL c.ctx) (c.w 2) (collSpan s c)
    else s
  | none => s

/-- COLL (16 R435-R437): its SEQ advances when it is accepted. -/
def execColl (src : Nat) (s : State) : Host.Outcome State Fault Refusal :=
  lnkRow src (refusedColl s src) (·.op == 3) collCheck fun s c =>
    let g := s.group c.gid
    if c.seq ≠ g.seq then stopCmd s engLnk src c fltBadCmd 0 (lnkStatus src)
    else lnkWork src collEng (s.setGroup c.gid { g with seq := g.seq + 1 }) c

/-- The FP32 sums of R55 over the members' elements. -/
def treeSum (xs : List (BitVec 32)) : BitVec 32 :=
  let pad := 2 ^ (if xs.length ≤ 1 then 0 else Nat.log2 (2 * xs.length - 1)) - xs.length
  rne32 (pairTree (fun x => (f32 (rne32 x), 0)) 32 ((xs ++ List.replicate pad 0).map f32)).1

/-- One element of a reduction (16 R436): its bytes, from those of the members. -/
def reduceElem (op : Nat) (xs : List Nat) : List Byte :=
  let fold := fun (big : Bool) => match xs.map fun x => f32 (BitVec.ofNat 32 x) with
    | [] => Fl.zero
    | x :: rest => rest.foldl (Fl.minMax big) x
  match op with
  | 0 => leBytes (treeSum (xs.map (BitVec.ofNat 32))).toNat 4
  | 1 => leBytes (roundTo .bf16 .rne false (f32 (treeSum (xs.map fun x => BitVec.ofNat 32 (x * 65536))))).1 2
  | 2 => leBytes (xs.foldl (· + ·) 0 % 2 ^ 32) 4
  | 3 => leBytes (xs.foldl (· + ·) 0 % 2 ^ 64) 8
  | 4 => leBytes (rne32 (fold true)).toNat 4
  | _ => leBytes (rne32 (fold false)).toNat 4

/-- The bytes of an element of an OP. -/
def collSize (op : Nat) : Nat := match op with | 1 => 2 | 3 => 8 | _ => 4

/-- DST of a collective from the members' sources, ascending (16 R436). -/
def collResult (op root len : Nat) (ps : List PeerColl) : List Byte :=
  match op with
  | 6 => ((ps.find? fun p => p.pkg == root).map PeerColl.bytes).getD []
  | 7 => ps.flatMap PeerColl.bytes
  | 8 => []
  | _ =>
    let z := collSize op
    let cols := ps.map fun p => chunk z (len / z) (p.bytes)
    (List.range (len / z)).flatMap fun i => reduceElem op (cols.map fun l => leValue (l.getD i []))

/-- The word of an element whose content the spec does not state: a free value (log 2). -/
def freeElem : Eng W64 := fun s =>
  let (k, s) := s.takeFree
  (.ok (Config.freeWord k), s)

/-- COLL_COMPLETE (16 R436, R437): every member's source is read; DST is written, or the members disagree. -/
def execCollComplete (src : Nat) (s : State) : Host.Outcome State Fault Refusal :=
  let st := s.estream engLnk src
  match st.run with
  | none => .next s
  | some c =>
    let all := s.peers.filter fun p => p.gid == c.gid && p.seq == c.seq
    let got := (s.group c.gid).list.filterMap fun m => all.find? fun p => p.pkg == m
    if c.op ≠ 3 ∨ st.wait ≠ waitPeer ∨ got.length ≠ (s.group c.gid).list.length then .next s
    else
      let s := endWait { s with peers := s.peers.filter fun p => !(p.gid == c.gid && p.seq == c.seq) } engLnk src
      let agree := got.all fun p => p.op == c.collOp && p.root == c.root && p.bytes.length == c.len
      .next (runEng s engLnk src c (lnkStatus src) do
        Eng.check agree fltBadCmd 0
        engWrite (whoL c.ctx) (c.w 2) (collResult c.collOp c.root c.len got)
        pure (noted c [← freeElem]))

/-- 16 R438: a notice of an open group writes its log entry, the first withdraws the group. -/
def withdrawGroup (s : State) (gid : Nat) : State :=
  let g := s.group gid
  if !g.opened then s
  else
    let s := linkLog (s.setGroup gid { g with withdrawn := true }) 2 3 gid 0 fltWithdrawn
    if g.withdrawn then s else endColl s gid fltWithdrawn lnkStatus

/-- WITHDRAW_NOTICE (16 R438). -/
def execWithdrawNotice (gid : Nat) (s : State) : Host.Outcome State Fault Refusal := .next (withdrawGroup s gid)

/-- 18 R486 GRPCLOSE. -/
def closeGroup (s : State) (gid : Nat) : State :=
  let s := endColl s gid fltWithdrawn lnkStatus
  { s.setGroup gid {} with peers := s.peers.filter fun p => p.gid != gid }

/-! ### Wake writes and status (16 R439, R448) -/

/-- WAKEPOST's fields (16 R439). -/
def wakepostCheck : State → Cmd → Option (Code × W64) :=
  lnkCheck 3 fun _ c => firstOf [need (bitsAt (c.w 0) 0 45 == 0),
    if c.kind1 then need (!(c.w 0).getLsbD 45 && bitsAt (c.w 1) 11 53 == 0 && c.w 2 == 0)
    else firstOf [aligned 8 (c.w 1), noSpad (c.w 1)]]

/-- Who stands in the host interface's queues: a thread by core × 16 + slot, a LNK stream from 4096 (16 R446). -/
def hostWho (src : Nat) : Nat := 4096 + src

/-- A host page's address, for a write of 8 bytes that passes its checks. -/
def hostPlace (w : Who) (a : W64) : Eng (Option Nat) := Eng.acc fun s => match resolve s w a 8 .write with
  | .error e => .error e
  | .ok (s, [(.host pa, _)]) => .ok (s, some pa)
  | .ok (s, _) => .ok (s, none)

/-- WAKEPOST (16 R439). An add on a host page leaves as a host atomic, or takes the fallback while FB is set (R445). -/
def wakepostEng (src : Nat) (c : Cmd) : Eng (Option (List W64)) := do
  if c.kind1 then
    Eng.change fun s => { s with msix := (c.w 1).toNat :: s.msix }
    pure (noted c [0])
  else if !(c.w 0).getLsbD 45 then
    engPut (whoL c.ctx) (c.w 1) 8 (c.w 2).toNat
    pure (noted c [0])
  else match ← hostPlace (whoL c.ctx) (c.w 1) with
    | none => pure (noted c [BitVec.ofNat 64 (← engAtomic (whoL c.ctx) (c.w 1) 8 0 (c.w 2).toNat 0)])
    | some pa =>
      Eng.change fun s =>
        let req : OutReq := { kind := if s.hostFb then 2 else 1, addr := pa, ea := c.w 1, size := 8, val := (c.w 2).toNat }
        { s with hostReqs := Tab.set s.hostReqs src req, fbq := if s.hostFb then s.fbq ++ [hostWho src] else s.fbq }
      Eng.hold waitHost []

/-- WAKEPOST (16 R439). -/
def execWakepost (src : Nat) (s : State) : Host.Outcome State Fault Refusal :=
  lnkRow src s (·.op == 4) wakepostCheck (lnkWork src (wakepostEng src))

/-- LNKSTAT's fields (16 R448). -/
def lnkstatCheck : State → Cmd → Option (Code × W64) :=
  lnkCheck 2 fun s c =>
    let sel := bitsAt (c.w 0) 44 3
    let idx := bitsAt (c.w 0) 36 8
    let p := s.dq idx
    firstOf [need (decide (sel ≤ 3) && bitsAt (c.w 0) 0 36 == 0 && !c.note && c.w 1 == 0),
      need (match sel with | 0 => decide (idx ≤ 2) | 1 => decide (idx ≤ 17) | 2 => decide (idx ≤ 15) | _ => true),
      if sel = 2 then (if !p.opened then some (fltBadCmd, 0) else if p.ctx ≠ c.ctx then some (fltAccess, 0) else none) else none]

/-- LNKSTAT's element (16 R448). The read of a port's replays clears them. A port masked at boot (01 R36) shows as it stands, up with
its lanes: the spec does not say how it shows (log 39). -/
def lnkstatEng (c : Cmd) : Eng (Option (List W64)) := do
  let s ← Eng.now
  let idx := bitsAt (c.w 0) 36 8
  match bitsAt (c.w 0) 44 3 with
  | 0 =>
    let ms := (linkMods idx).map s.mod
    let at_ := fun (k : Nat) => BitVec.ofNat 64 (ms.countP fun m => m.state == k)
    let spares := ms.foldl (fun n m => n + if m.state == 0 && !s.halfMode.getLsbD idx then failedBelow m.failed 0 64 else 0) 0
    pure (some [at_ 0, at_ 1, at_ 2, BitVec.ofNat 64 spares])
  | 1 =>
    let m := s.mod (160 + idx)
    Eng.change fun s => s.setMod (160 + idx) { m with count := 0 }
    pure (some [BitVec.ofNat 64 (lanesAt (160 + idx) m.state), BitVec.ofNat 64 m.count, BitVec.ofNat 64 m.state, 0])
  | 2 =>
    let p := s.dq idx
    pure (some [BitVec.ofNat 64 p.nextw.toNat, BitVec.ofNat 64 p.vw.toNat, BitVec.ofNat 64 (p.wep.toNat + p.eep.toNat * 2 ^ 32),
      BitVec.ofNat 64 p.stale])
  | _ =>
    let g := s.group idx
    pure (some [g.members, BitVec.ofNat 64 g.seq.toNat, if !g.opened then 2 else if g.withdrawn then 1 else 0, 0])

/-- LNKSTAT (16 R448). -/
def execLnkstat (src : Nat) (s : State) : Host.Outcome State Fault Refusal := lnkRow src s (·.op == 5) lnkstatCheck (lnkWork src lnkstatEng)

/-! ### The engine (16 R422, R449, R451) -/

/-- LNK_COMPLETE (16 R422). -/
def execLnkComplete (src : Nat) (s : State) : Host.Outcome State Fault Refusal := .next (completeCmd s engLnk src)

/-- LNK_CMDBOUND (16 R451). -/
def execLnkCmdbound (src : Nat) (s : State) : Host.Outcome State Fault Refusal := .next (boundCmd s engLnk src (lnkStatus src))

/-- LNK_FLUSH (16 R449). -/
def execLnkFlush (core : Nat) (s : State) : Host.Outcome State Fault Refusal := .next (flushStream s engLnk core)

/-- LNK_SKIP (16 R449). -/
def execLnkSkip (core : Nat) (s : State) : Host.Outcome State Fault Refusal := .next (skipStream s engLnk core)

/-- LNK_RESUME (16 R449). -/
def execLnkResume (core : Nat) (s : State) : Host.Outcome State Fault Refusal := .next (resumeStream s engLnk core)

end Sys2Proof.Machine
end

