-- ==== Sys2Proof/Machine/Xfr.lean ====
section
/-! DEFINITION. The transfer engine XFR (spec 16 R422, R423, R440, R441, R449, R451). -/

namespace Sys2Proof.Machine

namespace State

def xrun (s : State) (src : Nat) : Xrun := Tab.get {} s.xruns src
def setXrun (s : State) (src : Nat) (x : Xrun) : State := { s with xruns := Tab.set s.xruns src x }

end State

/-- ctl.xfrst (16 R449). -/
def xfrStatus (src : Nat) (s : State) : W64 :=
  let st := s.estream engXfr src
  let state := if st.stopped then 3 else if st.wait = waitArr then 2 else if st.run.isSome then 1 else 0
  BitVec.ofNat 64 (st.taken.toNat * 2 ^ 32 + state * 2 ^ 29 + (if st.stopped then st.code.toNat else 0))

def whoX (ctx : Nat) : Who := whoE engXfr 0 ctx

def Cmd.layer (c : Cmd) : Nat := bitsAt (c.w 0) 40 7

/-- XFERL's fields (16 R423, R440). -/
def xferCheck : State → Cmd → Option (Code × W64) :=
  frontCheck 3 fun _ c => firstOf [need (bitsAt (c.w 0) 0 8 == 0), aligned 64 (c.w 1), aligned 64 (c.w 2), noSpad (c.w 1), noSpad (c.w 2)]

/-- What a stream's XFERL has come to, changed. -/
def keepXrun (src : Nat) (f : Xrun → Xrun) : Eng Unit := Eng.change fun s => s.setXrun src (f (s.xrun src))

/-- XFERL's sequences and pools, read and checked once (16 R440). -/
def xferFirst (src : Nat) (c : Cmd) : Eng (SeqDesc × Pool × SeqDesc × Pool) := do
  match ((← Eng.now).xrun src).seqs with
  | some q => pure q
  | none =>
    let w := whoX c.ctx
    let ss ← readSeq w (c.w 1)
    let sp ← readPool w ss.pool
    let ds ← readSeq w (c.w 2)
    let dp ← readPool w ds.pool
    Eng.check (sp.geom == dp.geom && decide (c.layer < sp.layers)) fltBadCmd ds.addr
    keepXrun src fun x => { x with seqs := some (ss, sp, ds, dp) }
    pure (ss, sp, ds, dp)

/-- The source block of index i, its layer arrived, from where the walk to it waits. -/
def xferSource (src : Nat) (c : Cmd) (ss : SeqDesc) (sp : Pool) (i : Nat) : Eng BlkEntry := do
  let x := (← Eng.now).xrun src
  match x.found with
  | some e => pure e
  | none =>
    let (lev, d) := x.here.getD (0, ss)
    match ← resolveFrom (whoX c.ctx) sp.nblk i (fun lev d => keepXrun src fun x => { x with here := some (lev, d) }) (5 - lev) lev d with
    | none => Eng.fail fltLength ss.addr
    | some (e, _) =>
      if e.xfr && !e.arrive.testBit c.layer then
        keepXrun src fun x => { x with found := some e }
        Eng.hold waitArr [e.addr]
      else pure e

/-- The next block of an XFERL: its rows sent, its OR to come (16 R440). -/
def xferBlock (src : Nat) (c : Cmd) : Eng Unit := do
  let w := whoX c.ctx
  let (ss, sp, ds, dp) ← xferFirst src c
  let i := bitsAt (c.w 0) 24 16 + ((← Eng.now).xrun src).next
  let e ← xferSource src c ss sp i
  Eng.check (decide (i < ds.tcap)) fltBadCmd ds.addr
  let d ← readEntry w ds.tbl i
  Eng.check (d.v && d.xfr && decide (d.pblk < dp.nblk)) fltBadCmd d.addr
  let ks ← engRead w (sp.keyAt e.pblk c.layer 0 0) (sp.heads * 64 * sp.rowK)
  let vs ← engRead w (sp.valAt e.pblk c.layer 0 0) (sp.heads * 64 * sp.rowV)
  engWrite w (dp.keyAt d.pblk c.layer 0 0) ks
  engWrite w (dp.valAt d.pblk c.layer 0 0) vs
  keepXrun src fun x => { x with next := x.next + 1, ors := x.ors ++ [⟨c, d.addr, dp, d.pblk⟩], here := none, found := none }

/-- A step of XFERL: a block sent; the command has done its work when every block is sent and every OR made. The ORs of a command
that stopped are still to be made (log 40). A source entry being allocated is read again at the next step: that time is no WAITARR
and counts (16 R449, R451). -/
def xferWork (src : Nat) (s : State) (c : Cmd) : State :=
  let st := s.estream engXfr src
  let s := if st.prog = 0 then (s.setXrun src { ors := (s.xrun src).ors }).setEstream engXfr src { st with prog := 1 } else s
  if bitsAt (c.w 0) 8 16 < (s.xrun src).next then
    if (s.xrun src).ors = [] then runEng s engXfr src c (xfrStatus src) (do pure (noted c [← freeElem])) else s
  else match xferBlock src c s with
    | (.ok (), s) => s
    | (.error (.flt code a), s) => stopCmd s engXfr src c code a (xfrStatus src)
    | (.error (.wait k d), s) => if k = waitArr then holdCmd s engXfr src k (List.replicate 8 0 ++ d) else s

/-- XFERL (16 R440). -/
def execXferl (src : Nat) (s : State) : Host.Outcome State Fault Refusal :=
  runOrStart s engXfr src (· == 1) (· == 1) (xfrStatus src) xferCheck (xferWork src)

/-- XFR_ARRIVE_WAIT_END (16 R440): the layer awaited has arrived, or its entry's read faults. -/
def execXfrArriveWaitEnd (src : Nat) (s : State) : Host.Outcome State Fault Refusal :=
  let st := s.estream engXfr src
  match st.run with
  | none => .next s
  | some c =>
    if st.wait = 0 ∨ runRoom s engXfr src = false then .next s
    else .next (pollEntry s engXfr src c (whoX c.ctx) (xfrStatus src) fun e => e.arrive.testBit c.layer)

/-- The layer's rows of a destination block. -/
def freeLayer (s : State) (c : Cmd) (p : Pool) (b : Nat) : State :=
  let w := whoX c.ctx
  freeRange (freeRange s w (p.keyAt b c.layer 0 0) (p.heads * 64 * p.rowK)) w (p.valAt b c.layer 0 0) (p.heads * 64 * p.rowV)

/-- The ARRIVE word of an entry that holds a command's layer. -/
def arriveWord (c : Cmd) (entry : W64) : W64 := entry + 16 + BitVec.ofNat 64 (8 * (c.layer / 64))

/-- The bytes of a destination block that was trimmed since its rows were sent are undefined (16 R441). -/
def freeTrimmed (s : State) (o : XferOr) : State :=
  match readEntry (whoX o.cmd.ctx) o.entry 0 s with
  | (.ok d, s) => if d.v && d.pblk == o.blk then s else freeLayer s o.cmd o.pool o.blk
  | (.error _, s) => s

/-- ARRIVE_OR (16 R440, R441): the oldest block's rows are performed, and its ARRIVE bit is ORed. A fault of it stops its command. -/
def execArriveOr (src : Nat) (s : State) : Host.Outcome State Fault Refusal :=
  match (s.xrun src).ors with
  | [] => .next s
  | o :: rest =>
    if s.shut.phase ≠ 0 then .next s
    else
      let (r, s) := engAtomic (whoX o.cmd.ctx) (arriveWord o.cmd o.entry) 8 7 (2 ^ (o.cmd.layer % 64)) 0 (freeTrimmed s o)
      let s := s.setXrun src { s.xrun src with ors := rest }
      let st := s.estream engXfr src
      match r with
      | .error (.flt code x) =>
        if st.run = some o.cmd ∧ st.stopped = false then .next (stopCmd s engXfr src o.cmd code x (xfrStatus src)) else .next s
      | _ => .next s

/-- XFR_COMPLETE (16 R422). -/
def execXfrComplete (src : Nat) (s : State) : Host.Outcome State Fault Refusal := .next (completeCmd s engXfr src)

/-- XFR_CMDBOUND (16 R451). -/
def execXfrCmdbound (src : Nat) (s : State) : Host.Outcome State Fault Refusal := .next (boundCmd s engXfr src (xfrStatus src))

/-- XFR_FLUSH (16 R449). -/
def execXfrFlush (core : Nat) (s : State) : Host.Outcome State Fault Refusal := .next (flushStream s engXfr core)

/-- XFR_SKIP (16 R449). -/
def execXfrSkip (core : Nat) (s : State) : Host.Outcome State Fault Refusal := .next (skipStream s engXfr core)

/-- XFR_RESUME (16 R449). -/
def execXfrResume (core : Nat) (s : State) : Host.Outcome State Fault Refusal := .next (resumeStream s engXfr core)

end Sys2Proof.Machine
end

