-- ==== Sys2Proof/Machine/HostIf.lean ====
section
/-! DEFINITION. The host interface and requests across packages (spec 04 R99, 16 R430, R431, R442-R447). -/

namespace Sys2Proof.Machine

/-! ### Requests of other packages and their answers (04 R99, 16 R430) -/

/-- An answer to a request from outside. -/
def answered (s : State) (code : Nat) (bs : List Byte) : State := { s with answer := some (code, bs) }

/-- The physical place of a request that reaches this package: translated and checked here (04 R99). -/
def arriving (s : State) (ctx unit off n : Nat) (kind : Kind) : State × Except Code Loc :=
  match readDesc s ctx with
  | (s, some c) => (s, .error c)
  | (s, none) =>
    if ctxLive s ctx = false then (s, .error fltRemote)
    else if off < spadSize then (s, .error fltXlate)
    else match xlate s none ctx off kind with
      | (s, .error c) => (s, .error c)
      | (s, .ok (e, lvl)) =>
        let pa := ptePa e + off % pageSize lvl
        let loc := if pteTgt e = 1 then Loc.host pa else .dev pa (pteCa e)
        match targetOf s loc with
        | some t => (s, if mayAccess s t ctx unit kind && !healthDenied s kind n loc && (pteTgt e = 1 || devMapped s pa n) then .ok loc else .error fltAccess)
        | none => (s, .error fltXlate)

/-- The access kind of a request: unit 1 reads instructions (04 R95, 18 R488). -/
def requestKind (unit kind : Nat) : Kind := if kind ≠ 0 then .write else if unit = 1 then .fetch else .read

/-- REMOTE_REQUEST (04 R99, 16 R430): an access of another package arrives: kind 0 reads n bytes, 1 writes the n low bytes of
v, 2 makes the atomic op on them. An atomic that reaches a host page is refused, whatever its operation (log 43). -/
def execRemoteRequest (ctx unit off kind op n v v2 : Nat) (s : State) : Host.Outcome State Fault Refusal :=
  if n = 0 ∨ 64 < off % 64 + n ∨ 14 ≤ unit then .next s
  else match arriving s ctx unit off n (requestKind unit kind) with
    | (s, .error c) => .next (answered s c.toNat [])
    | (s, .ok l) =>
      if kind = 0 then
        let (s, bs) := readLoc s n l
        .next (if locPoisoned s l n then answered s fltUncorr.toNat [] else answered s 0 bs)
      else if kind = 1 then .next (answered (writeLoc s (leBytes v n) l) 0 [])
      else match l with
        | .dev pa _ => match portAtomic s pa n op v v2 with
          | (s, some old) => .next (answered s 0 (leBytes old n))
          | (s, none) => .next (answered s fltUncorr.toNat [])
        | _ => .next (answered s fltAccess.toNat [])

/-- The fault codes a remote answer may carry (04 R99). -/
def remoteCode : Nat → Code
  | 0 => 0 | 1 => fltXlate | 2 => fltAccess | _ => fltRemote

/-- REMOTE_RESPONSE (16 R430): the answer to an A-stream access (idx 0: a load, an atomic, or a strong store's check) or to a store
sent (idx − 1 in its queue) returns: the access is performed, or its fault comes back. -/
def execRemoteResponse (core slot idx code : Nat) (s : State) : Host.Outcome State Fault Refusal :=
  let t := s.thread core slot
  let c := remoteCode code
  match idx with
  | 0 => match t.out with
    | some r =>
      if r.kind < 3 ∨ 5 < r.kind ∨ r.reply.isSome = true then .next s
      else if c ≠ 0 then .next (s.setThread core slot { t with out := some { r with reply := some (c, 0) } })
      else
        let old := s.remote.readLE r.addr r.size
        let s := match r.kind with
          | 4 => { s with remote := s.remote.writeLE r.addr r.size (atomicResult r.op (8 * r.size) old r.val r.val2) }
          | _ => s
        .next (s.setThread core slot { t with out := some { r with reply := some (0, old) } })
    | none => .next s
  | i + 1 => match t.saq[i]? with
    | some (.store e) =>
      if !e.sent then .next s
      else if c ≠ 0 then
        let old := match guardOf s core t 0 (t.saq.take i) with | .clear => false | _ => true
        .next (if old && !t.cancelled then s else failSent s core slot i c)
      else
        let s := { s with remote := s.remote.writeLE e.ea.toNat e.size.bytes (e.data.getD 0) }
        .next (settle (s.setThread core slot (dropOp t i)) core slot)
    | _ => .next s

/-! ### Requests of the host through BAR2 (16 R442, R443) -/

/-- Unsupported Request. -/
def unsupported : Nat := 1

/-- The device address and mode of a BAR2 request that crosses no page; mode 0 where nothing is mapped, and in STOPPED, which serves
none (18 R485; log 36). The health page is read-only whatever its page's mode (18 R490). -/
def barPlace (s : State) (off n : Nat) : Nat × Nat :=
  let (pa, mode) := Tab.get (0, 0) s.bar2 (off / 65536)
  let at_ := pa + off % 65536
  if s.svState = 4 ∨ 65536 < off % 65536 + n then (0, 0)
  else if devMapped s at_ n then (at_, if mode = 2 ∧ inHealth s at_ n then 1 else mode) else (0, 0)

/-- HOST_MEM_WRITE (16 R443). -/
def execHostMemWrite (off : Nat) (bytes : List Byte) (s : State) : Host.Outcome State Fault Refusal :=
  let (pa, mode) := barPlace s off bytes.length
  match mode with
  | 0 => .next (answered s unsupported [])
  | 1 => .next s
  | _ => .next (devWrite s pa bytes)

/-- HOST_MEM_READ (16 R443). -/
def execHostMemRead (off len : Nat) (s : State) : Host.Outcome State Fault Refusal :=
  let (pa, mode) := barPlace s off len
  if mode = 0 ∨ len = 0 then .next (answered s unsupported [])
  else
    let s := devTouch s pa len true
    .next (if devPoisoned s pa len then answered s fltUncorr.toNat [] else answered s 0 (s.dev.bytes pa len))

/-- HOST_ATOMICOP (16 R442, R443): FetchAdd (op 0), Swap (9) and CAS (10) of 4 or 8 bytes at the word's port. -/
def execHostAtomicop (off op n v v2 : Nat) (s : State) : Host.Outcome State Fault Refusal :=
  let (pa, mode) := barPlace s off n
  if mode = 0 ∨ (n ≠ 4 ∧ n ≠ 8) ∨ off % n ≠ 0 ∨ (op ≠ 0 ∧ op ≠ 9 ∧ op ≠ 10) then .next (answered s unsupported [])
  else if mode = 1 then .next s
  else match portAtomic s pa n op v v2 with
    | (s, some old) => .next (answered s 0 (leBytes old n))
    | (s, none) => .next (answered s fltUncorr.toNat [])

/-! ### Device accesses to host memory (16 R444-R447) -/

/-- ctl.hostatom (16 R447); its read clears FBCNT. -/
def hostAtom (s : State) : W64 :=
  BitVec.ofNat 64 (s.fbcnt * 65536 + s.hostFb.toNat * 512 + (s.hostFb && s.hostFbca).toNat * 256 + s.hostMode.toNat)

/-- The request of one who stands in the host interface's queues: a thread, or a WAKEPOST. -/
def hostReq (s : State) (who : Nat) : Option OutReq :=
  if who < 4096 then (s.thread (who / 16) (who % 16)).out
  else if (s.estream engLnk (who - 4096)).wait = waitHost then Tab.find s.hostReqs (who - 4096) else none

/-- The request changed. -/
def setHostReq (s : State) (who : Nat) (r : OutReq) : State :=
  if who < 4096 then
    let t := s.thread (who / 16) (who % 16)
    s.setThread (who / 16) (who % 16) { t with out := some r }
  else { s with hostReqs := Tab.set s.hostReqs (who - 4096) r }

/-- The answer reaches its requester: a thread's access reissues with it; a WAKEPOST ends (16 R439). -/
def hostReply (s : State) (who : Nat) (r : OutReq) (code : Code) (old : Nat) : State :=
  if who < 4096 then setHostReq s who { r with reply := some (code, old) }
  else
    let src := who - 4096
    let s := { s with hostReqs := Tab.drop s.hostReqs src }
    match (s.estream engLnk src).run with
    | some c =>
      let s := endWait s engLnk src
      if code = 0 then workDone s engLnk src c (noted c [BitVec.ofNat 64 old]) else stopCmd s engLnk src c code (c.w 1) (lnkStatus src)
    | none => s

/-- HOST_READ_COMPLETION (16 R444): a read of a host page is performed. -/
def execHostReadCompletion (core slot : Nat) (s : State) : Host.Outcome State Fault Refusal :=
  let t := s.thread core slot
  match t.out with
  | some r =>
    if r.kind = 0 ∧ r.reply = none then
      .next (s.setThread core slot { t with out := some { r with reply := some (0, s.host.readLE r.addr r.size) } })
    else .next s
  | none => .next s

/-- A host atomic answered with Unsupported Request or Completer Abort: its trap, or its fallback (16 R445). A FALLBACK entry is
written when FB rises. -/
def hostRefused (s : State) (who : Nat) (r : OutReq) (ca : Bool) : State :=
  let code := if ca then fltHostCa else fltHostUr
  if !s.hostMode then hostReply s who r code 0
  else
    let s := if s.hostFb then s else linkLog s 3 4 0 0 code
    setHostReq { s with hostFb := true, hostFbca := ca, fbq := s.fbq ++ [who] } who { r with kind := 2 }

/-- The host applies a FetchAdd: the old value, and memory after. -/
def hostAdd (s : State) (r : OutReq) : State × Nat :=
  let old := s.host.readLE r.addr r.size
  ({ s with host := s.host.writeLE r.addr r.size (atomicResult 0 (8 * r.size) old r.val 0) }, old)

/-- HOST_ATOMIC_COMPLETION (16 R445): status 0 success, 1 Unsupported Request, else Completer Abort. -/
def execHostAtomicCompletion (who status : Nat) (s : State) : Host.Outcome State Fault Refusal :=
  match hostReq s who with
  | some r =>
    if r.kind ≠ 1 ∨ r.reply.isSome = true then .next s
    else if status = 0 then
      let (s, old) := hostAdd s r
      .next (hostReply s who r 0 old)
    else .next (hostRefused s who r (status != 1))
  | none => .next s

/-- HOST_ATOMIC_TIMEOUT (16 R445): no completion within 50 ms; the host may have applied the AtomicOp or not. -/
def execHostAtomicTimeout (who : Nat) (applied : Bool) (s : State) : Host.Outcome State Fault Refusal :=
  match hostReq s who with
  | some r =>
    if r.kind ≠ 1 ∨ r.reply.isSome = true then .next s
    else .next (hostRefused (if applied then (hostAdd s r).1 else s) who r true)
  | none => .next s

/-- The host performs the read of a fallback; its write is still to come, and what another agent writes meanwhile is lost (16 R446). -/
def fallbackRead (s : State) (who : Nat) (r : OutReq) : State :=
  setHostReq s who { r with kind := 6, val2 := s.host.readLE r.addr r.size }

/-- The write of a fallback is sent: the word as it was read, plus the operand. -/
def fallbackWrite (s : State) (who : Nat) (r : OutReq) : State :=
  let s := { s with
    host := s.host.writeLE r.addr r.size (atomicResult 0 (8 * r.size) r.val2 r.val 0)
    fbq := s.fbq.tail, fbcnt := min 65535 (s.fbcnt + 1) }
  hostReply s who r 0 r.val2

/-- FALLBACK_READ_DONE (16 R446): the host performs the read of the oldest fallback, or refuses it; in its next step the read
completes and the write is sent. -/
def execFallbackReadDone (who status : Nat) (s : State) : Host.Outcome State Fault Refusal :=
  match s.fbq with
  | [] => .next s
  | w :: rest =>
    if w ≠ who then .next s
    else match hostReq s who with
      | some r =>
        if r.reply.isSome = true then .next { s with fbq := rest }
        else if r.kind = 6 then .next (fallbackWrite s who r)
        else if r.kind ≠ 2 then .next { s with fbq := rest }
        else if status = 0 then .next (fallbackRead s who r)
        else .next (hostReply { s with fbq := rest } who r (if status = 1 then fltHostUr else fltHostCa) 0)
      | none => .next { s with fbq := rest }

end Sys2Proof.Machine
end

