-- ==== Sys2Proof/Machine/Ctx.lean ====
section
/-! DEFINITION. The context engine in normal running (spec 17 R455-R468, R479-R481): images, exchanges of a core, parked posts
and elements, must-save declarations, SHUTSTAT. A record of State.images stands for the sections of an image, whose bytes are
free values (log 9); an exchange moves in the steps of R465 (log 33). -/

namespace Sys2Proof

/-- What the sections of an image hold that no record explains (17 R457; log 9). -/
opaque Config.imageOf : List Byte → Machine.CoreImage

namespace Machine

/-! ### Images (17 R457, R458) -/

/-- Bytes of the thread and core sections. -/
def sectionLen : Nat := 0x170000

/-- The size of an image (17 R457). -/
def imageLen (spad : Bool) : Nat := if spad then 5767168 else 1572864

/-- The bytes of the sections of image number n. -/
def sectionBytes (n : Nat) : List Byte := (List.range sectionLen).map (Config.imageByte n)

/-- What the bytes of the sections hold: the newest record they belong to. -/
def imageContent (s : State) (bs : List Byte) : CoreImage :=
  match (List.range s.images.length).reverse.find? fun n => sectionBytes n == bs with
  | some n => s.images.getD n {}
  | none => Config.imageOf bs

/-- The 256 bytes of a header, with NPARK 0 (17 R458). -/
def imageHeader (cid core flags : Nat) (frame time : W64) (crc : BitVec 32) : List Byte :=
  leBytes 0x4D495843 4 ++ leBytes cid 4 ++ leBytes core 2 ++ leBytes flags 2 ++ leBytes 0 4 ++ leBytes frame.toNat 8
    ++ leBytes time.toNat 8 ++ leBytes crc.toNat 4 ++ List.replicate 220 0

/-- The CRC of an image's header and of its bytes from 0x1_0000 up (17 R458). -/
def imageCrc (h rest : List Byte) : BitVec 32 := crc32c (h.take 12 ++ (h.drop 16).take 16 ++ h.drop 36 ++ rest)

/-- A field of a header. -/
def hdrField (h : List Byte) (off n : Nat) : Nat := leValue ((h.drop off).take n)

/-- The master of CTX for a context. -/
def whoC (ctx : Nat) : Who := whoE engCtx 0 ctx

/-- The pieces of a range inside 64 KiB pages; fuel the pages. -/
def pagePieces : Nat → W64 → Nat → List (W64 × Nat)
  | 0, _, _ => []
  | k + 1, ea, n =>
    let m := min n (65536 - ea.toNat % 65536)
    if n = 0 then [] else (ea, m) :: pagePieces k (ea + BitVec.ofNat 64 m) (n - m)

/-- A part of an engine's command whose faults carry the address its chapter names for them. -/
def Eng.named {α : Type} (a : W64) (m : Eng α) : Eng α := fun s =>
  match m s with
  | (.error (.flt c _), s) => (.error (.flt c a), s)
  | r => r

/-- The access tables of every port that n bytes lie with admit a master's requests: a port has 256 bytes in turn (04 R102, 15 R396);
and no write meets the health page. -/
def portsAllow (s : State) (ctx unit : Nat) (kind : Kind) (ca : Nat) (pa n : Nat) : Bool :=
  !healthDenied s kind n (.dev pa ca) && (List.range (n / 256 + 2)).all fun i =>
    let a := pa / 256 * 256 + 256 * i
    decide (pa + n ≤ a) || match targetOf s (.dev a ca) with
      | some t => mayAccess s t ctx unit kind
      | none => false

/-- The physical pieces of a range of local device memory, each page translated and every port of it asked (17 R462, R467, 04 R102);
any other memory raises FLT_ACCESS. -/
def localPieces (w : Who) (kind : Kind) : List (W64 × Nat) → Eng (List (Nat × Nat))
  | [] => pure []
  | (ea, n) :: ps => do
    match ← Eng.acc (fun s => locate s w ea 1 kind) with
    | .dev pa ca =>
      Eng.check (portsAllow (← Eng.now) w.ctx w.unit kind ca pa n) fltAccess ea
      pure ((pa, n) :: (← localPieces w kind ps))
    | _ => Eng.fail fltAccess ea

/-- The range of an image is local device memory. -/
def localRange (w : Who) (ea : W64) (n : Nat) (kind : Kind) : Eng (List (Nat × Nat)) :=
  localPieces w kind (pagePieces (n / 65536 + 2) ea n)

/-! ### What an image takes and gives (17 R457) -/

/-- A thread as pre-emption takes it: every result landed (17 R463), each stream at its group's first word (03 R60); what it has
translated and not done is translated anew when it goes on. -/
def atGroup (t : Thread) : Thread :=
  { landAll t with agrp := {}, egrp := {}, saq := t.saq.map SaOp.anew, setAside := t.setAside.map SaOp.anew, ldqAt := [] }

/-- The threads of a core's active bank as pre-emption takes them. -/
def bankNow (s : State) (core : Nat) : List Thread := (List.range 16).map fun k => atGroup (s.thread core k)

/-- The result elements of a core that belong to the threads of a bank, by engine. -/
def bankElems (s : State) (core : Nat) (bank : List Thread) : List (Nat × Elem) :=
  (List.range 12).flatMap fun eng => ((s.result core eng).filter fun e =>
    match bank[e.slot]? with | some t => t.live && t.disp == e.disp | none => false).map fun e => (eng, e)

/-- The live slots of a bank as bits. -/
def liveMask (bank : List Thread) : Nat := bank.zipIdx.foldl (fun m tk => if tk.1.live then m + 2 ^ tk.2 else m) 0

/-- Elements put back into their queues. -/
def putElems (s : State) (core : Nat) (es : List (Nat × Elem)) : State :=
  es.foldl (fun (s : State) x => s.setResult core x.1 (s.result core x.1 ++ [x.2])) s

/-- The core section as it stands, with a bank and its elements (17 R457); messages on their way to the core are in its mailbox. -/
def takeImage (s : State) (core : Nat) (bank : List Thread) (elems : List (Nat × Elem)) (chk : EStream) : CoreImage :=
  let k := s.core core
  { threads := bank, elems := elems, ctr := k.ctr, mailbox := k.mailbox ++ s.mails.filter fun m => m.dst == core
    ways := k.ways, mat := s.mat core
    streams := [s.estream engMat core, s.estream engLdc core, s.estream engStc core, chk]
    chans := (List.range 8).map fun i => s.chan core (1 + i / 4) (i % 4)
    queue := k.queue }

/-- The core section put in place (17 R463): MAT and the channels, counters, mailbox, carve. What has come to the mailbox since the old one
was saved stays there when the owner does (`keeps`). -/
def putCore (s : State) (core : Nat) (m : CoreImage) (ways : Nat) (keeps : Bool) : State :=
  let s := s.setMat core m.mat
  let s := s.setEstream engMat core (m.streams.getD 0 {})
  let s := s.setEstream engLdc core (m.streams.getD 1 {})
  let s := s.setEstream engStc core (m.streams.getD 2 {})
  let s := (List.range 8).foldl (fun (s : State) i => s.setChan core (1 + i / 4) (i % 4) (m.chans.getD i {})) s
  let k := s.core core
  let s := s.setCore core { k with ctr := m.ctr, mailbox := m.mailbox ++ if keeps then k.mailbox else [], ways := ways }
  holdGroups { s with mails := s.mails.filter fun x => keeps || x.dst != core } core

/-- A core's scratchpad, from its bottom. -/
def spadKey (core : Nat) : Nat := spadSize * core

/-- The core's scratchpad replaced, every line clean. -/
def putSpad (s : State) (core : Nat) (bs : List Byte) : State :=
  let m := s.spad.filter fun c => !(decide (spadKey core ≤ c.1) && decide (c.1 < spadKey core + spadSize))
  { s with spad := Mem.writeBytes m (spadKey core) bs, spadPoison := s.spadPoison.filter fun b => b / spadSize != core }

/-- The scratchpad section of an image: the bytes in the carve are undefined (17 R457). -/
def takeSpad (s : State) (core : Nat) : State × List Byte :=
  let n := carveBase (s.core core).ways
  let (s1, tail) := freeBytes s (spadSize - n)
  (s1, s.spad.bytes (spadKey core) n ++ tail)

/-! ### Commands (17 R462) -/

def ctxKnown (op : Nat) : Bool := decide (1 ≤ op) && decide (op ≤ 4)

/-- WAITCORE. -/
def waitCore : Nat := 2

/-- ctl.ctxst (17 R479). -/
def ctxStatus (core : Nat) (s : State) : W64 :=
  let st := s.estream engCtx core
  let state := if st.stopped then 3 else if st.wait ≠ 0 then st.wait else if st.run.isSome then 1 else 0
  BitVec.ofNat 64 (st.taken.toNat * 2 ^ 32 + state * 2 ^ 29 + (if st.stopped then st.code.toNat else 0))

/-- The core a CTXSWAP or CTXSPILL names, and its OP, SPAD, OUT and IN. -/
def Cmd.swapCore (c : Cmd) : Nat := bitsAt (c.w 0) 38 8
def Cmd.op2 (c : Cmd) : Nat := bitsAt (c.w 0) 45 2
def Cmd.swapSpad (c : Cmd) : Bool := (c.w 0).getLsbD 46
def Cmd.swaps (c : Cmd) : Bool := c.op == 1
def Cmd.outAt (c : Cmd) : W64 := c.w 1
def Cmd.inAt (c : Cmd) : W64 := if c.swaps then c.w 2 else 0

/-- An image address, where one is named. -/
def imageAddr (a : W64) : Option (Code × W64) := if a = 0 then none else firstOf [aligned 65536 a, if inSpad a then some (fltAccess, a) else none]

/-- The fields of CTXSWAP and CTXSPILL (17 R462). -/
def swapCheck (s : State) (c : Cmd) : Option (Code × W64) :=
  let k := c.swapCore
  firstOf [
    (commonFault c (if c.swaps then 3 else 2)).map (·, 0),
    need (bitsAt (c.w 0) 0 38 == 0 && dieOf k == dieOf c.core && !s.masks.cores.getLsbD k && k != c.core),
    imageAddr c.outAt, imageAddr c.inAt]

/-- The fields of MUSTSAVE (17 R462, R467). -/
def mustsaveCheck (_ : State) (c : Cmd) : Option (Code × W64) :=
  firstOf [
    (commonFault c 2).map (·, 0),
    need (bitsAt (c.w 0) 0 45 == 0 && c.op2 != 3),
    match c.op2 with
    | 0 => firstOf [aligned 32 (c.w 1), if inSpad (c.w 1) then some (fltAccess, c.w 1) else none]
    | 1 => need (bitsAt (c.w 1) 16 48 == 0)
    | _ => need (c.w 1 == 0)]

/-- The fields of SHUTSTAT (17 R468). -/
def shutstatCheck (_ : State) (c : Cmd) : Option (Code × W64) :=
  firstOf [
    (commonFault c 2).map (·, 0),
    need (bitsAt (c.w 0) 42 3 == 0 && bitsAt (c.w 0) 0 32 == 0 && decide (c.op2 < 2)),
    if c.op2 = 0 then need (c.w 1 == 0 && !c.note)
    else firstOf [aligned 64 (c.w 1), if inSpad (c.w 1) then some (fltAccess, c.w 1) else none]]

/-- A command that names a core stands in that core's line from its start, in WAITCORE behind another (17 R462). -/
def joinLine (s : State) (src : Nat) (c : Cmd) : State :=
  if 2 < c.op then s
  else
    let w := s.swap c.swapCore
    let st := s.estream engCtx src
    let s := s.setSwap c.swapCore { w with line := w.line ++ [src] }
    s.setEstream engCtx src { st.pause (engClock s engCtx src) with wait := if w.line.isEmpty then 0 else waitCore }

/-- The core's next command leaves WAITCORE. -/
def leaveLine (s : State) (core src : Nat) : State :=
  let w := s.swap core
  let rest := w.line.filter (· != src)
  let s := s.setSwap core { w with line := rest }
  match rest with
  | n :: _ => endWait s engCtx n
  | [] => s

/-- A row of CTX on a stream's commands that are its own; a head with an undefined code, and a MUSTSAVE or SHUTSTAT whose OP
is bad, stop the stream at whichever row meets them. -/
def ctxRow (src : Nat) (s : State) (mine : Cmd → Bool) (check : State → Cmd → Option (Code × W64)) (work : State → Cmd → State) :
    Host.Outcome State Fault Refusal :=
  let st := s.estream engCtx src
  match st.run with
  | some c => if mine c && !st.stopped && !st.done && st.wait == 0 then .next (work s c) else .next s
  | none => match st.queue.head? with
    | none => .next s
    | some c =>
      if !mayStart s engCtx src then .next s
      else match headFault s engCtx ctxKnown c with
        | some code => .next (stopCmd (startCmd s engCtx src) engCtx src c code 0 (ctxStatus src))
        | none =>
          if mine c || (c.op == 3 && c.op2 == 3) || (c.op == 4 && decide (1 < c.op2)) then
            match check s c with
            | some (code, a) => .next (stopCmd (startCmd s engCtx src) engCtx src c code a (ctxStatus src))
            | none => .next (joinLine (startCmd s engCtx src) src c)
          else .next s

/-- The command whose exchange runs on a core. -/
def swapCmd (s : State) (core : Nat) : Option Cmd :=
  let w := s.swap core
  if w.phase = 0 then none else (s.estream engCtx w.src).run

/-- An exchange ends; R461 is lifted unless it failed past its exchange (17 R465). -/
def endSwap (s : State) (core : Nat) (gate : Bool) : State :=
  let w := s.swap core
  let s := s.setSwap core { line := w.line }
  s.setCore core { s.core core with stopped := false, gate := gate }

/-- A fault of an exchange, which leaves the core free for the next command that names it. -/
def faultSwap (s : State) (core src : Nat) (c : Cmd) (code : Code) (addr : W64) (gate : Bool) : State :=
  leaveLine (stopCmd (endSwap s core gate) engCtx src c code addr (ctxStatus src)) core src

/-! ### Exchanges (17 R463-R465) -/

/-- The threads of a core stop, and R461 begins. -/
def stopThreads (s : State) (core : Nat) : State :=
  let w := s.swap core
  (s.setSwap core { w with phase := 2 }).setCore core { s.core core with stopped := true, gate := true }

/-- The time of an exchange's command begins not to count, or counts again: FILL and DRAIN (17 R480). -/
def pauseSwap (s : State) (core : Nat) : State :=
  let src := (s.swap core).src
  s.setEstream engCtx src ((s.estream engCtx src).pause (engClock s engCtx src))
def goOnSwap (s : State) (core : Nat) : State :=
  let src := (s.swap core).src
  s.setEstream engCtx src ((s.estream engCtx src).unpause (engClock s engCtx src))

/-- A context's descriptor read: it is live. -/
def readLive (s : State) (ctx : Nat) : X (State × Bool) :=
  match readDesc s ctx with
  | (s, none) => .ok (s, ctxLive s ctx)
  | (s, some c) => .error (.flt c 0 s)

/-- The header of an image and its bytes from 0x1_0000, when they pass the checks of R463. -/
def checkImage (w : Who) (core : Nat) (a : W64) : Eng (List Byte × List Byte) := do
  let h ← engRead w a 256
  let flags := hdrField h 0x0A 2
  let len := imageLen (flags.testBit 1)
  let _ ← localRange w a len .read
  let live ← Eng.acc fun s => readLive s (hdrField h 4 4)
  Eng.check (hdrField h 0 4 == 0x4D495843 && flags.testBit 0 && live) fltBadCmd a
  let rest ← engRead w (a + 0x10000) (len - 0x10000)
  Eng.check ((imageCrc h rest).toNat == hdrField h 0x20 4) fltBadCmd a
  Eng.check (hdrField h 8 2 == core) fltImagePlace a
  pure (h, rest)

/-- The checks of a CTXSWAP or CTXSPILL, and its start on its core. -/
def beginSwap (src : Nat) (c : Cmd) : Eng Unit := do
  let s ← Eng.now
  let k := c.swapCore
  let own := (s.core k).owner
  Eng.check (← Eng.acc fun s => readGrant s c.ctx 3) fltPriv 0
  Eng.check (if c.swaps then own == 0 || c.outAt != 0 else own != 0 && c.outAt != 0) fltBadCmd 0
  let w : Swap := { s.swap k with src := src, old := own, swaps := c.swaps, held := (s.core k).gate }
  if c.inAt = 0 then Eng.change fun s => stopThreads (s.setSwap k { w with cid := if c.swaps then 0 else own }) k
  else
    let (h, rest) ← Eng.named c.inAt (checkImage (whoC c.ctx) k c.inAt)
    Eng.change fun s => pauseSwap (s.setSwap k { w with
      phase := 1, cid := hdrField h 4 4, spadIn := (hdrField h 0x0A 2).testBit 1
      image := imageContent s (rest.take sectionLen) }) k

/-- CTXSWAP and CTXSPILL take their core once they stand first in its line. -/
def swapWork (src : Nat) (s : State) (c : Cmd) : State :=
  if (s.swap c.swapCore).phase ≠ 0 then s
  else match beginSwap src c s with
    | (.ok _, s) => s
    | (.error (.flt code a), s) => leaveLine (stopCmd s engCtx src c code a (ctxStatus src)) c.swapCore src
    | (.error (.wait _ _), s) => s

/-- CTXSWAP (17 R463). -/
def execCtxswap (core : Nat) (s : State) : Host.Outcome State Fault Refusal := ctxRow core s (·.op == 1) swapCheck (swapWork core)

/-- CTXSPILL (17 R464). -/
def execCtxspill (core : Nat) (s : State) : Host.Outcome State Fault Refusal := ctxRow core s (·.op == 2) swapCheck (swapWork core)

/-- A step of a core's exchange in a phase. Of one that the shutter trap met in BANK the exchange of the banks completes and nothing is
saved (17 R478); any other runs to its end (17 R471). -/
def onPhase (s : State) (core phase : Nat) (act : State → Swap → Cmd → State) : Host.Outcome State Fault Refusal :=
  match swapCmd s core with
  | none => .next s
  | some c =>
    if (s.swap core).phase = phase ∧ (phase < 4 ∨ (s.swap core).lost = false) then .next (act s (s.swap core) c) else .next s

/-- SHADOW_FILL_DONE (17 R465): the thread section of IN is in the shadow bank; a fault leaves the core untouched. -/
def execShadowFillDone (core : Nat) (s : State) : Host.Outcome State Fault Refusal :=
  onPhase s core 1 fun s w c => match readRange s (whoC c.ctx) (c.inAt + 0x10000) 0x100000 with
    | .error (.flt code _ o) => faultSwap (o.getD s) core w.src c code c.inAt w.held
    | .error .wait => s
    | .ok (s, _) => stopThreads (goOnSwap (s.setSwap core { w with bank := w.image.threads }) core) core

/-- A slot stands at a boundary: nothing it has sent is unanswered (17 R463; log 33). -/
def atBoundary (t : Thread) : Bool :=
  !t.live || (t.atomsOut == 0 && (match t.out with | some r => r.reply.isSome | none => true)
    && t.saq.all fun o => match o with | .store e => !e.sent | _ => true)

/-- VALID of an image cleared, where its page can be written. -/
def clearValid (s : State) (c : Cmd) : State :=
  if c.outAt = 0 then s
  else match localRange (whoC c.ctx) c.outAt 256 .write s with
    | (.error _, _) => s
    | (.ok _, s) => match writeRange s (whoC c.ctx) (c.outAt + 10) [0, 0] with
      | .ok s => s
      | .error _ => s

/-- The clocks of an exchange in nanoseconds: 96 at 2.1 GHz, or at 1.4 GHz (17 R481, 01 R34). -/
def bankTime (s : State) (core : Nat) : Nat := if Tab.get 0 s.islands (clusterOf core) = 1 then 69 else 46

/-- SLOTS_STOPPED (17 R465): every slot is at a boundary. -/
def execSlotsStopped (core : Nat) (s : State) : Host.Outcome State Fault Refusal :=
  onPhase s core 2 fun s w c =>
    if (List.range 16).all fun k => atBoundary (s.thread core k) then
      (clearValid s c).setSwap core { w with
        phase := 3, frame := (s.qmg (dieOf core)).frame, time := s.time, bankEnd := s.now + bankTime s core }
    else s

/-- The threads of a core that leave in an image. -/
def leaving (core : Nat) (c : Cmd) (bank : List Thread) : List OutThread :=
  bank.zipIdx.filterMap fun tk =>
    if tk.1.live then some { core := core, slot := tk.2, disp := tk.1.disp, ctx := c.ctx, image := c.outAt, task := tk.1.task } else none

/-- An incoming thread whose task CANCEL has ended does not run again (10 R296). -/
def arrives (s : State) (core slot : Nat) (t : Thread) : Thread :=
  if s.outs.any fun o => o.core == core && o.slot == slot && o.disp == t.disp && o.dead then {} else t

/-- A post to a counter of a core, where the incoming core section holds it until RESTORE puts it in place. -/
def postIn (s : State) (core ctr : Nat) (amount : BitVec 32) : State :=
  let w := s.swap core
  if h : ctr < 32 then s.setSwap core { w with image := { w.image with ctr := w.image.ctr.set ctr (w.image.ctr[ctr] + amount) } } else s

/-- A post or an element of the park area applied (17 R460). -/
def applyPark (s : State) (core : Nat) (isElem hand : Bool) (slot arg : Nat) (words : List W64) : State :=
  let t := s.thread core (slot % 16)
  if isElem then
    if t.live then s.setResult core arg (s.result core arg ++ [⟨words, slot % 16, t.disp, hand⟩]) else s
  else postIn s core arg (BitVec.ofNat 32 (bitsAt (words.getD 0 0) 0 32))

/-- The entries of a park area from number `at_` on applied in order, those numbered in `hands` as a handler's; fuel the entries. -/
def applyParks (core : Nat) (hands : List Nat) : Nat → Nat → List (List Byte) → State → State
  | 0, _, _, s => s
  | _, _, [], s => s
  | k + 1, at_, b :: bs, s =>
    let isElem := hdrField b 0 1 == 1
    let n := hdrField b 3 1
    let more := if isElem then (n + 2) / 3 - 1 else 0
    let ws := (b :: bs.take more).flatMap fun e => words64 (e.drop 8)
    applyParks core hands k (at_ + 1 + more) (bs.drop more)
      (applyPark s core isElem (hands.contains at_) (hdrField b 1 1) (hdrField b 2 1) (ws.take (if isElem then n else 1)))

/-- A thread that has left in the image that is resumed. -/
def OutThread.returns (core : Nat) (img : CoreImage) (o : OutThread) : Bool :=
  o.core == core && match img.threads[o.slot]? with
    | some t => t.live && t.disp == o.disp
    | none => false

/-- The park area's entries applied from number `at_` on; then what has not reached it yet; the threads are no longer out, and hold the
engine faults that waited for them (06 R180). -/
def comeBack (s : State) (core : Nat) (img : CoreImage) (at_ : Nat) (parks : List (List Byte)) : State :=
  let back := OutThread.returns core img
  let mine := fun (p : Park) => (s.outs.find? fun o => o.core == p.core && o.slot == p.slot && o.disp == p.disp).any back
  let s1 := applyParks core ((s.outs.filter back).flatMap OutThread.hands) parks.length at_ parks s
  let s1 := { s1 with outs := s.outs.filter fun o => !back o, parks := s.parks.filter fun p => !mine p }
  let s1 := (s.parks.filter mine).foldl (fun (s : State) p => applyPark s core p.isElem p.hand p.slot p.arg p.words) s1
  (s.outs.filter back).foldl (fun (s : State) o => o.faults.foldl (fun s f => giveFault s core o.slot f) s) s1

/-- The entries of an image's park area. -/
def parkArea (w : Who) (a : W64) : Eng (List (List Byte)) := do
  let n ← engVal w (a + 12) 4
  let bs ← engRead w (a + 0x100) (32 * min n 2040)
  pure (chunk 32 (min n 2040 + 1) bs)

/-- IN's park entries applied before an incoming thread issues (17 R460). An area that cannot be read is met again in RESTORE, which
raises the fault (17 R465; log 33). -/
def bringParks (s : State) (core : Nat) (c : Cmd) : State :=
  if c.inAt = 0 then s
  else match parkArea (whoC c.ctx) c.inAt s with
    | (.error _, s) => s
    | (.ok parks, s) =>
      let w := s.swap core
      comeBack (s.setSwap core { w with parked := parks.length }) core w.image 0 parks

/-- The banks exchanged (17 R463): the outgoing threads, their elements and their stream at CHK leave; the incoming ones come with their
elements and with what is parked for them, and issue. -/
def exchange (s : State) (core : Nat) (w : Swap) (c : Cmd) : State :=
  let out := bankNow s core
  let elems := bankElems s core out
  let chk := s.estream engChk core
  let taken : BitVec 32 := if w.cid = 0 then 0 else (w.image.streams.getD 3 {}).taken
  let s := chargePlace s (clusterOf core)
  let s := (List.range 16).foldl (fun (s : State) k => s.setThread core k (arrives s core k (w.bank.getD k {}))) s
  let s := (List.range 12).foldl (fun (s : State) eng =>
    s.setResult core eng ((s.result core eng).filter fun e => !elems.contains (eng, e))) s
  let s := putElems s core (w.image.elems.filter fun x => (s.thread core x.2.slot).live)
  let s := s.setEstream engChk core (if chk.stopped then { taken := taken } else { chk with queue := [], taken := taken })
  let s := s.setCore core { s.core core with stopped := false }
  let s := s.setSwap core { w with
    phase := 4, bank := out, elems := elems
    chk := if chk.stopped then chk else { queue := chk.queue, taken := chk.taken } }
  let s := bringParks s core c
  { s with outs := s.outs ++ leaving core c out }

/-- The active bank copied (17 R464). -/
def copyBank (s : State) (core : Nat) (w : Swap) : State :=
  let out := bankNow s core
  let s := out.zipIdx.foldl (fun (s : State) tk => s.setThread core tk.2 tk.1) s
  let s := s.setCore core { s.core core with stopped := false }
  s.setSwap core { w with phase := 4, bank := out, elems := bankElems s core out }

/-- BANK_EXCHANGE_DONE (17 R463-R465): exactly 96 clocks after the threads stopped. -/
def execBankExchangeDone (core : Nat) (s : State) : Host.Outcome State Fault Refusal :=
  onPhase s core 3 fun s w c => 
    if s.now < w.bankEnd then s else pauseSwap (if c.swaps then exchange s core w c else copyBank s core w) core

/-- MAT stands at a boundary: what has started is done or stopped, or stands behind a stopped MDRAIN (09 R238, R263; log 28). -/
def Mat.rests (m : Mat) : Bool := m.runs.zipIdx.all fun (r, i) => r.stage == 4 || (r.stage == 0 && m.drainsFirst i r)

/-- MAT and the channels of a core stand at boundaries, and CHK has completed its stream's command (08 R232, 09 R257, R263). -/
def coreAtRest (s : State) (core : Nat) : Bool :=
  let chk := s.estream engChk core
  (s.mat core).rests
    && ((List.range 8).all fun i =>
      let c := s.chan core (1 + i / 4) (i % 4)
      c.refill.isNone && (c.state != 3 || (entryToq c.entry && !c.moved)))
    && (chk.run.isNone || chk.stopped)

/-- CORE_DRAIN_DONE (17 R465). -/
def execCoreDrainDone (core : Nat) (s : State) : Host.Outcome State Fault Refusal :=
  onPhase s core 4 fun s w _ => if coreAtRest s core then goOnSwap (s.setSwap core { w with phase := 5 }) core else s

/-- The sections written to OUT, which lies in local device memory, then its header (17 R457, R458, R463). -/
def writeImage (w : Who) (core : Nat) (a : W64) (img : CoreImage) (spad : Bool) (cid flags : Nat) (frame time : W64) : Eng Unit := do
  let s ← Eng.now
  let n := s.images.length
  let flags := flags + 1 + (if spad then 2 else 0) + (if img.threads.any Thread.live then 0 else 8)
  let _ ← localRange w a (imageLen spad) .write
  Eng.change fun s => { s with images := s.images ++ [img] }
  engWrite w (a + 10) [0, 0]
  engWrite w (a + 0x10000) (sectionBytes n)
  let pad ← (if spad then do
      Eng.check (!locPoisoned s (.spad (spadKey core)) (carveBase (s.core core).ways)) fltUncorr a
      let bs ← (fun s => let (s, bs) := takeSpad s core; (.ok bs, s) : Eng (List Byte))
      engWrite w (a + 0x180000) bs
      pure bs
    else pure [])
  let h := imageHeader cid core flags frame time 0
  engWrite w a (imageHeader cid core flags frame time (imageCrc h (sectionBytes n ++ pad)))

/-- The threads of an image that could not be written are lost, with what was parked for them (17 R465). -/
def loseImage (s : State) (core : Nat) (c : Cmd) : State :=
  { s with outs := s.outs.filter fun o => !(o.core == core && o.image == c.outAt && o.ctx == c.ctx) }

/-- The command of an exchange has done its work; the spec gives a CTXSPILL's element no content (17 R463, R464). -/
def doneSwap (s : State) (core : Nat) (w : Swap) (c : Cmd) : State :=
  let (n, s) := s.takeFree
  let v := if c.swaps then BitVec.ofNat 64 (liveMask w.bank + liveMask w.image.threads * 65536) else Config.freeWord n
  leaveLine (workDone (endSwap s core (!c.swaps && w.held)) engCtx w.src c (noted c [v])) core w.src

/-- The messages for a core have left with its image. -/
def emptyMail (s : State) (core : Nat) : State :=
  { s.setCore core { s.core core with mailbox := [] } with mails := s.mails.filter fun x => x.dst != core }

/-- IMAGE_SAVE_DONE (17 R465): OUT is written, its header last; the exchange goes on to RESTORE, a checkpoint ends. -/
def execImageSaveDone (core : Nat) (s : State) : Host.Outcome State Fault Refusal :=
  onPhase s core 5 fun s w c =>
    let chk := if c.swaps then w.chk else s.estream engChk core
    let img := takeImage s core w.bank w.elems chk
    let save : Eng Unit :=
      if c.outAt = 0 then pure ()
      else Eng.named c.outAt (writeImage (whoC c.ctx) core c.outAt img c.swapSpad w.old 0 w.frame w.time)
    match save s with
    | (.ok _, s) =>
      if c.swaps then emptyMail (s.setSwap core { s.swap core with phase := 6 }) core else doneSwap s core w c
    | (.error (.flt code a), s) => faultSwap (loseImage (clearValid s c) core c) core w.src c code a true
    | (.error (.wait _ _), s) => s

/-! ### Parked posts and elements (17 R460) -/

/-- The 32-byte entries of a park: three words in each. -/
def parkEntries (p : Park) : List (List Byte) :=
  (chunk 3 (p.words.length / 3 + 1) (if p.words.isEmpty then [0] else p.words)).map fun ws =>
    leBytes p.isElem.toNat 1 ++ leBytes p.slot 1 ++ leBytes p.arg 1 ++ leBytes p.words.length 1 ++ leBytes 0 4
      ++ (List.range 3).flatMap fun i => leBytes (ws.getD i 0).toNat 8

/-- The image a park belongs to has its header. -/
def parkReady (s : State) (o : OutThread) : Bool :=
  let w := s.swap o.core
  match swapCmd s o.core with
  | some c => !(c.outAt == o.image && decide (w.phase < 6))
  | none => true

/-- PARK_ENTRY (17 R460): the oldest park of a core that can be is appended to its image, and NPARK rises; it waits while its
image holds no room. -/
def execParkEntry (core : Nat) (s : State) : Host.Outcome State Fault Refusal :=
  match s.parks.findIdx? fun p => p.core == core with
  | none => .next s
  | some i => match s.parks[i]? with
    | none => .next s
    | some p =>
      let rest := { s with parks := removeAt s.parks i }
      match outOf s p.core p.slot p.disp with
      | none => .next rest
      | some o =>
        if !parkReady s o then .next s
        else
          let w := whoC o.ctx
          let es := parkEntries p
          let put : Eng Nat := do
            let n ← engVal w (o.image + 12) 4
            if 2040 < n + es.length then Eng.hold 1 []
            engWrite w (o.image + BitVec.ofNat 64 (0x100 + 32 * n)) (es.flatMap id)
            engPut w (o.image + 12) 4 (n + es.length)
            pure n
          match put rest with
          | (.ok n, s') => .next { s' with
              outs := s'.outs.map fun x =>
                if x = o then
                  { x with parked := x.parked + es.length, hands := x.hands ++ if p.hand && p.isElem then [n] else [] }
                else x }
          | (.error _, _) => .next s

/-! ### Restoring (17 R463) -/

/-- 10 R279: the outgoing context's unpinned tasks of a local queue are READY again. -/
def returnLocal (s : State) (core old : Nat) : State :=
  (s.core core).queue.foldl (fun (s : State) e =>
    match taskOf s (dieOf core) e with
    | some t =>
      if t.ctx = old ∧ recPin t.words = false then
        setTask (leaveLocal s t e) (dieOf core) e { t with state := 2, readyAt := s.now - t.readyFor }
      else s
    | none => s) s

/-- The scratchpad after an exchange: from IN, zero for another context, else kept; bytes that leave the carve are undefined. -/
def restoreSpad (s : State) (core : Nat) (w : Swap) (pad : Option (List Byte)) (ways : Nat) : State :=
  match pad with
  | some bs => putSpad s core bs
  | none =>
    if w.cid ≠ w.old then putSpad s core []
    else
      let lo := carveBase (s.core core).ways
      let n := carveBase ways - lo
      let (s, bs) := freeBytes s n
      { s with spad := s.spad.writeBytes (spadKey core + lo) bs }

/-- What is left of IN's park area applied, the incoming core section in place, the owner set (17 R463). -/
def restoreCore (s : State) (core : Nat) (pad : Option (List Byte)) (parks : List (List Byte)) : State :=
  let s := comeBack s core (s.swap core).image (s.swap core).parked (parks.drop (s.swap core).parked)
  let w := s.swap core
  let inn := w.cid ≠ 0
  let ways := if inn then w.image.ways else (s.core core).ways
  let s := restoreSpad s core w pad ways
  let s := putCore s core w.image ways (w.cid == w.old)
  let st := s.estream engChk core
  let chk := w.image.streams.getD 3 {}
  let s := s.setEstream engChk core (if chk.stopped || chk.done then { chk with queue := chk.queue ++ st.queue, taken := st.taken }
    else { st with queue := chk.queue ++ st.queue })
  let s := s.setCore core { s.core core with owner := w.cid }
  if w.old = 0 then s else returnLocal s core w.old

/-- IMAGE_RESTORE_DONE (17 R463, R465). -/
def execImageRestoreDone (core : Nat) (s : State) : Host.Outcome State Fault Refusal :=
  onPhase s core 6 fun s w c =>
    let who := whoC c.ctx
    let load : Eng (Option (List Byte) × List (List Byte)) :=
      if c.inAt = 0 then pure (none, [])
      else Eng.named c.inAt do
        let pad ← (if w.spadIn then do pure (some (← engRead who (c.inAt + 0x180000) spadSize)) else pure none)
        pure (pad, ← parkArea who c.inAt)
    match load s with
    | (.ok (pad, parks), s) => doneSwap (restoreCore s core pad parks) core w c
    | (.error (.flt code a), s) => faultSwap (loseImage (clearValid s c) core c) core w.src c code a true
    | (.error (.wait _ _), s) => s

/-! ### Must-save declarations (17 R466, R467) -/

/-- Bytes of extents. -/
def admitted (xs : List Extent) : Nat := xs.foldl (fun n x => n + x.size) 0

def extentLimit : Nat := 402653184

/-- Two sets of physical pieces overlap. -/
def piecesMeet (a b : List (Nat × Nat)) : Bool := a.any fun x => b.any fun y => overlaps x.1 x.2 y.1 y.2

/-- The lowest free handle below 1,024 (17 R467). -/
def freeHandle (xs : List Extent) : Option Nat := (List.range 1024).find? fun h => !xs.any fun x => x.handle == h

/-- A declaration's fields are as R466 gives. -/
def declOk (s : State) (ctx : Nat) (d : List W64) : Bool :=
  let base := wordAt d 0
  let size := (wordAt d 1).toNat
  let w := wordAt d 2
  let spad := w.getLsbD 9
  let core := bitsAt w 16 8
  base.toNat % 64 == 0 && wordAt d 3 == 0 && bitsAt w 24 8 == 0 && bitsAt w 10 6 == 0 && bitsAt w 3 5 == 0
    && (if w.getLsbD 8 then size == imageLen spad && !s.masks.cores.getLsbD core && (s.core core).owner == ctx
      else size % 64 == 0 && decide (64 ≤ size) && decide (size ≤ extentLimit) && core == 0 && !spad)

/-- The element of MUSTSAVE (17 R467). -/
def mustsaveElem (c : Cmd) (handle : Nat) : Eng (Option (List W64)) := do
  let s ← Eng.now
  pure (noted c [BitVec.ofNat 64 (admitted s.extents % 2 ^ 32 + handle * 2 ^ 32)])

/-- MUSTSAVE ADD, its checks in the order of R467. -/
def mustsaveAdd (c : Cmd) : Eng (Option (List W64)) := do
  let w := whoC c.ctx
  let a := c.w 1
  Eng.check (← Eng.acc fun s => readGrant s c.ctx 2) fltPriv 0
  let d := words64 (← Eng.named a (engRead w a 32))
  let s ← Eng.now
  Eng.check (declOk s c.ctx d) fltBadCmd a
  let size := (wordAt d 1).toNat
  let ps ← Eng.named a (localRange w (wordAt d 0) size .write)
  let s ← Eng.now
  Eng.check (!s.extents.any fun x => piecesMeet ps x.pieces) fltMustSave a
  Eng.check (decide (admitted (s.extents.filter fun x => x.ctx == c.ctx) + size ≤ (ctxWord s c.ctx 5).toNat)
    && decide (admitted s.extents + size ≤ extentLimit)) fltMustSave a
  match freeHandle s.extents with
  | none => Eng.fail fltMustSave a
  | some h =>
    let k := wordAt d 2
    Eng.change fun s => { s with extents := s.extents ++ [{
      handle := h, ctx := c.ctx, base := wordAt d 0, size := size, tag := bitsAt k 32 32, image := k.getLsbD 8
      core := bitsAt k 16 8, spad := k.getLsbD 9, prio := bitsAt k 0 3, pieces := ps }] }
    mustsaveElem c h

/-- MUSTSAVE REMOVE. -/
def mustsaveRemove (c : Cmd) : Eng (Option (List W64)) := do
  let s ← Eng.now
  let h := bitsAt (c.w 1) 0 16
  match s.extents.find? fun x => x.handle == h with
  | none => Eng.fail fltBadCmd (c.w 1)
  | some x =>
    Eng.check (x.ctx == c.ctx) fltAccess (c.w 1)
    Eng.change fun s => { s with extents := s.extents.filter fun x => x.handle != h }
    mustsaveElem c 0

/-- MUSTSAVE CLEAR. -/
def mustsaveClear (c : Cmd) : Eng (Option (List W64)) := do
  Eng.change fun s => { s with extents := s.extents.filter fun x => x.ctx != c.ctx }
  mustsaveElem c 0

/-- The work of a command in one act. -/
def ctxWork (src : Nat) (m : Cmd → Eng (Option (List W64))) (s : State) (c : Cmd) : State := runEng s engCtx src c (ctxStatus src) (m c)

/-- MUSTSAVE ADD (17 R467). -/
def execMustsaveAdd (core : Nat) (s : State) : Host.Outcome State Fault Refusal :=
  ctxRow core s (fun c => c.op == 3 && c.op2 == 0) mustsaveCheck (ctxWork core mustsaveAdd)

/-- MUSTSAVE REMOVE (17 R467). -/
def execMustsaveRemove (core : Nat) (s : State) : Host.Outcome State Fault Refusal :=
  ctxRow core s (fun c => c.op == 3 && c.op2 == 1) mustsaveCheck (ctxWork core mustsaveRemove)

/-- MUSTSAVE CLEAR (17 R467). -/
def execMustsaveClear (core : Nat) (s : State) : Host.Outcome State Fault Refusal :=
  ctxRow core s (fun c => c.op == 3 && c.op2 == 2) mustsaveCheck (ctxWork core mustsaveClear)

/-! ### The hold-up reserve and SHUTSTAT (17 R468, R469) -/

/-- C × (Vb² − 900 V²) / 2 in nanojoules, C in microfarad and Vb in 10 mV (17 R469). -/
def usable (cap vb : Nat) : Nat := cap * (vb * vb - 9000000) / 20

/-- ctl.holdup (17 R479). -/
def holdup (s : State) : W64 := BitVec.ofNat 64 (s.cap % 65536 * 2 ^ 48 + s.vbank % 65536 * 2 ^ 32 + usable s.cap s.vbank / 1000 % 2 ^ 32)

/-- ctl.msave (17 R479). -/
def msave (s : State) : W64 := BitVec.ofNat 64 (s.extents.length * 2 ^ 32 + admitted s.extents)

/-- SHUTSTAT STATUS: always four words. -/
def shutStatus (c : Cmd) : Eng (Option (List W64)) := do
  let s ← Eng.now
  pure (some [msave s, holdup s, BitVec.ofNat 64 (admitted (s.extents.filter fun x => x.ctx == c.ctx)),
    BitVec.ofNat 64 (match s.report with | some r => r.epoch | none => 0)])

/-- Bytes of a page of the shutter store, and of a half (17 R473, 14 R367). -/
def pageBytes : Nat := 16384
def halfPages : Nat := 32768

/-- Pages of a record in a half, in order (17 R473). -/
def recordPages (pages : List SPage) (epoch seq : Nat) : List SPage :=
  (List.range halfPages).filterMap fun i => pages.find? fun p => p.epoch == epoch && p.seq == seq && p.idx == i

/-- A report entry is a whole extent that covers an object's log mirror (14 R384). -/
def RptEntry.mirrors (o : Obj) (e : RptEntry) : Bool :=
  e.cls == 0 && !e.image && e.ctx == o.owner && decide (e.base.toNat ≤ o.img.logbase.toNat)
    && decide (o.img.logbase.toNat + o.esz * o.img.logcap ≤ e.base.toNat + e.size)

/-- A LOAD of an extent to where it was declared restores the log mirrors it covers (14 R384; log 14). -/
def restored (s : State) (e : RptEntry) (dest : W64) : State :=
  { s with objs := s.objs.map fun kv => (kv.1, if e.mirrors kv.2 && dest == e.base then { kv.2 with restoring := false } else kv.2) }

/-- SHUTSTAT LOAD: `bad` is one more than the page of the record that cannot be read, 0 when all can. -/
def shutLoad (bad : Nat) (c : Cmd) : Eng (Option (List W64)) := do
  let s ← Eng.now
  match s.report with
  | none => Eng.fail fltBadCmd 0
  | some r => match r.entries[bitsAt (c.w 0) 32 10]? with
    | none => Eng.fail fltBadCmd 0
    | some e =>
      Eng.check (e.cls != 2) fltBadCmd 0
      Eng.check (e.ctx == c.ctx) fltAccess 0
      let ps := recordPages (Tab.get [] s.halves r.half) r.epoch e.seq
      match (if bad = 0 then none else ps.find? fun p => p.idx + 1 == bad) with
      | some p => Eng.fail fltUncorr (BitVec.ofNat 64 ((r.half * halfPages + p.num) * pageBytes))
      | none =>
        Eng.named (c.w 1) do
          let _ ← localRange (whoC c.ctx) (c.w 1) e.written .write
          engWrite (whoC c.ctx) (c.w 1) (((ps.flatMap SPage.bytes).drop 64).take e.written)
        Eng.change fun s => restored s e (c.w 1)
        pure (noted c [BitVec.ofNat 64 e.written])

/-- SHUTSTAT STATUS (17 R468). -/
def execShutstatStatus (core : Nat) (s : State) : Host.Outcome State Fault Refusal :=
  ctxRow core s (fun c => c.op == 4 && c.op2 == 0) shutstatCheck (ctxWork core shutStatus)

/-- SHUTSTAT LOAD (17 R468). -/
def execShutstatLoad (core bad : Nat) (s : State) : Host.Outcome State Fault Refusal :=
  ctxRow core s (fun c => c.op == 4 && c.op2 == 1) shutstatCheck (ctxWork core (shutLoad bad))

/-! ### Completion, bound and control (17 R462, R479, R480) -/

/-- CTX_COMPLETE (17 R462). -/
def execCtxComplete (core : Nat) (s : State) : Host.Outcome State Fault Refusal := .next (completeCmd s engCtx core)

/-- CTX_CMDBOUND (17 R480): WAITCORE, FILL, DRAIN and flash reads are not counted; the exchange of banks is bounded itself (log 48). -/
def execCtxCmdbound (core : Nat) (s : State) : Host.Outcome State Fault Refusal :=
  let st := s.estream engCtx core
  match st.run with
  | none => .next s
  | some c =>
    if st.stopped || st.done || st.wait != 0 || !boundDue s engCtx core 0 then .next s
    else if c.op = 3 ∨ (c.op = 4 ∧ c.op2 ≠ 1) then .next (boundCmd s engCtx core (ctxStatus core))
    else if 3 < c.op then .next s
    else
      let k := c.swapCore
      match (s.swap k).phase with
      | 2 => .next (faultSwap s k core c fltCmdBound 0 (s.swap k).held)
      | 5 | 6 => .next (faultSwap (loseImage (clearValid s c) k c) k core c fltCmdBound 0 true)
      | _ => .next s

/-- ctl.ctxctl (17 R479): FLUSH, SKIP and RESUME as ctl.attctl (11 R325). -/
def execCtxFlush (core : Nat) (s : State) : Host.Outcome State Fault Refusal := .next (flushStream s engCtx core)

/-- CTX_SKIP (17 R479). -/
def execCtxSkip (core : Nat) (s : State) : Host.Outcome State Fault Refusal := .next (skipStream s engCtx core)

/-- CTX_RESUME (17 R479). -/
def execCtxResume (core : Nat) (s : State) : Host.Outcome State Fault Refusal := .next (resumeStream s engCtx core)

end Machine

end Sys2Proof
end

