-- ==== Sys2Proof/Machine/Shutter.lean ====
section
/-! DEFINITION. The shutter sequence and the restart report (spec 17 R470-R478): the trap, the switch to the bank, the records of
the shutter store, power-down, and what the next boot reads back. The store is written in one act at power-down, from the plan,
the bank watch's cut and the page programs that failed (log 34). -/

namespace Sys2Proof.Machine

/-! ### The trap (17 R471 steps 1, 2) -/

/-- The rows of a block from a layer on are undefined. -/
def freeRows (w : Who) (p : Pool) (b from_ : Nat) (s : State) : State :=
  (List.range p.layers).foldl (fun (s : State) l =>
    if l < from_ then s
    else freeRange (freeRange s w (p.keyAt b l 0 0) (p.heads * 64 * p.rowK)) w (p.valAt b l 0 0) (p.heads * 64 * p.rowV)) s

/-- The blocks a FETCHKV has yet to begin, up to an id that the store lacks; fuel its limit. -/
def blocksLeft (w : Who) (o : Obj) (c : Cmd) : Nat → Look → State → Nat
  | 0, _, _ => 0
  | n + 1, k, s =>
    match nextBlock w o c 257 k s with
    | (.ok (some (_, k)), s) => 1 + blocksLeft w o c n k s
    | _ => 0

/-- The blocks a FETCHKV would still have popped, in the ring's order (11 R303). -/
def nextPops (w : Who) (p : Pool) : Nat → Nat → Eng (List Nat)
  | 0, _ => pure []
  | n + 1, head => do
    let tail ← engVal w (p.addr + 48) 4
    if head = tail then pure []
    else pure ((← engVal w (p.free + BitVec.ofNat 64 (4 * (head % p.fcap))) 4) :: (← nextPops w p n ((head + 1) % 2 ^ 32)))

/-- How many of n entries from number i on a FETCHKV could claim: inside the table, and zero (14 R386). -/
def claimable (w : Who) (sd : SeqDesc) : Nat → Nat → State → Nat
  | 0, _, _ => 0
  | n + 1, i, s =>
    if sd.tcap ≤ i then 0
    else match readVal s w (entryAt sd.tbl i) 8 with
      | .ok (s, 0) => 1 + claimable w sd n (i + 1) s
      | _ => 0

/-- What a FETCHKV would still have written is undefined (14 R389): the rest of its block, the blocks it would have popped, its
entries' words, FHEAD, and LEN; it would have stopped at the first block it could not post. -/
def freeFetch (src : Nat) (c : Cmd) : Eng Unit := do
  let s ← Eng.now
  let w := whoS c.ctx
  let o := s.obj c.xid
  let k := if (s.estream engSch src).prog = 0 then { (s.look src) with index := bitsAt (c.w 0) 8 16 } else s.look src
  let (sd, p) ← fetchDesc w o c k
  let len ← engVal w sd.addr 8
  let s ← Eng.now
  let held := k.cur.isSome.toNat
  let goes := !c.adv || len % 2 ^ 32 == 64 * k.index
  let n := if goes then claimable w sd (blocksLeft w o c 4097 k s) (k.index + held) s else 0
  let pops := (← nextPops w p n (← engVal w (p.addr + 40) 4))
  let bs := pops.takeWhile fun b => decide (b < p.nblk)
  Eng.change fun s => if k.cur.isSome then freeRows w p k.pblk k.layer s else s
  Eng.change fun s => bs.foldl (fun s b => freeRows w p b 0 s) s
  Eng.change fun s => (List.range (bs.length + held)).foldl (fun s i => freeRange s w (entryAt sd.tbl (k.index + i)) 32) s
  Eng.change fun s => if bs.length < n then freeRange s w (entryAt sd.tbl (k.index + held + bs.length)) 8 else s
  Eng.change fun s => if pops.isEmpty then s else freeRange s w (p.addr + 40) 4
  Eng.change fun s => if c.adv && bs.length + held != 0 then freeRange s w sd.addr 4 else s

/-- The rest of a graph search's rounds; fuel its limit (14 R377). -/
def restRounds (o : Obj) (c : Cmd) : Nat → Look → Look
  | 0, k => k
  | n + 1, k =>
    let f := if k.rounds < c.maxr then frontier c k else []
    if f.isEmpty then k else restRounds o c n (endRound o { k with front := f })

/-- What a SEARCH carries when it comes to its results. -/
def searchEnd (src : Nat) (c : Cmd) : Eng Look := do
  let s ← Eng.now
  let o := s.obj c.xid
  let (p, k) ← (if (s.estream engSch src).prog = 0 then do
      let (p, k, _) ← bindSearch src c
      pure (p, k)
    else pure ((s.estream engSch src).prog, s.look src))
  if p = 2 then pure k
  else
    let opened ← (if p = 4 then openSearch c o k else pure k)
    if o.img.kind ≠ 0 then pure (endLists o opened)
    else pure (restRounds o c 256 (if p = 1 then endRound o opened else opened))

/-- A SEARCH would have written its header and as many results as it found, all undefined (14 R379, R389). -/
def freeSearch (src : Nat) (c : Cmd) (s : State) : State :=
  match searchEnd src c s with
  | (.ok k, _) => freeRange s (whoS c.ctx) (c.w 2) (64 + 16 * (results (s.obj c.xid) c k).length)
  | (.error _, _) => s

/-- What an IDXAPPEND or IDXDELETE would have written is undefined (14 R389): the mirror entries it would have taken that are free,
after those of the appends that started before it. -/
def freeAppend (src : Nat) (c : Cmd) (s : State) : State :=
  let o := s.obj c.xid
  let count := fun (c : Cmd) => bitsAt (c.w 0) 0 13 + 1
  let before := (o.order.takeWhile (· != src)).foldl (fun n x => match (s.estream engSch x).run with
    | some y => if pendsOn s c.xid x fun y => y.op == 3 || y.op == 4 then n + count y else n
    | none => n) 0
  ((List.range (count c)).filter fun i => decide (o.head + before + i < o.set.merged + o.img.logcap)).foldl
    (fun s i => freeRange s (whoS o.owner) (o.logAt (o.head + before + i)) o.esz) s

/-- What an XFERL would still have written is undefined (16 R452): the blocks it has not sent, the ARRIVE words of those, and of the
blocks whose ORs wait; fuel the blocks. -/
def freeXfer (src : Nat) (c : Cmd) : Nat → Nat → Eng Unit
  | 0, _ => Eng.change fun s => (s.xrun src).ors.foldl (fun s o => freeRange s (whoX o.cmd.ctx) (arriveWord o.cmd o.entry) 8) s
  | n + 1, i => do
    let (_, _, ds, dp) ← xferFirst src c
    let d ← readEntry (whoX c.ctx) ds.tbl i
    Eng.change fun s => freeRange (freeLayer s c dp d.pblk) (whoX c.ctx) (arriveWord c d.addr) 8
    freeXfer src c n (i + 1)

/-- The bytes an abandoned command would have written are undefined (14 R389, 16 R452). -/
def abandonBytes (s : State) (eng src : Nat) (c : Cmd) : State :=
  if eng = engLnk then
    if c.op = 3 then freeRange s (whoL c.ctx) (c.w 2) (collSpan s c)
    else if c.op = 2 then freeRange s (whoL c.ctx) (c.w 1) (if c.kind1 then 16 else 128)
    else if c.op = 4 ∧ c.kind1 = false then
      freeRange { s with hostReqs := Tab.drop s.hostReqs src, fbq := s.fbq.filter (· != hostWho src) } (whoL c.ctx) (c.w 1) 8
    else s
  else if eng = engXfr then
    let s := if (s.estream engXfr src).prog = 0 then s.setXrun src { ors := (s.xrun src).ors } else s
    let sent := (s.xrun src).next
    (freeXfer src c (bitsAt (c.w 0) 8 16 + 1 - sent) (bitsAt (c.w 0) 24 16 + sent) s).2
  else if c.op = 1 then freeSearch src c s
  else if c.op = 2 then (freeFetch src c s).2
  else if c.op = 3 ∨ c.op = 4 then freeAppend src c s
  else s

/-- SCH, LNK and XFR abandon what they run; a MUSTSAVE ADD that has not admitted its extent is not applied (17 R471, R478). -/
def abandons (eng : Nat) (st : EStream) (c : Cmd) : Bool :=
  eng == engSch || eng == engLnk || eng == engXfr || (eng == engCtx && c.op == 3 && c.op2 == 0 && !st.done)

/-- A stream's running command abandoned: no post, no element. -/
def abandon (s : State) (key : Nat) : State :=
  let eng := key / 512
  let src := key % 512
  let st := s.estream eng src
  match st.run with
  | none => s
  | some c =>
    if st.stopped || !abandons eng st c then s
    else
      let s := if st.done || eng == engCtx then s else abandonBytes s eng src c
      s.setEstream eng src { s.estream eng src with run := none, wait := 0, held := none, done := false, prog := 0, data := [] }

/-- An exchange that the trap meets in BANK completes its 96 clocks, and what it has not saved is lost (17 R478). -/
def haltSwap (s : State) (core : Nat) : State :=
  let w := s.swap core
  if w.phase = 3 ∧ w.swaps = true then s.setSwap core { w with lost := true } else s

/-- SHUTTER_TRAP (17 R471, R389, R452): issue stops, frame counters freeze, no engine takes a command. -/
def execShutterTrap (s : State) : Host.Outcome State Fault Refusal :=
  if s.shut.phase ≠ 0 then .next s
  else
    let s := (s.streams.map Prod.fst).foldl abandon s
    let s := (s.swaps.map Prod.fst).foldl haltSwap s
    let s := (s.groups.map Prod.fst).foldl withdrawGroup s
    let dqs : Tab DqPair := s.dqs.map fun kv => (kv.1, { kv.2 with drafts := [], verdicts := [], taken := [] })
    .next { s with dqs := dqs, xruns := [], shut := { phase := 1, time := s.time } }

/-! ### The switch to the bank (17 R471 steps 3, 4, R472) -/

/-- A stream of an engine stands at a boundary: nothing of it is under way but a wait, or the placing of an element that finds
its queue full (01 R24, 09 R257). -/
def streamRests (s : State) (eng : Nat) (st : EStream) : Bool :=
  match st.run with
  | none => true
  | some c => st.stopped || st.wait != 0 || (st.done && !handRoom s eng c st.held)

/-- The command of a stream of CTX is an exchange that ends with its banks, which it has exchanged (17 R478). -/
def swapLost (s : State) (eng : Nat) (st : EStream) : Bool :=
  eng == engCtx && match st.run with
    | some c => c.op == 1 && (s.swap c.swapCore).lost && decide (4 ≤ (s.swap c.swapCore).phase)
    | none => false

/-- Every engine stands at a boundary, and no core's banks are being exchanged. -/
def allAtRest (s : State) : Bool :=
  (s.streams.all fun kv => streamRests s (kv.1 / 512) kv.2 || swapLost s (kv.1 / 512) kv.2)
    && (s.mats.all fun kv => kv.2.rests)
    && (s.chans.all fun kv => kv.2.refill.isNone && (kv.2.state != 3 || (entryToq kv.2.entry && !kv.2.moved)))
    && (s.swaps.all fun kv => kv.2.phase != 3)

/-- A port's queue emptied: every request waiting there performed, then every entry drained (15 R400, R403). -/
def drainPort (s : State) (port : Nat) : State :=
  let lines := (s.port port).entries.map PEntry.line ++ (s.port port).arr.map fun r => lineOf r.pa
  let s := lines.foldl settleLine s
  ((s.port port).entries.map PEntry.line).foldl (fun s l => endDrain (startDrain s port l) port l) s

/-- Every request waiting at a port is performed, and the write queues drain (17 R471 step 3, 04 R118). -/
def settlePorts (s : State) : State := (s.ports.map Prod.fst).foldl drainPort s

/-- Bytes written to physical pieces in order. -/
def writePhys (s : State) : List (Nat × Nat) → List Byte → State
  | [], _ => s
  | (pa, n) :: ps, bs => writePhys (devWrite s pa (bs.take n)) ps (bs.drop n)

/-- The bytes of physical pieces. -/
def readPhys (s : State) (ps : List (Nat × Nat)) : List Byte := ps.flatMap fun p => s.dev.bytes p.1 p.2

/-- CTX may make its requests to an extent's pieces for its context (04 R102). -/
def pieceAllowed (s : State) (x : Extent) (kind : Kind) (p : Nat × Nat) : Bool := portsAllow s x.ctx (2 + engCtx) kind 0 p.1 p.2

/-- The bytes of an extent, up to a piece the access tables deny (log 34). -/
def extentBytes (s : State) (x : Extent) : List Byte := readPhys s (x.pieces.takeWhile (pieceAllowed s x .read))

/-- The image that an IMAGE extent of a core receives, and its CID: the core's threads of the extent's context with its core section; or,
after an exchange that the trap met in BANK, the incoming state (17 R471, R478). -/
def trapImage (s : State) (x : Extent) : CoreImage × Nat :=
  let k := x.core
  let w := s.swap k
  let now := bankNow s k
  if w.lost then
    let chk := s.estream engChk k
    let old := w.image.streams.getD 3 {}
    ({ w.image with
      threads := now, elems := bankElems s k now, queue := (s.core k).queue
      streams := w.image.streams.take 3 ++ [{ old with queue := old.queue ++ chk.queue, taken := chk.taken }] },
      if w.cid = 0 then x.ctx else w.cid)
  else
    let bank := now.map fun t => if t.live && t.ctx == x.ctx then t else {}
    (takeImage s k bank (bankElems s k bank) (s.estream engChk k), x.ctx)

/-- Its scratchpad section: IN's, zero for another context, else the core's own, the carve's bytes undefined (17 R457, R463, R478). -/
def trapSpad (s : State) (x : Extent) : State × List Byte :=
  let w := s.swap x.core
  match w.lost, swapCmd s x.core with
  | true, some c =>
    let n := carveBase w.image.ways
    let (s, tail) := freeBytes s (spadSize - n)
    if w.spadIn then
      match readRange s (whoC c.ctx) (c.inAt + 0x180000) spadSize with
      | .ok (s, bs) => (s, bs.take n ++ tail)
      | .error _ => freeBytes s spadSize
    else if w.cid ≠ w.old then (s, List.replicate n 0 ++ tail)
    else (s, s.spad.bytes (spadKey x.core) n ++ tail)
  | _, _ => takeSpad s x.core

/-- The image of an IMAGE extent's core, with SHUT, and EMPTY when it holds no live slot (17 R471 step 3). -/
def saveExtent (s : State) (x : Extent) : State :=
  if !x.image || !x.pieces.all (pieceAllowed s x .write) then s
  else
    let k := x.core
    let (img, cid) := trapImage s x
    let n := s.images.length
    let s := { s with images := s.images ++ [img] }
    let (s, pad) := if x.spad then trapSpad s x else (s, [])
    let flags := 5 + (if x.spad then 2 else 0) + (if img.threads.any Thread.live then 0 else 8)
    let frame := (s.qmg (dieOf k)).frame
    let h := imageHeader cid k flags frame s.shut.time 0
    let head := imageHeader cid k flags frame s.shut.time (imageCrc h (sectionBytes n ++ pad))
    writePhys s x.pieces (head ++ ((readPhys s x.pieces).drop 256).take 0xFF00 ++ sectionBytes n ++ pad)

/-- Write order: PRIO ascending, then admission (17 R473). -/
def writeOrder (xs : List Extent) : List Extent := (List.range 8).flatMap fun p => xs.filter fun x => x.prio == p

/-- The data bytes the bank's energy allows (17 R472): 250 nJ for each 64 bytes past a reserve of 20 mJ. -/
def planBytes (cap vb a : Nat) : Nat := min a (64 * ((usable cap vb - 20000000) / 250))

/-- SHUTTER_SWITCH_IN (17 R471, R472): with the C and Vb measured, in microfarad and 10 mV. -/
def execShutterSwitchIn (cap vb : Nat) (s : State) : Host.Outcome State Fault Refusal :=
  if s.shut.phase ≠ 1 ∨ allAtRest s = false then .next s
  else
    let s := settlePorts s
    let s := s.extents.foldl saveExtent s
    let off := 35 :: List.range 32
    let xs := writeOrder s.extents
    .next { off.foldl (fun s i => setPoint s i 2) s with
      cap := cap, vbank := vb
      shut := { s.shut with
        phase := 2, vtrap := vb, cap := cap, planB := planBytes cap vb (admitted xs), total := admitted xs
        recs := xs.map fun x => (x, extentBytes s x) } }

/-- BANK_WATCH_CUT (17 R472): the bank has fallen to its reserve when `bytes` data bytes are written. -/
def execBankWatchCut (bytes : Nat) (s : State) : Host.Outcome State Fault Refusal :=
  if s.shut.phase = 2 ∧ s.shut.cut = none ∧ bytes ≤ s.shut.planB then .next { s with shut := { s.shut with cut := some bytes } }
  else .next s

/-- PAGE_PROGRAM_FAIL (17 R473): the program with this number in the sequence fails. -/
def execPageProgramFail (idx : Nat) (s : State) : Host.Outcome State Fault Refusal :=
  if s.shut.phase = 2 then .next { s with shut := { s.shut with fails := idx :: s.shut.fails } } else .next s

/-! ### Records (17 R473, R474, R477) -/

/-- Data bytes of each extent in write order under a limit: none after the one it cuts. -/
def shares : Nat → List Nat → List Nat
  | _, [] => []
  | n, z :: zs => min n z :: shares (n - z) zs

/-- A record's header. -/
def recHeader (kind epoch seq : Nat) (handle decl cid tag size : Nat) (base : W64) : List Byte :=
  let h := leBytes 0x53544858 4 ++ leBytes kind 4 ++ leBytes epoch 8 ++ leBytes seq 4 ++ leBytes handle 2 ++ leBytes decl 2
    ++ leBytes cid 4 ++ leBytes tag 4 ++ leBytes size 8 ++ leBytes base.toNat 8 ++ List.replicate 12 0
  h ++ leBytes (crc32c h).toNat 4

/-- A record's trailer. -/
def recTrailer (epoch seq : Nat) (data : List Byte) : List Byte :=
  let t := leBytes (epoch % 2 ^ 32) 4 ++ leBytes (epoch / 2 ^ 32) 4 ++ leBytes seq 4 ++ leBytes (crc32c data).toNat 4
    ++ List.replicate 44 0
  t ++ leBytes (crc32c t).toNat 4

/-- A manifest or report entry (17 R477). -/
def entryBytes (x : Extent) (written cls flags : Nat) : List Byte :=
  leBytes x.ctx 4 ++ leBytes x.tag 4 ++ leBytes x.size 8 ++ leBytes written 8 ++ leBytes x.handle 2 ++ leBytes x.prio 1 ++ leBytes cls 1
    ++ leBytes x.image.toNat 1 ++ leBytes x.core 1 ++ leBytes flags 2

/-- What writing records has come to: the pages, the next page, the programs made. -/
structure Writer where
  pages : List SPage := []
  next : Nat := 0
  progs : Nat := 0

/-- A page written, again at the next free page when its program fails; `false` when it fails twice (17 R473). -/
def Writer.page (fails : List Nat) (epoch seq idx : Nat) (bytes : List Byte) (w : Writer) : Writer × Bool :=
  if !fails.contains w.progs then
    (⟨w.pages ++ [⟨w.next, epoch, seq, idx, bytes, false⟩], w.next + 1, w.progs + 1⟩, true)
  else if !fails.contains (w.progs + 1) then
    (⟨w.pages ++ [⟨w.next + 1, epoch, seq, idx, bytes, true⟩], w.next + 2, w.progs + 2⟩, true)
  else (⟨w.pages, w.next + 2, w.progs + 2⟩, false)

/-- A record's pages written in order, abandoned at one that fails twice: the pages that stand. -/
def Writer.record (fails : List Nat) (epoch seq : Nat) : List (List Byte) → Nat → Writer → Writer × Nat
  | [], idx, w => (w, idx)
  | b :: bs, idx, w => match w.page fails epoch seq idx b with
    | (w, true) => Writer.record fails epoch seq bs (idx + 1) w
    | (w, false) => (w, idx)

/-- The pages of a record's bytes. -/
def recPages (bs : List Byte) : List (List Byte) := chunk pageBytes (bs.length / pageBytes + 1) bs

/-- The extents' records written: each extent with its data and its share; the directory's entries (17 R474). A record ends where its
data could not be read, as at a page that failed (log 34). -/
def writeExtents (fails : List Nat) (epoch : Nat) : Nat → List ((Extent × List Byte) × Nat) → Writer → Writer × List Byte
  | _, [], w => (w, [])
  | seq, ((x, data), n) :: rest, w =>
    let d := data.take n
    let whole := n == x.size && d.length == n
    let bs := recHeader 1 epoch seq x.handle (x.image.toNat + 2 * x.spad.toNat + 256 * x.core) x.ctx x.tag x.size x.base ++ d
      ++ (if whole then recTrailer epoch seq d else [])
    let pages := recPages bs
    let (w, k) := if n = 0 then (w, 0) else Writer.record fails epoch seq pages 0 w
    let state := if n = 0 then 3 else if k < pages.length ∨ d.length < n then 2 else if whole then 0 else 1
    let written := if k < pages.length then min d.length (k * pageBytes - 64) else d.length
    let e := leBytes seq 4 ++ leBytes state 4 ++ leBytes (crc32c (d.take written)).toNat 4 ++ leBytes 0 4 ++ leBytes written 8 ++ leBytes 0 8
    let (w, es) := writeExtents fails epoch (seq + 1) rest w
    (w, e ++ es)

/-- The pages of a sequence: manifest, extent records, directory; and the data bytes its records hold. -/
def storePages (h : Shut) (epoch : Nat) : List SPage × Nat :=
  let sizes := h.recs.map fun r => r.1.size
  let plan := shares h.planB sizes
  let real := shares (match h.cut with | some n => n | none => h.planB) sizes
  let entries := ((h.recs.zip plan).map fun r => entryBytes r.1.1 r.2 0 0).flatten
  let manifest := recHeader 0 epoch 0 0 0 0 0 entries.length 0 ++ entries ++ recTrailer epoch 0 entries
  let (w, _) := Writer.record h.fails epoch 0 (recPages manifest) 0 {}
  let (w, dir) := writeExtents h.fails epoch 1 (h.recs.zip real) w
  let last := h.recs.length + 1
  let directory := recHeader 2 epoch last 0 0 0 0 dir.length 0 ++ dir ++ recTrailer epoch last dir
  let (w, _) := Writer.record h.fails epoch last (recPages directory) 0 w
  (w.pages.filter fun p => decide (p.num < halfPages),
    (List.range h.recs.length).foldl (fun n i => n + hdrField dir (32 * i + 16) 8) 0)

/-- What a package without power keeps (17 R473, R475): the store, flash objects, firmware, fuses and mask record, what the trap
measured; the model's own fields, host memory and the other packages. A channel keeps that it was retired (15 R412). -/
def coldState (s : State) : State :=
  { sched := s.sched, cursor := s.cursor, freeCtr := s.freeCtr, time := s.time, host := s.host, remote := s.remote, msix := s.msix
    images := s.images, halves := s.halves, target := s.target, epoch := s.epoch
    shut := { s.shut with recs := [] }
    cap := s.cap, vbank := s.vbank, firmware := s.firmware, svn := s.svn, maskRec := s.maskRec
    rsaHash := s.rsaHash, slhHash := s.slhHash, secret := s.secret, certRsa := s.certRsa, certSlh := s.certSlh
    objs := s.objs.map fun kv => (kv.1, { kv.2 with merging := false, writers := [], order := [] })
    ports := s.ports.filterMap fun kv => if kv.2.retired then some (kv.1, ({ retired := true } : Port)) else none
    reqbase := s.reqbase, reqtail := s.reqtail, reqhead := s.reqhead }

/-- SHUTTER_POWER_DOWN (17 R471 step 6): the records stand in the store; `vend` is the bank's voltage in 10 mV. -/
def execShutterPowerDown (vend : Nat) (s : State) : Host.Outcome State Fault Refusal :=
  if s.shut.phase ≠ 2 then .next s
  else
    let e := s.epoch + 1
    let (pages, n) := storePages s.shut e
    .next (coldState { s with
      epoch := e, halves := Tab.set s.halves s.target pages
      vbank := vend, reqbase := 0, reqtail := 0, reqhead := 0, shut := { s.shut with phase := 3, vend := vend, written := n } })

/-! ### What the boot reads back (17 R475-R477) -/

/-- The bytes of a record from its first page on, as far as its pages can be read without a gap. -/
def recBytes (pages : List SPage) (epoch seq : Nat) : List Byte :=
  let ps := recordPages pages epoch seq
  ((ps.zipIdx.takeWhile fun p => p.1.idx == p.2).map fun p => p.1.bytes).flatten

/-- A header is valid: MAGIC and HCRC. -/
def headerOk (bs : List Byte) : Bool :=
  decide (64 ≤ bs.length) && hdrField bs 0 4 == 0x53544858 && (crc32c (bs.take 60)).toNat == hdrField bs 60 4

/-- The trailer of a record of n data bytes: whether it is there, and valid with its data (TCRC, DCRC, EPOCH and SEQ). -/
def trailerOk (bs : List Byte) (n epoch seq : Nat) : Bool × Bool :=
  let t := bs.drop (64 + n)
  (decide (64 ≤ t.length), decide (64 ≤ t.length) && (crc32c (t.take 60)).toNat == hdrField t 60 4
    && hdrField t 12 4 == (crc32c ((bs.drop 64).take n)).toNat && hdrField t 0 8 == epoch && hdrField t 8 4 == seq)

/-- A record that is complete and valid: its data. -/
def recData (pages : List SPage) (epoch seq kind : Nat) : Option (List Byte) :=
  let bs := recBytes pages epoch seq
  let n := hdrField bs 0x20 8
  if headerOk bs && hdrField bs 4 4 == kind && (trailerOk bs n epoch seq).2 then some ((bs.drop 64).take n) else none

/-- The highest EPOCH in a valid header of a half. -/
def halfEpoch (pages : List SPage) : Nat :=
  pages.foldl (fun m p => if p.idx == 0 && headerOk p.bytes then max m (hdrField p.bytes 8 8) else m) 0

/-- An entry of the report: x is the manifest's entry number s (17 R475, R477). `dir` is the directory's data. -/
def classify (pages : List SPage) (epoch : Nat) (dir : Option (List Byte)) (x : List Byte) (seq : Nat) : RptEntry :=
  let bs := recBytes pages epoch seq
  let size := hdrField x 8 8
  let found := headerOk bs
  let data := if found then (bs.drop 64).take size else []
  let (there, good) := trailerOk bs size epoch seq
  let d := dir.map fun d => (d.drop (32 * (seq - 1))).take 32
  let state := d.map fun d => hdrField d 4 4
  let sum := d.map fun d => hdrField d 8 4
  let cls := if !found then 2 else if good && state == some 0 && sum == some (crc32c data).toNat then 0 else 1
  let cut := match state with
    | some k => k == 1 || k == 3
    | none => decide (hdrField x 16 8 < size)
  let pageFail := (recordPages pages epoch seq).any SPage.moved || state == some 2
  let crcFail := found && ((there && !good) || (match sum with | some v => v != (crc32c data).toNat | none => false))
  { ctx := hdrField x 0 4, tag := hdrField x 4 4, size := size, written := data.length, handle := hdrField x 24 2
    prio := hdrField x 26 1, cls := cls, image := hdrField x 28 1 == 1, core := hdrField x 29 1
    flags := cut.toNat + 2 * pageFail.toNat + 4 * crcFail.toNat, seq := seq
    base := BitVec.ofNat 64 (if found then hdrField bs 0x28 8 else 0) }

/-- The report of the boot after a sequence (17 R475): NOMAN, DIRGOOD, and the entries. `unread` are the store's pages, by half ×
32,768 + number, that cannot be read. -/
def readReport (s : State) (unread : List Nat) : Report × Bool × Bool :=
  let readable := fun (h : Nat) => (Tab.get [] s.halves h).filter fun p => !unread.contains (h * halfPages + p.num)
  let half := if halfEpoch (readable 0) < halfEpoch (readable 1) then 1 else 0
  let pages := readable half
  let epoch := halfEpoch pages
  match recData pages epoch 0 0 with
  | none => (⟨epoch, half, []⟩, true, false)
  | some m =>
    let n := m.length / 32
    let dir := recData pages epoch (n + 1) 2
    (⟨epoch, half, (List.range n).map fun i => classify pages epoch dir ((m.drop (32 * i)).take 32) (i + 1)⟩, false, dir.isSome)

/-- A report entry's bytes. -/
def RptEntry.bytes (e : RptEntry) : List Byte :=
  leBytes e.ctx 4 ++ leBytes e.tag 4 ++ leBytes e.size 8 ++ leBytes e.written 8 ++ leBytes e.handle 2 ++ leBytes e.prio 1
    ++ leBytes e.cls 1 ++ leBytes e.image.toNat 1 ++ leBytes e.core 1 ++ leBytes e.flags 2

/-- The report at ctl.ctxrpt (17 R476). -/
def writeReport (s : State) (r : Report) (noman dirgood : Bool) : State :=
  let h := s.shut
  let cut := decide (h.planB < h.total) || h.cut.isSome
  let bs := leBytes r.epoch 8 ++ leBytes h.time.toNat 8 ++ leBytes h.vtrap 2 ++ leBytes h.vend 2 ++ leBytes h.cap 4 ++ leBytes h.planB 8
    ++ leBytes h.written 8 ++ leBytes r.entries.length 4 ++ leBytes (noman.toNat + 2 * dirgood.toNat + 4 * cut.toNat) 4
    ++ List.replicate 16 0 ++ r.entries.flatMap RptEntry.bytes
  devWrite { s with report := some r } s.ctxrpt bs

/-- 14 R384: an object's log after a restart: its tail stands only in a mirror whose extent is whole; what was programmed comes from
flash. The mirror is to be loaded back first. -/
def restoreLog (r : Option Report) (o : Obj) : Obj :=
  let kept := match r with
    | none => false
    | some r => r.entries.any (RptEntry.mirrors o)
  let o := { o with cold := o.flushed, restoring := kept && decide (o.flushed < o.head) }
  if kept then o else { o with head := o.flushed, sealPos := min o.sealPos o.flushed }

end Sys2Proof.Machine
end

