-- ==== Sys2Proof/Machine/Supervisor.lean ====
section
/-! DEFINITION. The supervisor (spec 18 R482-R496): boot, the request ring and every request, access tables, islands, health,
masks, attestation. Cryptography is uninterpreted (log 35). -/

namespace Sys2Proof

/-- What a firmware image carries, whose layout the spec does not give: its body, the digest of it, the two public keys, its security
version (18 R483; log 35). -/
opaque Config.imageBody : List Byte → List Byte
opaque Config.imageDigest : List Byte → List Byte
opaque Config.imageRsaKey : List Byte → List Byte
opaque Config.imageSlhKey : List Byte → List Byte
opaque Config.imageSvn : List Byte → BitVec 16

/-- An image's RSA-3072 and its SLH-DSA-SHA2-192s signature verify under a key over a digest (18 R483; log 35). -/
opaque Config.rsaVerifies : List Byte → List Byte → List Byte → Bool
opaque Config.slhVerifies : List Byte → List Byte → List Byte → Bool

/-- The device's key of a scheme (0 RSA-3072, 1 SLH-DSA-SHA2-192s), from the fused secret and the firmware digest (18 R494; log 35). -/
opaque Config.deviceKey : Nat → List Byte → List Byte → List Byte

/-- Byte i of a signature of a scheme under a key of a message, with the n-th randomness (18 R494; log 35). -/
opaque Config.signature : Nat → List Byte → List Byte → Nat → Nat → Byte

/-- Byte i of the SHA-384 of bytes (18 R494; log 35). -/
opaque Config.sha384 : List Byte → Nat → Byte

/-- Byte i of the SHA-384 of the boot ROM (18 R494; log 35). -/
opaque Config.romDigest : Nat → Byte

namespace Machine

/-! ### Masks (18 R493, 01 R36) -/

/-- A mask record: 4,096 bytes. -/
def padRec (r : List Byte) : List Byte := r.take 4096 ++ List.replicate (4096 - r.length) 0

/-- Module m's 16 bytes. -/
def recModule (r : List Byte) (m : Nat) : Nat := hdrField r (0x40 + 16 * m) 16

/-- Zero where R493 wants zero. -/
def recordOk (r : List Byte) : Bool :=
  hdrField r 0x3C 4 / 2 ^ 18 == 0 && (List.range 160).all (fun m => recModule r m / 2 ^ 66 == 0) && (r.drop 0xA40).all (· == 0)

/-- The record with a bit set at bit b of byte offset off. -/
def recSet (r : List Byte) (off b : Nat) : List Byte := updAt (fun x => x ||| BitVec.twoPow 8 (b % 8)) r (off + b / 8)

/-- The units a record and the fuses mask: fused cores 0-255, channels from 256, controllers from 448, fabric ports from 480. -/
def masksOf (r : List Byte) (fused : List Nat) : Masks :=
  let bits := fun (lo n : Nat) => fused.foldl (fun m u => if lo ≤ u ∧ u < lo + n then Nat.lor m (2 ^ (u - lo)) else m) 0
  { cores := BitVec.ofNat 256 (Nat.lor (hdrField r 0 32) (bits 0 256))
    ports := BitVec.ofNat 192 (Nat.lor (hdrField r 0x20 24) (bits 256 192))
    ctls := BitVec.ofNat 32 (Nat.lor (hdrField r 0x38 4) (bits 448 32))
    fabric := BitVec.ofNat 18 (Nat.lor (hdrField r 0x3C 4) (bits 480 18))
    record := r }

/-- The record with the channels retired while running, and the lanes condemned in training (module × 66 + lane). -/
def trainedRec (s : State) (train : List Nat) : List Byte :=
  let r := padRec s.maskRec
  let r := s.ports.foldl (fun r kv => if kv.2.retired ∧ kv.1 < 192 then recSet r 0x20 kv.1 else r) r
  train.foldl (fun r t => if t < 160 * 66 then recSet r (0x40 + 16 * (t / 66)) (t % 66) else r) r

/-- The modules of the die links under a record and the repair modes (16 R420). -/
def modsOf (r : List Byte) (half : BitVec 3) : Tab LinkMod :=
  (List.range 160).map fun m =>
    let f := BitVec.ofNat 66 (recModule r m)
    (m, { failed := f, state := widthState (half.getLsbD (linkOf m).1) f })

/-! ### Boot (18 R482-R484, R495, R496) -/

/-- The bases a boot sets, in the order of the BOOT row's list: ctl.qback, ctl.qlog, ctl.qnode and ctl.mplog of west and east,
then ctl.lnklog, ctl.schobj, ctl.ctxtab, ctl.ctxrpt, sv.selog, sv.health; with the alignment of each. Last in the list stands
the BAR2 page that shows the health page. -/
def baseAligns : List Nat :=
  [2 ^ 22, 2 ^ 22, 65536, 65536, 65536, 65536, 16384, 16384, 16384, 8192, 262144, 65536, 65536, 4096]

/-- Every base is set and aligned, in device memory (18 R495). -/
def basesOk (s : State) (bases : List Nat) : Bool :=
  bases.length == baseAligns.length + 1 && decide (bases.getD 14 0 < 32768) && (bases.zip baseAligns).all fun b => b.1 != 0 && b.1 % b.2 == 0 && devMapped s b.1 1

/-- The thresholds of ctl.mpthr lie in their range (15 R414). -/
def thrsOk (thrs : List Nat) : Bool := thrs.length ≤ 192 && thrs.all fun t => decide (256 ≤ t) && decide (t ≤ 32768)

/-- Step 5: the bases, thresholds, and access tables cleared. -/
def setBases (s : State) (bases thrs : List Nat) : State :=
  let b := fun (i : Nat) => bases.getD i 0
  let q := fun (d : Nat) => { s.qmg d with qback := b d, log := ⟨b (2 + d), 0⟩, qnode := b (4 + d), tick := 0, placeAt := [] }
  { s with
    qmgs := [(0, q 0), (1, q 1)]
    mplog := [(0, ⟨b 6, 0⟩), (1, ⟨b 7, 0⟩)]
    lnklog := ⟨b 8, 0⟩, schobj := b 9, ctxtab := b 10, ctxrpt := b 11, selog := ⟨b 12, 0⟩, health := b 13
    ports := thrs.zipIdx.map fun t => (t.2, { thr := t.1 })
    access := [], bar2 := [(b 14, (b 13 / 65536 * 65536, 1))] }

/-- Steps 2 and 3: masks and links are in force. -/
def bootMasks (s : State) (half : Nat) (fused train : List Nat) : State :=
  let r := trainedRec s train
  let hm := BitVec.ofNat 3 half
  { s with
    maskRec := r, masks := masksOf r fused, halfMode := hm, mods := modsOf r hm, ports := [], islands := [], islandClk := [] }

/-- A die has a cluster with a core that is not masked. -/
def clusterLeft (s : State) (die : Nat) : Bool := (List.range 128).any fun c => !s.masks.cores.getLsbD (die * 128 + c)

/-- A die-to-hub link has a live module. -/
def linkLeft (s : State) (link : Nat) : Bool := (linkMods link).any fun m => (s.mod m).state != 2

/-- Steps 4 to 6. -/
def bootRest (s : State) (bases thrs unread : List Nat) : State :=
  let ran := s.shut.phase = 3
  let s := setBases s bases thrs
  let s :=
    if ran then
      let (r, noman, dirgood) := readReport s unread
      let s := writeReport s r noman dirgood
      { s with halves := Tab.set s.halves (1 - r.half) [], target := 1 - r.half }
    else s
  let s := if ran then { s with objs := s.objs.map fun kv => (kv.1, restoreLog s.report kv.2) } else s
  let s := s.objs.foldl (fun (s : State) kv => if kv.2.live then putObj s kv.1 kv.2 else s) s
  { s with svState := 2, svCode := 0, shut := {} }

/-- The SHA-384 of bytes. -/
def shaOf (bs : List Byte) : List Byte := (List.range 48).map (Config.sha384 bs)

/-- The checks of a firmware image (18 R483): the body's digest, each public key against its fused hash, both signatures over the
digest, and the security version. -/
def firmwareChecks (s : State) (img : List Byte) : List Bool :=
  let digest := Config.imageDigest img
  [shaOf (Config.imageBody img) == digest,
    shaOf (Config.imageRsaKey img) == s.rsaHash, Config.rsaVerifies (Config.imageRsaKey img) digest img,
    shaOf (Config.imageSlhKey img) == s.slhHash, Config.slhVerifies (Config.imageSlhKey img) digest img,
    decide (s.svn ≤ Config.imageSvn img)]

/-- An image is accepted only when no check fails (18 R483). -/
def firmwareAccepted (s : State) (img : List Byte) : Bool := (firmwareChecks s img).all id

/-- Step 1 with an accepted image: the fuses rise to its version, it is in force, and the device's keys are derived (18 R483, R494). -/
def loadFirmware (s : State) : State :=
  let digest := shaOf (Config.imageBody s.firmware)
  { s with
    time := 0, svState := 1, svn := Config.imageSvn s.firmware, running := s.firmware
    idRsa := Config.deviceKey 0 s.secret digest, idSlh := Config.deviceKey 1 s.secret digest }

/-- BOOT (18 R482), in two acts: from ROM the firmware is checked, and stands in LOADING or RECOVERY; from LOADING the package comes up,
with the repair modes chosen, the bases, the thresholds by port, the fused masks, the lanes condemned in training, and the pages of the
store that cannot be read (log 36). -/
def execBoot (half : Nat) (bases thrs fused train unread : List Nat) (s : State) : Host.Outcome State Fault Refusal :=
  if s.shut.phase ≠ 0 ∧ s.shut.phase ≠ 3 then .next s
  else match s.svState with
    | 0 => .next (if firmwareAccepted s s.firmware then loadFirmware s else { s with time := 0, svState := 3, svCode := fltSignature })
    | 1 =>
      let up := bootMasks s half fused train
      if !clusterLeft up 0 || !clusterLeft up 1 || !linkLeft up 1 || !linkLeft up 2 then .next (stopFree up)
      else if basesOk up bases && thrsOk thrs then .next (bootRest up bases thrs unread)
      else .next s
    | _ => .next s

/-! ### BAR0 (18 R485, R489) -/

/-- sv.bootst. -/
def svBootst (s : State) : W64 := BitVec.ofNat 64 (s.svn.toNat * 2 ^ 48 + s.svState % 8 * 2 ^ 32 + s.svCode.toNat)

/-- sv.islandi: POINT and TEMP. -/
def svIsland (s : State) (i : Nat) : W64 := BitVec.ofNat 64 (Tab.get 0 s.temps i % 256 * 256 + Tab.get 0 s.islands i % 4)

/-- sv.selog: BASE and HEAD. -/
def svSelog (s : State) : W64 := BitVec.ofNat 64 (s.selog.base + s.selog.head % 4096)

/-- The register at an offset of BAR0. -/
def barWord (s : State) (off : Nat) : Option W64 :=
  if 0x100 ≤ off ∧ off < 0x240 ∧ off % 8 = 0 then some (svIsland s ((off - 0x100) / 8))
  else match off with
    | 0 => some (svBootst s)
    | 8 => some s.reqbase
    | 0x10 => some s.reqtail
    | 0x18 => some s.reqhead
    | 0x1000 => some (BitVec.ofNat 64 s.health)
    | 0x1008 => some (svSelog s)
    | _ => none

/-- The host reads BAR0; an offset without a register is an Unsupported Request (log 36). -/
def barRead (s : State) (off : Nat) : State := match barWord s off with
  | some v => answered s 0 (leBytes v.toNat 8)
  | none => answered s unsupported []

/-- The host writes sv.reqbase, whose low 12 bits stay 0 (log 36), or sv.reqtail. -/
def barPoke (s : State) (reg : Nat) (v : W64) : State :=
  if reg = 0 then { s with reqbase := v &&& ~~~0xFFF } else { s with reqtail := v }

/-- A host reset: the package restarts from cold, but never during a shutter sequence, which runs to its end (17 R471; log 36). -/
def hostReset (s : State) : State :=
  if s.shut.phase = 1 ∨ s.shut.phase = 2 then s else coldState { s with reqbase := 0, reqtail := 0, reqhead := 0 }

/-! ### The request ring (18 R485-R487) -/

/-- A request's outcome. -/
inductive Served where
  /-- STATUS and the state. -/
  | status (code : Nat) (s : State)
  /-- It cannot be served yet. -/
  | later
  /-- Its effect has begun and is not complete. -/
  | begun (s : State)

/-- The request at the head of the ring (18 R486). -/
def ringAt (s : State) : Nat := s.reqbase.toNat + 64 * (s.reqhead.toNat % 64)

/-- The requests served in RECOVERY and in STOPPED (18 R484, R485); any other is refused (log 36). -/
def servedIn (svState code : Nat) : Bool :=
  match svState with
  | 2 => true
  | 3 => code == 0x0E
  | 4 => code == 0x0D
  | _ => false

/-- A row on the request at the ring's head: an unknown code is a bad request at whichever row meets it. STATUS is written,
then the head advances. -/
def onRequest (code : Nat) (s : State) (serve : State → (Nat → W64) → Served) : Host.Outcome State Fault Refusal :=
  if s.svState < 2 ∨ s.reqhead = s.reqtail then .next s
  else
    let a := ringAt s
    let ws := words64 (s.host.bytes a 64)
    let w := fun (i : Nat) => ws.getD i 0
    let c := bitsAt (w 0) 56 8
    let reply := fun (s : State) (st : Nat) =>
      ({ s with host := s.host.write (a + 6) (BitVec.ofNat 8 st), reqhead := s.reqhead + 1 } : State)
    if c = 0 ∨ 0x12 < c then .next (reply s 2)
    else if c ≠ code then .next s
    else if bitsAt (w 0) 0 32 ≠ 0 then .next (reply s 2)
    else if !servedIn s.svState code then .next (reply s 1)
    else match serve s w with
      | .status st s => .next (reply s st)
      | .later => .next s
      | .begun s => .next s

/-- Argument words from i to 7 are zero. -/
def zeroFrom (w : Nat → W64) (i : Nat) : Bool := (List.range (8 - i)).all fun k => w (i + k) == 0

/-- Served when its arguments are right. -/
def whenOk (s : State) (ok : Bool) (st : Nat) (s' : State) : Served := if ok then .status st s' else .status 2 s

/-- A context id. -/
def cidOk (v : W64) : Bool := decide (1 ≤ v.toNat) && decide (v.toNat < 4096)

/-- CTXOPEN. -/
def execCtxopen (s : State) : Host.Outcome State Fault Refusal :=
  onRequest 1 s fun s w =>
    let ok := cidOk (w 1) && bitsAt (w 2) 8 56 == 0 && bitsAt (w 2) 0 2 == 0 && bitsAt (w 3) 52 12 == 0 && bitsAt (w 3) 0 15 == 0
      && (w 7).toNat % 64 == 0 && decide ((w 7).toNat ≤ extentLimit)
    if !ok then .status 2 s
    else if ctxLive s (w 1).toNat then .status 1 s
    else
      let d := [w 2 ||| 0x80, w 3, w 4, w 5, w 6, w 7, 0, 0]
      .status 0 (devWrite s (s.ctxtab + 64 * (w 1).toNat) (d.flatMap fun x => leBytes x.toNat 8))

/-- A context's tasks are cancelled, its groups withdrawn, its extents removed. -/
def endCtx (s : State) (ctx : Nat) : State :=
  let s := [0, 1].foldl (fun (s : State) d => cancelAll s d (matching s d fun t => t.ctx == ctx)) s
  let s := s.groups.foldl (fun (s : State) kv => if kv.2.opened && kv.2.ctx == ctx then withdrawGroup s kv.1 else s) s
  { s with extents := s.extents.filter fun x => x.ctx != ctx }

/-- Some task of the context has not stopped. -/
def ctxTasks (s : State) (ctx : Nat) : Bool := [0, 1].any fun d => (s.qmg d).tasks.any fun kv => kv.2.ctx == ctx

/-- LIVE 0. -/
def closeCtx (s : State) (ctx : Nat) : State :=
  devWriteLE s (s.ctxtab + 64 * ctx) 8 (ctxWord s ctx 0 &&& ~~~0x80).toNat

/-- CTXCLOSE: its effect is complete once every cancelled task has stopped, with the stores it had issued performed (18 R487, 10
R296). -/
def execCtxclose (s : State) : Host.Outcome State Fault Refusal :=
  onRequest 2 s fun s w =>
    if !(cidOk (w 1) && zeroFrom w 2) then .status 2 s
    else
      let s := endCtx s (w 1).toNat
      if ctxTasks s (w 1).toNat then .begun s else .status 0 (closeCtx s (w 1).toNat)

/-- A cached leaf that an invalidation of a context, or of any when it is 0, takes: one that meets the range of offsets; a
global one goes whoever's it is (04 R97, R98). -/
def invHit (ctx lo n : Nat) (e : TlbEntry) : Bool :=
  (ctx == 0 || e.ctx == ctx || e.leaf.getLsbD 5) && overlaps e.page (pageSize e.lvl) lo n

/-- An access of a context through a cluster's cache used an entry that an invalidation takes (04 R97). An entry gone from the cache
meanwhile counts as a 64 KiB page. -/
def usedOld (s : State) (ctx lo n : Nat) (cl : Option Nat) (own : Nat) (ea : W64) : Bool :=
  let off := ea.toNat % 2 ^ 51
  match cl.bind fun c => (tlbOf s c).find? fun e => e.hits own off with
  | some e => invHit ctx lo n e
  | none => invHit ctx lo n ⟨own, off / 65536 * 65536, 0, 0⟩

/-- A request to the host, unanswered, used such an entry. -/
def oldAccess (s : State) (ctx lo n : Nat) (cl : Option Nat) (own : Nat) (r : OutReq) : Bool :=
  (decide (r.kind < 3) || r.kind == 6) && r.reply.isNone && usedOld s ctx lo n cl own r.ea

/-- A strong store of a queue that was translated at issue used such an entry and is to be performed: nothing before it waits for sq. -/
def oldStore (used : W64 → Bool) : List SaOp → Bool
  | [] => false
  | .store e :: os => !e.unfed && ((e.locs.any (fun ls => (isRemote ls).isNone) && used e.ea) || oldStore used os)
  | _ :: os => oldStore used os

/-- An ATOMNR pending at a port used such an entry. -/
def oldAtom (s : State) (ctx lo n : Nat) : PReq → Bool
  | .atomic _ _ _ _ _ (some a) => usedOld s ctx lo n (some (clusterOf a.core)) (s.thread a.core a.slot).ctx a.ea
  | _ => false

/-- Some access that used an entry of the range is neither performed nor refused (04 R97): a request to the host, a store checked at
issue, a row of an LDQ, an ATOMNR. An LDQ of the thread `self` that asks is translated again instead (log 20). -/
def rangeInUse (s : State) (ctx lo n : Nat) (self : Option Nat) : Bool :=
  (s.threads.any fun kv =>
    let t := kv.2
    let cl := some (clusterOf (kv.1 / 16))
    let used := usedOld s ctx lo n cl t.ctx
    t.out.any (oldAccess s ctx lo n cl t.ctx) || oldStore used t.saq || (self != some kv.1 && t.ldqAt.any fun r => used r.1))
  || (s.ports.any fun kv => kv.2.arr.any (oldAtom s ctx lo n) || kv.2.entries.any fun e => e.pend.any (oldAtom s ctx lo n))
  || s.hostReqs.any fun kv => match (s.estream engLnk kv.1).run with
    | some c => oldAccess s ctx lo n none c.ctx kv.2
    | none => false

/-- A thread's translations of the range that no performed access rests on are forgotten: those of stores that wait for sq, and of rows
yet to be read. -/
def Thread.forget (used : W64 → Bool) (t : Thread) : Thread :=
  { t with
    saq := t.saq.map fun o => match o with | .store e => if used e.ea then o.anew else o | _ => o
    ldqAt := if t.ldqAt.any fun r => used r.1 then [] else t.ldqAt }

/-- The translation caches without the entries of a context, or of any when it is 0, that meet a range of offsets; global
entries in the range go with them (04 R97, R98). -/
def invalidate (s : State) (ctx lo n : Nat) : State :=
  { s with
    tlb := s.tlb.map fun kv => (kv.1, kv.2.filter fun e => !invHit ctx lo n e)
    threads := s.threads.map fun kv => (kv.1, kv.2.forget (usedOld s ctx lo n (some (clusterOf (kv.1 / 16))) kv.2.ctx)) }

/-- INVAL (04 R97): it waits until no access through an entry it takes is outstanding. -/
def execInval (s : State) : Host.Outcome State Fault Refusal :=
  onRequest 3 s fun s w =>
    let ctx := (w 1).toNat
    let lo := (w 2).toNat % 2 ^ 51
    let ok := decide (ctx < 4096) && (w 2).toNat % 65536 == 0 && (w 3).toNat % 65536 == 0 && w 3 != 0 && zeroFrom w 4
    if ok && rangeInUse s ctx lo (w 3).toNat none then .later else whenOk s ok 0 (invalidate s ctx lo (w 3).toNat)

/-- The targets an ACCSET word names (18 R486). -/
def accTargets (v : W64) : Option (List Nat) :=
  let kind := bitsAt v 0 4
  let die := bitsAt v 4 1
  let unit := bitsAt v 5 7
  let inst := bitsAt v 12 7
  if bitsAt v 19 12 ≠ 0 ∨ bitsAt v 32 32 ≠ 0 ∨ 3 < kind then none
  else if v.getLsbD 31 then
    if bitsAt v 4 15 ≠ 0 then none
    else some (match kind with
      | 0 | 1 => (List.range 192).map fun p => targetKey kind (p / 96) (p % 96) 0
      | 2 => ((List.range 12).flatMap fun e =>
          if e ≤ 2 then (List.range 256).map fun c => targetKey 2 (c / 128) e (c % 128)
          else if e ≤ 4 then (List.range 32).map fun c => targetKey 2 (c / 16) e (c % 16)
          else if e = 9 ∨ e = 10 then [targetKey 2 0 e 0]
          else [targetKey 2 0 e 0, targetKey 2 1 e 0])
      | _ => [targetKey 3 0 0 0])
  else match kind with
    | 0 | 1 => if unit < 96 ∧ inst = 0 then some [targetKey kind die unit 0] else none
    | 2 =>
      if 11 < unit ∨ (unit ≠ 3 ∧ unit ≠ 4 ∧ 2 < unit ∧ inst ≠ 0) ∨ ((unit = 3 ∨ unit = 4) ∧ 15 < inst)
        ∨ ((unit = 9 ∨ unit = 10) ∧ die ≠ 0) then none
      else some [targetKey 2 die unit inst]
    | _ => if die = 0 ∧ unit = 0 ∧ inst = 0 then some [targetKey 3 0 0 0] else none

/-- ACCSET (18 R488). -/
def execAccset (s : State) : Host.Outcome State Fault Refusal :=
  onRequest 4 s fun s w =>
    match accTargets (w 1) with
    | none => .status 2 s
    | some ts =>
      whenOk s (cidOk (w 2) && w 3 &&& 0xFFFFC000C000C000 == 0 && zeroFrom w 4) 0
        { s with access := ts.foldl (fun t k => Tab.set t (4096 * k + (w 2).toNat) (w 3)) s.access }

/-- MAPBAR (16 R442). -/
def execMapbar (s : State) : Host.Outcome State Fault Refusal :=
  onRequest 5 s fun s w =>
    let pa := (w 2).toNat
    whenOk s (decide ((w 1).toNat < 32768) && pa % 65536 == 0 && devMapped s pa 65536 && decide ((w 3).toNat ≤ 2) && zeroFrom w 4) 0
      { s with bar2 := Tab.set s.bar2 (w 1).toNat (pa, (w 3).toNat) }

/-- OBJOPEN (14 R370, R371). -/
def execObjopen (s : State) : Host.Outcome State Fault Refusal :=
  onRequest 6 s fun s w =>
    let x := (w 1).toNat
    if !(decide (x < 64) && cidOk (w 2) && (w 6 != 0 || w 5 == 0) && w 7 == 0) then .status 2 s
    else if (s.obj x).live then .status 1 s
    else
      let img := (Config.indexImage (s.host.bytes (w 3).toNat (w 4).toNat) (s.host.bytes (w 5).toNat (w 6).toNat)).bounded
        (vectorLimit - vectorsBeside s x)
      .status 0 (putObj s x { live := true, owner := (w 2).toNat, pstore := w 6 != 0, img := img, set := img.set })

/-- OBJCLOSE: waits until every command on the object has completed. -/
def execObjclose (s : State) : Host.Outcome State Fault Refusal :=
  onRequest 0x0F s fun s w =>
    let x := (w 1).toNat
    if !(decide (x < 64) && zeroFrom w 2) then .status 2 s
    else
      let busy := s.streams.any fun kv => kv.1 / 512 == engSch
        && (kv.2.queue.any (fun c => c.xid == x) || (!kv.2.stopped && kv.2.run.any fun c => c.xid == x))
      if busy || (s.obj x).merging then .later
      else .status 0 (if (s.obj x).live then putObj s x { s.obj x with live := false } else s)

/-- DQOPEN (16 R424). -/
def execDqopen (s : State) : Host.Outcome State Fault Refusal :=
  onRequest 7 s fun s w =>
    let i := (w 1).toNat
    if !(decide (i < 16) && cidOk (w 2) && zeroFrom w 3) then .status 2 s
    else if (s.dq i).opened then .status 1 s
    else .status 0 (s.setDq i { opened := true, ctx := (w 2).toNat })

/-- DQCLOSE (16 R424). -/
def execDqclose (s : State) : Host.Outcome State Fault Refusal :=
  onRequest 0x10 s fun s w => whenOk s (decide ((w 1).toNat < 16) && zeroFrom w 2) 0 (closePair s (w 1).toNat)

/-- A core passes to an owner: another context finds its scratchpad, counters, mailbox and engine state zero (17 R456). -/
def passCore (s : State) (core cid : Nat) : State :=
  if (s.core core).owner = cid then s
  else
    let s := putCore (putSpad s core []) core {} (s.core core).ways false
    let chk := s.estream engChk core
    let s := s.setEstream engChk core (if chk.stopped then {} else { chk with queue := [], taken := 0 })
    s.setCore core { s.core core with owner := cid }

/-- OWNSET (17 R456). -/
def execOwnset (s : State) : Host.Outcome State Fault Refusal :=
  onRequest 8 s fun s w =>
    whenOk s (decide ((w 1).toNat < 256) && decide ((w 2).toNat < 4096) && zeroFrom w 3) 0 (passCore s (w 1).toNat (w 2).toNat)

/-- RETIRE (15 R411). -/
def execRetire (s : State) : Host.Outcome State Fault Refusal :=
  onRequest 9 s fun s w =>
    let p := bitsAt (w 1) 0 7
    whenOk s (bitsAt (w 1) 8 56 == 0 && decide (p < 96) && zeroFrom w 2) 0 (retireChannel s (96 * bitsAt (w 1) 7 1 + p))

/-- CLRSUSPECT (18 R492): 16 known-answer tiles run on the core, and a set bit of `fails` is one whose check fails; refused unless all
pass. -/
def execClrsuspect (fails : BitVec 16) (s : State) : Host.Outcome State Fault Refusal :=
  onRequest 0x0A s fun s w =>
    let c := (w 1).toNat
    if !(decide (c < 256) && zeroFrom w 2) then .status 2 s
    else
      let s := (List.range 16).foldl (fun s i => katVerdict s c (!fails.getLsbD i)) s
      if fails = 0 then .status 0 (s.setCore c { s.core c with suspect := false }) else .status 1 s

/-- The points an island may be set to (01 R32). -/
def pointOk (i p : Nat) : Bool :=
  if i < 32 then decide (p ≤ 2) else if i < 35 then p == 0 else decide (i < 40) && (p == 0 || p == 2)

/-- ISLAND (18 R489). -/
def execIsland (s : State) : Host.Outcome State Fault Refusal :=
  onRequest 0x0B s fun s w =>
    whenOk s (pointOk (w 1).toNat (w 2).toNat && zeroFrom w 3) 0 (setPoint s (w 1).toNat (w 2).toNat)

/-- SETMASK (18 R493): it applies at the next boot. -/
def execSetmask (s : State) : Host.Outcome State Fault Refusal :=
  onRequest 0x0C s fun s w =>
    let r := s.host.bytes (w 1).toNat 4096
    whenOk s ((w 1).toNat % 64 == 0 && zeroFrom w 2 && recordOk r) 0 { s with maskRec := r }

/-- The bytes of a quote that its signatures sign (18 R494). -/
def quoteHead (s : State) (nonce : List Byte) : List Byte :=
  nonce ++ (List.range 48).map Config.romDigest ++ shaOf (Config.imageBody s.running) ++ leBytes s.svn.toNat 8
    ++ shaOf (padRec s.masks.record) ++ leBytes s.time.toNat 8 ++ List.replicate 64 0

/-- The 16,864 bytes of a quote (18 R494), its signatures those of the device's keys with the n-th randomness. -/
def quoteBytes (s : State) (nonce : List Byte) (n : Nat) : List Byte :=
  let m := quoteHead s nonce
  m ++ (List.range 384).map (Config.signature 0 s.idRsa m n) ++ (List.range 16224).map (Config.signature 1 s.idSlh (shaOf m) n)

/-- QUOTE (18 R494). -/
def execQuote (s : State) : Host.Outcome State Fault Refusal :=
  onRequest 0x0D s fun s w =>
    let (n, s') := s.takeFree
    let nonce := [w 1, w 2, w 3, w 4].flatMap fun x => leBytes x.toNat 8
    whenOk s ((w 5).toNat % 64 == 0 && zeroFrom w 6) 0 { s' with host := s'.host.writeBytes (w 5).toNat (quoteBytes s nonce n) }

/-- LOADFW (18 R483, R484): an accepted image stands in the reserved area; in RECOVERY the package then restarts. -/
def execLoadfw (s : State) : Host.Outcome State Fault Refusal :=
  onRequest 0x0E s fun s w =>
    if !zeroFrom w 3 then .status 2 s
    else
      let img := s.host.bytes (w 1).toNat (w 2).toNat
      if !firmwareAccepted s img then .status 1 s
      else
        let s := { s with firmware := img, svn := Config.imageSvn img }
        .status 0 (if s.svState = 3 then coldState s else s)

/-- GRPOPEN (16 R434); an open group is refused. -/
def execGrpopen (s : State) : Host.Outcome State Fault Refusal :=
  onRequest 0x11 s fun s w =>
    let g := (w 1).toNat
    if !(decide (g < 256) && cidOk (w 2) && zeroFrom w 4) then .status 2 s
    else if (s.group g).opened then .status 1 s
    else .status 0 (s.setGroup g { opened := true, ctx := (w 2).toNat, members := w 3 })

/-- GRPCLOSE (16 R434, R438). -/
def execGrpclose (s : State) : Host.Outcome State Fault Refusal :=
  onRequest 0x12 s fun s w => whenOk s (decide ((w 1).toNat < 256) && zeroFrom w 2) 0 (closeGroup s (w 1).toNat)

/-! ### Islands, power and health (18 R489-R491) -/

/-- A cluster island goes to its economy point. -/
def economize (s : State) (isl : Nat) : State :=
  if isl < 32 ∧ Tab.get 0 s.islands isl = 0 then setPoint s isl 1 else s

/-- ISLAND_THERMAL (18 R489): 105 °C moves a cluster island to economy, 115 °C on any island stops the package. -/
def execIslandThermal (isl temp : Nat) (s : State) : Host.Outcome State Fault Refusal :=
  if 40 ≤ isl then .next s
  else
    let s := { s with temps := Tab.set s.temps isl (temp % 256) }
    .next (if 115 ≤ temp then stopPackage s 0 else if 105 ≤ temp then economize s isl else s)

/-- POWER_LIMIT (01 R31): the supervisor moves a cluster island to economy. -/
def execPowerLimit (isl : Nat) (s : State) : Host.Outcome State Fault Refusal := .next (economize s isl)

/-- HEALTH_UPDATE (18 R491): an entry of the health page; the bank's comes with its measured C and voltage, and its WEAR reaches
1,000 when C falls to 1,984 microfarad. -/
def execHealthUpdate (entry wear days cap vb : Nat) (s : State) : Host.Outcome State Fault Refusal :=
  if s.health = 0 ∨ 94 ≤ entry ∨ (entry = 40 ∧ (1000 ≤ wear) ≠ (cap ≤ 1984)) then .next s
  else
    let s := if entry = 40 then { s with cap := cap, vbank := vb } else s
    .next (devWrite s (s.health + 16 * entry) (leBytes wear 2 ++ leBytes days 4 ++ leBytes 0 2 ++ leBytes s.time.toNat 8))

/-! ### Domain bring-up (01 R17, 04 R90, 16 R429, R432, 18 R496) -/

/-- A queue manager after global time is set: the frame counter rises at the next multiple of 128 ns of the new time, and the
placement counters go on from it (10 R276, R281). -/
def Qmg.retimed (q : Qmg) (now : Nat) : Qmg :=
  { q with tick := now / 128, placeAt := (List.range 16).map fun c => (c, now) }

/-- DOMAIN_BRING_UP: the package takes its number, the domain's time and the route table, a port mask for each package. It does
not change the number while a context is live. -/
def execDomainBringUp (pkg now : Nat) (routes : List Nat) (s : State) : Host.Outcome State Fault Refusal :=
  if 64 ≤ pkg ∨ (List.range 4096).any (ctxLive s) = true ∧ s.pkg.toNat ≠ pkg then .next s
  else
    let s := (List.range 32).foldl chargePlace s
    let s : State := { s with
      pkg := BitVec.ofNat 6 pkg, indom := true, unreach := 0, time := BitVec.ofNat 64 now
      islandClk := (List.range 40).map fun i => (i, islandClock s i, now)
      qmgs := s.qmgs.map fun kv => (kv.1, kv.2.retimed now)
      routes := routes.zipIdx.map fun r => (r.2, r.1), routeDown := [] }
    .next ((List.range 64).foldl checkRoutes s)

end Machine

end Sys2Proof
end

