-- ==== Sys2Proof/Machine/Control.lean ====
section
/-! DEFINITION. The control registers by their numbers, with MFC and MTC (spec 03 R74, 06 R169, R170). Each register's map
stands in the chapter of its unit; the rows for writes with an effect of their own are here too. -/

namespace Sys2Proof.Machine

/-! ### Reading (06 R169) -/

/-- ctl.trapcause (06 R184); a held FLT_UNCORR of an ATOMNR is a held fault too (15 R404). -/
def trapCause (t : Thread) : W64 :=
  BitVec.ofNat 64 (t.async.toNat * 2 ^ 34 + t.inh.toNat * 2 ^ 33 + (!t.pends.isEmpty || t.heldUncorr.isSome).toNat * 2 ^ 32 + t.cstream.toNat * 2 ^ 16
    + t.code.toNat)

/-- ctl.domset with the phases of the levels joined (06 R172). -/
def domsetWord (s : State) (core : Nat) (t : Thread) : W64 :=
  BitVec.ofNat 64 (instLevels.foldl (fun v l =>
    if t.domset.getLsbD l && (barInst s (barKey t.ctx l core)).phase then v + 2 ^ (l + 16) else v) t.domset.toNat)

/-- A thread register, 0x000-0x0FF; a field that is WO reads as zero (00 R8). -/
def threadReg (s : State) (core : Nat) (t : Thread) : Nat → Option W64
  | 0x000 => some t.fpmode
  | 0x001 => some t.repidx
  | 0x002 => some t.rotbase
  | 0x003 => some t.tfmt
  | 0x004 => some (trapCause t)
  | 0x005 => some (domsetWord s core t)
  | 0x006 => some t.tveca
  | 0x007 => some t.tvece
  | 0x008 => some t.traprec
  | 0x009 => some t.epca
  | 0x00A => some t.epce
  | 0x00B => some t.tsavea
  | 0x00C => some t.tsavee
  | 0x00D => some t.tpredlo
  | 0x00E => some t.tpredhi
  | 0x00F => some t.tstate
  | 0x010 => some t.mpsel
  | 0x011 => some t.invva
  | 0x012 => some 0
  | _ => none

/-- The channel a chain register's low bits name: LDC channels 0-3, then STC channels 0-3 (08 R233). -/
def chanOf (s : State) (core k : Nat) : Chan := s.chan core (if k < 4 then 1 else 2) (k % 4)

/-- The control registers of engine streams, whose bits are FLUSH, SKIP and RESUME: number and engine (10 R289, 11 R325,
09 R256, 13 R365, 14 R391, 16 R449, 17 R479). MAT's is 0x14A (09 R260). -/
def engineCtl : Nat → Option Nat
  | 0x151 => some engQmg
  | 0x15A => some engAtt
  | 0x15D => some engChk
  | 0x169 => some engTre
  | 0x171 => some engSch
  | 0x179 => some engLnk
  | 0x17B => some engXfr
  | 0x181 => some engCtx
  | _ => none

/-- A core register, 0x100-0x1FF, of a thread's own core. -/
def coreReg (s : State) (core c : Nat) : Option W64 :=
  if 0x100 ≤ c ∧ c < 0x120 then some ((ctrOf s core (c - 0x100)).zeroExtend 64)
  else if 0x128 ≤ c ∧ c < 0x130 then some (chanOf s core (c - 0x128)).ids
  else if 0x130 ≤ c ∧ c < 0x138 then some (chanOf s core (c - 0x130)).status
  else if 0x138 ≤ c ∧ c < 0x140 then some (chanOf s core (c - 0x138)).ptr
  else if 0x140 ≤ c ∧ c < 0x148 then some (chanOf s core (c - 0x140)).phaseWord
  else if (engineCtl c).isSome then some 0
  else match c with
    | 0x120 => some (BitVec.ofNat 64 (s.core core).ways)
    | 0x148 => some (matStatus s core)
    | 0x149 => some (matCount s core)
    | 0x14A => some 0
    | 0x150 => some (qmgStatus core s)
    | 0x158 => some (attStatus core s)
    | 0x159 => some (attWait core s)
    | 0x15C => some (chkStatus core s)
    | 0x160 => some ((s.core core).smpTaken.zeroExtend 64 <<< 32)
    | 0x168 => some (treStatus core s)
    | 0x170 => some (schStatus core s)
    | 0x178 => some (lnkStatus core s)
    | 0x17A => some (xfrStatus core s)
    | 0x180 => some (ctxStatus core s)
    | 0x182 => some (BitVec.ofNat 64 (s.core core).owner)
    | _ => none

/-- The port that ctl.mpsel selects: its die and number (15 R414). -/
def selPort (t : Thread) : Nat := bitsAt t.mpsel 7 1 * 96 + bitsAt t.mpsel 0 7

/-- ctl.mpst (15 R415). -/
def portStatus (s : State) (p : Nat) : W64 :=
  let pt := s.port p
  let state := if s.masks.ports.getLsbD p then 2 else if pt.retired then 1 else 0
  BitVec.ofNat 64 (state * 2 ^ 62 + pt.alerts * 2 ^ 32 + pt.rfms * 2 ^ 16 + pt.bocnt)

/-- A die register, 0x200-0x2FF, as a thread of a core reads it. -/
def dieReg (s : State) (core : Nat) (t : Thread) (c : Nat) : Option W64 :=
  let die := dieOf core
  let q := s.qmg die
  let pt := s.port (selPort t)
  match c with
  | 0x200 => some (BitVec.ofNat 64 (s.indom.toNat * 64 + s.pkg.toNat))
  | 0x210 => some q.frame
  | 0x211 => some (qstatWord s die)
  | 0x212 => some (BitVec.ofNat 64 q.qback)
  | 0x213 => some (BitVec.ofNat 64 (q.log.base + q.log.head))
  | 0x214 => some (BitVec.ofNat 64 q.qnode)
  | 0x220 => some (smpStatus die s)
  | 0x221 => some (smpWait die s)
  | 0x230 => some (BitVec.ofNat 64 s.schobj)
  | 0x231 => some (schRet s)
  | 0x240 => some (portStatus s (selPort t))
  | 0x241 => some (BitVec.ofNat 64 pt.boff)
  | 0x242 => some (BitVec.ofNat 64 (pt.ce * 2 ^ 32 + pt.ue * 2 ^ 16 + pt.lretry))
  | 0x243 => some (BitVec.ofNat 64 pt.thr)
  | 0x244 => let l := Tab.get {} s.mplog die
    some (BitVec.ofNat 64 (l.base + l.head))
  | 0x250 => some (hostAtom s)
  | 0x251 => some (BitVec.ofNat 64 (s.lnklog.base + s.lnklog.head))
  | 0x260 => some (BitVec.ofNat 64 s.ctxtab)
  | 0x261 => some (BitVec.ofNat 64 (s.ctxrpt + s.report.isSome.toNat))
  | 0x262 => some (msave s)
  | 0x263 => some (holdup s)
  | _ => none

/-- A control register's value as a thread of a core reads it; `none` for a number no chapter assigns (03 R74). -/
def ctlReg (s : State) (core : Nat) (t : Thread) (c : Nat) : Option W64 :=
  if c < 0x100 then threadReg s core t c else if c < 0x200 then coreReg s core c else dieReg s core t c

/-- The RC fields of a register clear after its read (00 R8). -/
def clearRc (s : State) (core : Nat) (t : Thread) (c : Nat) : State :=
  let die := dieOf core
  let pt := s.port (selPort t)
  if 0x140 ≤ c ∧ c < 0x148 then
    let k := c - 0x140
    s.setChan core (if k < 4 then 1 else 2) (k % 4) { chanOf s core k with rcnt := 0 }
  else match c with
    | 0x149 => s.setMat core { s.mat core with retry := 0, katok := 0 }
    | 0x211 => s.setQmg die { s.qmg die with slips := 0, since := 0 }
    | 0x220 => s.setSmp die { s.smp die with notok := 0 }
    | 0x231 => { s with schRetry := 0, schLimit := 0 }
    | 0x240 => s.setPort (selPort t) { pt with alerts := 0, rfms := 0, bocnt := 0 }
    | 0x241 => s.setPort (selPort t) { pt with boff := 0 }
    | 0x242 => s.setPort (selPort t) { pt with ce := 0, ue := 0, lretry := 0 }
    | 0x250 => { s with fbcnt := 0 }
    | _ => s

/-- A core register's MFC and MTC wait while 17 R461 holds the core's operations. -/
def ctlWaits (s : State) (c : Nat) : Bool := decide (0x100 ≤ c) && decide (c < 0x200) && gated s

/-- MFC (06 R169): every thread may read every assigned register. -/
def execMfc (d : BitVec 5) (c : BitVec 12) (s : State) : Host.Outcome State Fault Refusal :=
  runWord (landedE s) fun t =>
    match ctlReg (landedE s) s.cur.core t c.toNat with
    | none => .error (.flt fltIllegal 0)
    | some v =>
      if ctlWaits s c.toNat then .error .wait
      else
        let s := clearRc (landedE s) s.cur.core t c.toNat
        .ok (nextE (s.setCurT (t.wr .e d v)))

/-! ### Writing (06 R169) -/

/-- MTC may write a register: it has a field that is not RO or RC, and 06 R170 allows it; 16 R447's grant is checked with its
write. -/
def ctlWritable (t : Thread) (c : Nat) : Bool :=
  if c < 0x100 then c != 0x004 && (t.inh || decide (c < 0x009) || decide (0x00F < c))
  else if c < 0x200 then decide (c < 0x120) || c == 0x149 || c == 0x14A || (engineCtl c).isSome
  else c == 0x250

/-- ctl.fpmode written: RM and FTZ, and the flags whose bits are 1 cleared (02 R51). -/
def fpmodeWrite (t : Thread) (v : W64) : Option Thread :=
  if 4 < bitsAt v 0 3 then none
  else some { t with fpmode := t.fpmode &&& ~~~(v &&& 0x3F00) &&& 0x3F00 ||| (v &&& 0xF) }

/-- ctl.tfmt written (07 R191): a MIRROR bit set makes a copy as TMIRROR does, and the MTC completes once it is made, 16 clocks
after its issue (log 5). -/
def tfmtWrite (t : Thread) (v : W64) : Option Thread :=
  if 5 < bitsAt v 8 3 ∨ 2 < bitsAt v 0 4 ∨ !([6, 7, 8, 10].contains (bitsAt v 4 4)) then none
  else
    let copies := (List.range 8).any fun p => v.getLsbD (16 + p) && !t.mirrored p
    some { t.mirror (v.extractLsb' 16 8) with tfmt := v &&& 0xFF0FFF, eclk := t.eclk + if copies then 15 else 0 }

/-- ctl.mpsel written (15 R414). -/
def mpselWrite (t : Thread) (v : W64) : Option Thread :=
  if 95 < bitsAt v 0 7 then none else some { t with mpsel := v &&& 0xFF }

/-- A thread register whose write touches its thread alone; `none` for a value that raises FLT_ILLEGAL. -/
def threadWrite (t : Thread) (c : Nat) (v : W64) : Option Thread :=
  match c with
  | 0x000 => fpmodeWrite t v
  | 0x001 => some { t with repidx := v &&& 0x80FF }
  | 0x002 => some { t with rotbase := v &&& 0x303 }
  | 0x003 => tfmtWrite t v
  | 0x006 => some { t with tveca := v &&& ~~~63 }
  | 0x007 => some { t with tvece := v &&& ~~~63 }
  | 0x008 => some { t with traprec := v &&& ~~~63 }
  | 0x009 => some { t with epca := v &&& ~~~3 }
  | 0x00A => some { t with epce := v &&& ~~~3 }
  | 0x00B => some { t with tsavea := v }
  | 0x00C => some { t with tsavee := v }
  | 0x00D => some { t with tpredlo := v }
  | 0x00E => some { t with tpredhi := v }
  | 0x00F => some { t with tstate := v &&& 0x1FFFFFFFF }
  | 0x010 => mpselWrite t v
  | 0x011 => some { t with invva := v &&& 0x7FFFFFFFF0000 }
  | _ => some t

/-- A word that writes its thread's registers alone, checked by `f`. -/
def writeThread (s : State) (f : Thread → Option Thread) : Host.Outcome State Fault Refusal :=
  runWord (landedE s) fun t => match f t with
    | some t' => .ok (nextE ((landedE s).setCurT t'))
    | none => .error (.flt fltIllegal 0)

/-- The streams' controls: FLUSH before SKIP before RESUME (09 R260). QMG's has no FLUSH (10 R289). -/
def streamCtl (s : State) (eng core : Nat) (v : W64) : State :=
  if v.getLsbD 2 && eng != engQmg then flushStream s eng core
  else if v.getLsbD 1 then skipStream s eng core
  else if v.getLsbD 0 then resumeStream s eng core
  else s

/-- ctl.matctl written (09 R260). -/
def matCtl (s : State) (core : Nat) (v : W64) : State :=
  if v.getLsbD 2 then matFlush s core else if v.getLsbD 1 then matSkip s core else if v.getLsbD 0 then matResume s core else s

/-- A core register other than a slot counter written. -/
def coreWrite (s : State) (core c : Nat) (v : W64) : State :=
  match engineCtl c with
  | some eng => streamCtl s eng core v
  | none =>
    if c = 0x14A then matCtl s core v
    else if c = 0x149 then
      let m := s.mat core
      s.setMat core { m with nv := m.nv && !v.getLsbD 32, ovf := m.ovf && !v.getLsbD 33, sat := m.sat && !v.getLsbD 34 }
    else s

/-- A slot counter set, as a release at core scope (05 R150, 06 R162). -/
def setCounter (s : State) (core : Nat) (c : Nat) (v : BitVec 32) : State :=
  let k := s.core core
  if h : c < 32 then s.setCore core { k with ctr := k.ctr.set c v } else s

/-- A word that acts as a release of the E-stream once its checks have passed (06 R162). -/
def releasing (s : State) (body : State → X State) : Host.Outcome State Fault Refusal :=
  guardedE (landedE s) fun _ => releaseE (landedE s) body

/-- MTC to a slot counter. -/
def writeCounter (s : State) (c : Nat) (a : BitVec 5) : Host.Outcome State Fault Refusal :=
  if gated s then runWord (landedE s) fun _ => .error .wait
  else releasing s fun s => .ok (nextE (setCounter s s.cur.core c ((s.curT.rd .e a).setWidth 32)))

/-- 04 R98: the range that ctl.invva and NPG name, cut at offset 2^51 − 1. -/
def invRange (t : Thread) (npg : Nat) : Nat × Nat :=
  let lo := bitsAt t.invva 16 35 * 65536
  (lo, min (npg * 65536) (2 ^ 51 - lo))

/-- MTC to ctl.invctl (04 R97, R98): a release at package scope, then the invalidation, for which it waits at its boundary. -/
def writeInvctl (s : State) (a : BitVec 5) : Host.Outcome State Fault Refusal :=
  let npg := bitsAt (s.curT.rd .e a) 0 32
  if npg = 0 then runWord (landedE s) fun _ => .error (.flt fltIllegal 0)
  else releasing s fun s =>
    let (lo, n) := invRange s.curT npg
    if rangeInUse s s.curT.ctx lo n (some (s.cur.core * 16 + s.cur.slot)) then .error .wait else .ok (nextE (invalidate s s.curT.ctx lo n))

/-- The instance of a level has an open episode (06 R173). -/
def episodeOpen (s : State) (t : Thread) (core level : Nat) : Bool := (barInst s (barKey t.ctx level core)).allArrivals != 0

/-- MTC to ctl.domset (06 R174): it leaves levels at once, and waits to join each that has an open episode. -/
def writeDomset (s : State) (a : BitVec 5) : Host.Outcome State Fault Refusal :=
  runWord (landedE s) fun t =>
    let v := t.rd .e a
    let s := landedE s
    let core := s.cur.core
    let slot := s.cur.slot
    let s := (instLevels.filter fun l => !v.getLsbD l).foldl (fun s l => leaveLevel s core slot l) s
    let want := instLevels.filter fun l => v.getLsbD l && !s.curT.domset.getLsbD l
    let (wait, free) := want.partition fun l => episodeOpen s t core l
    let s := free.foldl (fun s l => joinLevel s core slot l) s
    .ok (if wait.isEmpty then nextE s else waiting s)

/-- MTC to ctl.hostatom (16 R447). -/
def writeHostatom (s : State) (a : BitVec 5) : Host.Outcome State Fault Refusal :=
  runWord (landedE s) fun t =>
    match readGrant (landedE s) t.ctx 6 with
    | .error e => .error e
    | .ok (s, false) => .error (.flt fltPriv 0 s)
    | .ok (s, true) =>
      let v := t.rd .e a
      .ok (nextE { s with hostMode := v.getLsbD 0, hostFb := s.hostFb && !v.getLsbD 9 })

/-- INVCTL_WRITE: MTC to ctl.invctl (04 R98). -/
def execInvctlWrite (a : BitVec 5) (s : State) : Host.Outcome State Fault Refusal := writeInvctl s a

/-- SLOT_COUNTER_WRITE: MTC to ctl.slot c (05 R150). -/
def execSlotCounterWrite (c a : BitVec 5) (s : State) : Host.Outcome State Fault Refusal := writeCounter s c.toNat a

/-- DOMSET_WRITE: MTC to ctl.domset (06 R174). -/
def execDomsetWrite (a : BitVec 5) (s : State) : Host.Outcome State Fault Refusal := writeDomset s a

/-- TFMT_WRITE: MTC to ctl.tfmt (07 R191). -/
def execTfmtWrite (a : BitVec 5) (s : State) : Host.Outcome State Fault Refusal :=
  writeThread s fun t => tfmtWrite t (t.rd .e a)

/-- HOSTATOM_WRITE: MTC to ctl.hostatom (16 R447). -/
def execHostatomWrite (a : BitVec 5) (s : State) : Host.Outcome State Fault Refusal := writeHostatom s a

/-- MTC (06 R169). -/
def execMtc (a : BitVec 5) (c : BitVec 12) (s : State) : Host.Outcome State Fault Refusal :=
  let n := c.toNat
  if (ctlReg s s.cur.core s.curT n).isNone then runWord (landedE s) fun _ => .error (.flt fltIllegal 0)
  else if !ctlWritable s.curT n then runWord (landedE s) fun _ => .error (.flt fltPriv 0)
  else if n = 0x012 then writeInvctl s a
  else if n = 0x005 then writeDomset s a
  else if n = 0x250 then writeHostatom s a
  else if n < 0x100 then writeThread s fun t => threadWrite t n (t.rd .e a)
  else if n < 0x120 then writeCounter s (n - 0x100) a
  else runWord (landedE s) fun t =>
    if gated s then .error .wait
    else .ok (nextE (coreWrite (landedE s) s.cur.core n (t.rd .e a)))

end Sys2Proof.Machine
end

