-- ==== Sys2Proof/Machine/Scalar.lean ====
section
/-! DEFINITION. Scalar and control instructions, common to both streams (spec 05 R127-R138), and the rotating base of the
E-stream (06 R167, R168). -/

namespace Sys2Proof.Machine

/-- A two-operand instruction of the register ALU (05 R128). -/
def alu (s : State) (d a b : BitVec 5) (f : W64 → W64 → W64) : Host.Outcome State Fault Refusal :=
  scalar s fun st t => t.wr st d (f (t.rd st a) (t.rd st b))

/-- A product: a reader of its register issues four clocks later at the earliest (05 R127). -/
def aluMul (s : State) (d a b : BitVec 5) (f : W64 → W64 → W64) : Host.Outcome State Fault Refusal :=
  scalar s fun st t => (t.wr st d (f (t.rd st a) (t.rd st b))).slow st d 4 true

/-- A one-operand or immediate instruction (05 R128, R130). -/
def alu1 (s : State) (d a : BitVec 5) (f : W64 → W64) : Host.Outcome State Fault Refusal :=
  scalar s fun st t => t.wr st d (f (t.rd st a))

/-- Bits 127-64 of the signed product (05 R128). -/
def mulHigh (a b : W64) : W64 := (a.signExtend 128 * b.signExtend 128).extractLsb' 64 64

/-- Bits 127-64 of the unsigned product (05 R128). -/
def mulHighU (a b : W64) : W64 := (a.zeroExtend 128 * b.zeroExtend 128).extractLsb' 64 64

/-- 05 R128, R129: signed quotient toward zero; −1 for a divisor of 0; −2^63 / −1 wraps to −2^63. -/
def divSigned (a b : W64) : W64 := if b = 0 then BitVec.allOnes 64 else a.sdiv b

/-- 05 R128, R129: unsigned quotient; 2^64 − 1 for a divisor of 0. -/
def divUnsigned (a b : W64) : W64 := if b = 0 then BitVec.allOnes 64 else a / b

/-- 05 R128, R129: remainder with the sign of the dividend; the dividend for a divisor of 0. -/
def remSigned (a b : W64) : W64 := if b = 0 then a else a.srem b

/-- 05 R128, R129: unsigned remainder; the dividend for a divisor of 0. -/
def remUnsigned (a b : W64) : W64 := if b = 0 then a else a % b

/-- The shift amount: bits 5-0 (05 R128). -/
def shamt (b : W64) : Nat := b.toNat % 64

/-- Leading zero bits; 64 for 0 (05 R128). -/
def countLz (a : W64) : W64 := if a = 0 then 64 else BitVec.ofNat 64 (63 - Nat.log2 a.toNat)

/-- Trailing zero bits of a value, from bit i up, n bits looked at. -/
def tzFrom (a : W64) (i : Nat) : Nat → Nat
  | 0 => i
  | n + 1 => if a.getLsbD i then i else tzFrom a (i + 1) n

/-- Trailing zero bits; 64 for 0 (05 R128). -/
def countTz (a : W64) : W64 := BitVec.ofNat 64 (tzFrom a 0 64)

/-- One bits among the low n (05 R128). -/
def onesBelow (a : W64) : Nat → Nat
  | 0 => 0
  | n + 1 => onesBelow a n + (if a.getLsbD n then 1 else 0)

/-- Count of one bits (05 R128). -/
def countOnes (a : W64) : W64 := BitVec.ofNat 64 (onesBelow a 64)

/-- The eight bytes reversed (05 R128). -/
def swapBytes (a : W64) : W64 :=
  a.extractLsb' 0 8 ++ a.extractLsb' 8 8 ++ a.extractLsb' 16 8 ++ a.extractLsb' 24 8
    ++ a.extractLsb' 32 8 ++ a.extractLsb' 40 8 ++ a.extractLsb' 48 8 ++ a.extractLsb' 56 8

/-- The conditions of CMP and CMPI (05 R132). -/
def condHolds (c : BitVec 3) (a b : W64) : Bool :=
  match c.toNat with
  | 0 => a == b
  | 1 => a != b
  | 2 => BitVec.slt a b
  | 3 => !BitVec.slt a b
  | 4 => BitVec.ult a b
  | _ => !BitVec.ult a b

/-- CMPI's operand: sign-extended for EQ, NE, LT and GE, zero-extended for LTU and GEU (05 R132). -/
def cmpImm (c : BitVec 3) (im : BitVec 11) : W64 := if c.toNat < 4 then im.signExtend 64 else im.zeroExtend 64

/-- A predicate computed from two (05 R133). -/
def plog (s : State) (d a b : BitVec 7) (f : Bool → Bool → Bool) : Host.Outcome State Fault Refusal :=
  scalar s fun _ t => t.setPred d (f (t.pred a) (t.pred b))

/-- The target of a displacement in words from the instruction's address (03 R63). -/
def target {n : Nat} (t : Thread) (st : Stream) (disp : BitVec n) : W64 := t.here st + (disp.signExtend 64 <<< 2)

/-- A transfer of control by displacement when `taken` holds of the thread after `f` (05 R135-R137). -/
def branch {n : Nat} (s : State) (disp : BitVec n) (f : Stream → Thread → Thread) (taken : Stream → Thread → Bool) :
    Host.Outcome State Fault Refusal :=
  runWord s fun t =>
    let st := s.cur.st
    let t' := (f st t).tick st
    .ok (s.setCurT (if taken st t' then t'.goto st (target t st disp) else t'.goto st (t.here st + 4)))

/-- The link register (05 R119, 06 R158). -/
def linkReg : BitVec 5 := 31

/-- A jump to a computed target: a misaligned one raises FLT_ALIGN and has no effect (03 R59, 05 R136). -/
def jumpTo (s : State) (reg : BitVec 5) (link : Bool) : Host.Outcome State Fault Refusal :=
  runWord s fun t =>
    let st := s.cur.st
    let pc := t.rd st reg
    if pc.toNat % 4 ≠ 0 then .error (.flt fltAlign pc)
    else
      let t' := if link then t.wr st linkReg (t.here st + 4) else t
      .ok (s.setCurT ((t'.tick st).goto st pc))


/-- ADD (05 R128). -/
def execAdd (d a b : BitVec 5) (s : State) : Host.Outcome State Fault Refusal :=
  alu s d a b fun a b => a + b

/-- SUB (05 R128). -/
def execSub (d a b : BitVec 5) (s : State) : Host.Outcome State Fault Refusal :=
  alu s d a b fun a b => a - b

/-- MUL (05 R128). -/
def execMul (d a b : BitVec 5) (s : State) : Host.Outcome State Fault Refusal :=
  aluMul s d a b fun a b => a * b

/-- MULH (05 R128). -/
def execMulh (d a b : BitVec 5) (s : State) : Host.Outcome State Fault Refusal :=
  aluMul s d a b fun a b => mulHigh a b

/-- MULHU (05 R128). -/
def execMulhu (d a b : BitVec 5) (s : State) : Host.Outcome State Fault Refusal :=
  aluMul s d a b fun a b => mulHighU a b

/-- DIV (05 R129). -/
def execDiv (d a b : BitVec 5) (s : State) : Host.Outcome State Fault Refusal :=
  alu s d a b fun a b => divSigned a b

/-- DIVU (05 R129). -/
def execDivu (d a b : BitVec 5) (s : State) : Host.Outcome State Fault Refusal :=
  alu s d a b fun a b => divUnsigned a b

/-- REM (05 R129). -/
def execRem (d a b : BitVec 5) (s : State) : Host.Outcome State Fault Refusal :=
  alu s d a b fun a b => remSigned a b

/-- REMU (05 R129). -/
def execRemu (d a b : BitVec 5) (s : State) : Host.Outcome State Fault Refusal :=
  alu s d a b fun a b => remUnsigned a b

/-- AND (05 R128). -/
def execAnd (d a b : BitVec 5) (s : State) : Host.Outcome State Fault Refusal :=
  alu s d a b fun a b => a &&& b

/-- OR (05 R128). -/
def execOr (d a b : BitVec 5) (s : State) : Host.Outcome State Fault Refusal :=
  alu s d a b fun a b => a ||| b

/-- XOR (05 R128). -/
def execXor (d a b : BitVec 5) (s : State) : Host.Outcome State Fault Refusal :=
  alu s d a b fun a b => a ^^^ b

/-- ANDN (05 R128). -/
def execAndn (d a b : BitVec 5) (s : State) : Host.Outcome State Fault Refusal :=
  alu s d a b fun a b => a &&& ~~~b

/-- ORN (05 R128). -/
def execOrn (d a b : BitVec 5) (s : State) : Host.Outcome State Fault Refusal :=
  alu s d a b fun a b => a ||| ~~~b

/-- SHL (05 R128). -/
def execShl (d a b : BitVec 5) (s : State) : Host.Outcome State Fault Refusal :=
  alu s d a b fun a b => a <<< shamt b

/-- SHR (05 R128). -/
def execShr (d a b : BitVec 5) (s : State) : Host.Outcome State Fault Refusal :=
  alu s d a b fun a b => a >>> shamt b

/-- SAR (05 R128). -/
def execSar (d a b : BitVec 5) (s : State) : Host.Outcome State Fault Refusal :=
  alu s d a b fun a b => a.sshiftRight (shamt b)

/-- MIN (05 R128). -/
def execMin (d a b : BitVec 5) (s : State) : Host.Outcome State Fault Refusal :=
  alu s d a b fun a b => if BitVec.slt b a then b else a

/-- MAX (05 R128). -/
def execMax (d a b : BitVec 5) (s : State) : Host.Outcome State Fault Refusal :=
  alu s d a b fun a b => if BitVec.slt a b then b else a

/-- MINU (05 R128). -/
def execMinu (d a b : BitVec 5) (s : State) : Host.Outcome State Fault Refusal :=
  alu s d a b fun a b => if BitVec.ult b a then b else a

/-- MAXU (05 R128). -/
def execMaxu (d a b : BitVec 5) (s : State) : Host.Outcome State Fault Refusal :=
  alu s d a b fun a b => if BitVec.ult a b then b else a

/-- CLZ (05 R128). -/
def execClz (d a : BitVec 5) (s : State) : Host.Outcome State Fault Refusal :=
  alu1 s d a countLz

/-- CTZ (05 R128). -/
def execCtz (d a : BitVec 5) (s : State) : Host.Outcome State Fault Refusal :=
  alu1 s d a countTz

/-- POPC (05 R128). -/
def execPopc (d a : BitVec 5) (s : State) : Host.Outcome State Fault Refusal :=
  alu1 s d a countOnes

/-- BSWAP (05 R128). -/
def execBswap (d a : BitVec 5) (s : State) : Host.Outcome State Fault Refusal :=
  alu1 s d a swapBytes

/-- ADDI (05 R130). -/
def execAddi (d a : BitVec 5) (im : BitVec 16) (s : State) : Host.Outcome State Fault Refusal :=
  alu1 s d a fun x => x + im.signExtend 64

/-- ANDI (05 R130). -/
def execAndi (d a : BitVec 5) (im : BitVec 16) (s : State) : Host.Outcome State Fault Refusal :=
  alu1 s d a fun x => x &&& im.zeroExtend 64

/-- ORI (05 R130). -/
def execOri (d a : BitVec 5) (im : BitVec 16) (s : State) : Host.Outcome State Fault Refusal :=
  alu1 s d a fun x => x ||| im.zeroExtend 64

/-- XORI (05 R130). -/
def execXori (d a : BitVec 5) (im : BitVec 16) (s : State) : Host.Outcome State Fault Refusal :=
  alu1 s d a fun x => x ^^^ im.zeroExtend 64

/-- SHLI (05 R130). -/
def execShli (d a : BitVec 5) (sx : BitVec 6) (s : State) : Host.Outcome State Fault Refusal :=
  alu1 s d a fun x => x <<< sx.toNat

/-- SHRI (05 R130). -/
def execShri (d a : BitVec 5) (sx : BitVec 6) (s : State) : Host.Outcome State Fault Refusal :=
  alu1 s d a fun x => x >>> sx.toNat

/-- SARI (05 R130). -/
def execSari (d a : BitVec 5) (sx : BitVec 6) (s : State) : Host.Outcome State Fault Refusal :=
  alu1 s d a fun x => x.sshiftRight sx.toNat

/-- MOVHI (05 R131): bits 31-16 hold the immediate, bits 15-0 zero, bits 63-32 copy bit 31. -/
def execMovhi (d : BitVec 5) (im : BitVec 16) (s : State) : Host.Outcome State Fault Refusal :=
  scalar s fun st t => t.wr st d ((im ++ 0#16).signExtend 64)

/-- The 16-bit lane of a register replaced (05 R131). -/
def putLane (x : W64) (l : BitVec 2) (im : BitVec 16) : W64 :=
  (x &&& ~~~((0xFFFF : W64) <<< (16 * l.toNat))) ||| (im.zeroExtend 64 <<< (16 * l.toNat))

/-- MOVK (05 R131): reads its destination as a source. -/
def execMovk (d : BitVec 5) (l : BitVec 2) (im : BitVec 16) (s : State) : Host.Outcome State Fault Refusal :=
  alu1 s d d fun x => putLane x l im

/-- CMP (05 R132). -/
def execCmp (p : BitVec 7) (a b : BitVec 5) (c : BitVec 3) (s : State) : Host.Outcome State Fault Refusal :=
  scalar s fun st t => t.setPred p (condHolds c (t.rd st a) (t.rd st b))

/-- CMPI (05 R132). -/
def execCmpi (p : BitVec 7) (a : BitVec 5) (c : BitVec 3) (im : BitVec 11) (s : State) : Host.Outcome State Fault Refusal :=
  scalar s fun st t => t.setPred p (condHolds c (t.rd st a) (cmpImm c im))

/-- PAND (05 R133). -/
def execPand (d a b : BitVec 7) (s : State) : Host.Outcome State Fault Refusal :=
  plog s d a b fun p q => p && q

/-- POR (05 R133). -/
def execPor (d a b : BitVec 7) (s : State) : Host.Outcome State Fault Refusal :=
  plog s d a b fun p q => p || q

/-- PXOR (05 R133). -/
def execPxor (d a b : BitVec 7) (s : State) : Host.Outcome State Fault Refusal :=
  plog s d a b fun p q => p != q

/-- PANDN (05 R133). -/
def execPandn (d a b : BitVec 7) (s : State) : Host.Outcome State Fault Refusal :=
  plog s d a b fun p q => p && !q

/-- PORN (05 R133). -/
def execPorn (d a b : BitVec 7) (s : State) : Host.Outcome State Fault Refusal :=
  plog s d a b fun p q => p || !q

/-- PNAND (05 R133). -/
def execPnand (d a b : BitVec 7) (s : State) : Host.Outcome State Fault Refusal :=
  plog s d a b fun p q => !(p && q)

/-- PNOR (05 R133). -/
def execPnor (d a b : BitVec 7) (s : State) : Host.Outcome State Fault Refusal :=
  plog s d a b fun p q => !(p || q)

/-- PXNOR (05 R133). -/
def execPxnor (d a b : BitVec 7) (s : State) : Host.Outcome State Fault Refusal :=
  plog s d a b fun p q => p == q

/-- PNOT (05 R133). -/
def execPnot (d a : BitVec 7) (s : State) : Host.Outcome State Fault Refusal :=
  scalar s fun _ t => t.setPred d (!t.pred a)

/-- PSET (05 R133). -/
def execPset (d : BitVec 7) (s : State) : Host.Outcome State Fault Refusal :=
  scalar s fun _ t => t.setPred d true

/-- PCLR (05 R133). -/
def execPclr (d : BitVec 7) (s : State) : Host.Outcome State Fault Refusal :=
  scalar s fun _ t => t.setPred d false

/-- SELP (05 R134). -/
def execSelp (d a b : BitVec 5) (p : BitVec 7) (s : State) : Host.Outcome State Fault Refusal :=
  scalar s fun st t => t.wr st d (if t.pred p then t.rd st a else t.rd st b)

/-- NOP (05 R138): the all-zero word does nothing. -/
def execNop (s : State) : Host.Outcome State Fault Refusal :=
  scalar s fun _ t => t

/-- BR (05 R135). -/
def execBr (p : BitVec 7) (n : BitVec 1) (d : BitVec 18) (s : State) : Host.Outcome State Fault Refusal :=
  branch s d (fun _ t => t) fun _ t => t.pred p != (n == 1)

/-- JMP (05 R136). -/
def execJmp (d : BitVec 26) (s : State) : Host.Outcome State Fault Refusal :=
  branch s d (fun _ t => t) fun _ _ => true

/-- CALL (05 R136): the link register takes the address after the CALL. -/
def execCall (d : BitVec 26) (s : State) : Host.Outcome State Fault Refusal :=
  branch s d (fun st t => t.wr st linkReg (t.here st + 4)) fun _ _ => true

/-- JR (05 R136). -/
def execJr (a : BitVec 5) (s : State) : Host.Outcome State Fault Refusal :=
  jumpTo s a false

/-- RET (05 R136). -/
def execRet (s : State) : Host.Outcome State Fault Refusal :=
  jumpTo s linkReg false

/-- CALLR (05 R136): the target is read before the link is written. -/
def execCallr (a : BitVec 5) (s : State) : Host.Outcome State Fault Refusal :=
  jumpTo s a true

/-- LOOP in the A-stream (05 R137): decrement, and branch while the new count is not zero. It rotates nothing. -/
def execLoopA (c : BitVec 5) (d : BitVec 18) (s : State) : Host.Outcome State Fault Refusal :=
  branch s d (fun st t => t.wr st c (t.rd st c - 1)) fun st t => t.rd st c != 0

/-- EBASE advanced by a rotation, modulo 4 (06 R167, 03 R69). -/
def rotateBase (r : W64) (k : Nat) : W64 := setBits r 0 2 ((bitsAt r 0 2 + k) % 4)

/-- LOOP in the E-stream (06 R167): decrement, rotate EBASE, and branch while the new count is not zero. -/
def execLoopE (c : BitVec 5) (r : BitVec 2) (d : BitVec 18) (s : State) : Host.Outcome State Fault Refusal :=
  branch s d (fun st t => let t := t.wr st c (t.rd st c - 1)
                          { t with rotbase := rotateBase t.rotbase r.toNat }) fun st t => t.rd st c != 0

/-- ROTCLR (06 R168): EBASE := 0. -/
def execRotclr (s : State) : Host.Outcome State Fault Refusal :=
  scalar s fun _ t => { t with rotbase := setBits t.rotbase 0 2 0 }

end Sys2Proof.Machine
end

