-- ==== Sys2Proof/Machine/Dispatch.lean ====
section
/-! DEFINITION. The meaning of every instruction, one arm a constructor. -/

namespace Sys2Proof.Machine

def exec (i : Instr) (s : State) : Host.Outcome State Fault Refusal :=
  match i with
  | .nop => Sys2Proof.Machine.execNop s
  | .rotclr => Sys2Proof.Machine.execRotclr s
  | .bqpush p => Sys2Proof.Machine.execBqpush p s
  | .fqpop d => Sys2Proof.Machine.execFqpop d s
  | .ifp p n => Sys2Proof.Machine.execIfp p n s
  | .rep c d a b => Sys2Proof.Machine.execRep c d a b s
  | .add d a b => Sys2Proof.Machine.execAdd d a b s
  | .sub d a b => Sys2Proof.Machine.execSub d a b s
  | .mul d a b => Sys2Proof.Machine.execMul d a b s
  | .mulh d a b => Sys2Proof.Machine.execMulh d a b s
  | .mulhu d a b => Sys2Proof.Machine.execMulhu d a b s
  | .div d a b => Sys2Proof.Machine.execDiv d a b s
  | .divu d a b => Sys2Proof.Machine.execDivu d a b s
  | .rem d a b => Sys2Proof.Machine.execRem d a b s
  | .remu d a b => Sys2Proof.Machine.execRemu d a b s
  | .and d a b => Sys2Proof.Machine.execAnd d a b s
  | .or d a b => Sys2Proof.Machine.execOr d a b s
  | .xor d a b => Sys2Proof.Machine.execXor d a b s
  | .andn d a b => Sys2Proof.Machine.execAndn d a b s
  | .orn d a b => Sys2Proof.Machine.execOrn d a b s
  | .shl d a b => Sys2Proof.Machine.execShl d a b s
  | .shr d a b => Sys2Proof.Machine.execShr d a b s
  | .sar d a b => Sys2Proof.Machine.execSar d a b s
  | .min d a b => Sys2Proof.Machine.execMin d a b s
  | .max d a b => Sys2Proof.Machine.execMax d a b s
  | .minu d a b => Sys2Proof.Machine.execMinu d a b s
  | .maxu d a b => Sys2Proof.Machine.execMaxu d a b s
  | .clz d a => Sys2Proof.Machine.execClz d a s
  | .ctz d a => Sys2Proof.Machine.execCtz d a s
  | .popc d a => Sys2Proof.Machine.execPopc d a s
  | .bswap d a => Sys2Proof.Machine.execBswap d a s
  | .addi d a im => Sys2Proof.Machine.execAddi d a im s
  | .andi d a im => Sys2Proof.Machine.execAndi d a im s
  | .ori d a im => Sys2Proof.Machine.execOri d a im s
  | .xori d a im => Sys2Proof.Machine.execXori d a im s
  | .shli d a sx => Sys2Proof.Machine.execShli d a sx s
  | .shri d a sx => Sys2Proof.Machine.execShri d a sx s
  | .sari d a sx => Sys2Proof.Machine.execSari d a sx s
  | .movhi d im => Sys2Proof.Machine.execMovhi d im s
  | .movk d l im => Sys2Proof.Machine.execMovk d l im s
  | .cmp p a b c => Sys2Proof.Machine.execCmp p a b c s
  | .cmpi p a c im => Sys2Proof.Machine.execCmpi p a c im s
  | .pand d a b => Sys2Proof.Machine.execPand d a b s
  | .por d a b => Sys2Proof.Machine.execPor d a b s
  | .pxor d a b => Sys2Proof.Machine.execPxor d a b s
  | .pandn d a b => Sys2Proof.Machine.execPandn d a b s
  | .porn d a b => Sys2Proof.Machine.execPorn d a b s
  | .pnand d a b => Sys2Proof.Machine.execPnand d a b s
  | .pnor d a b => Sys2Proof.Machine.execPnor d a b s
  | .pxnor d a b => Sys2Proof.Machine.execPxnor d a b s
  | .pnot d a => Sys2Proof.Machine.execPnot d a s
  | .pset d => Sys2Proof.Machine.execPset d s
  | .pclr d => Sys2Proof.Machine.execPclr d s
  | .selp d a b p => Sys2Proof.Machine.execSelp d a b p s
  | .br p n d => Sys2Proof.Machine.execBr p n d s
  | .jmp d => Sys2Proof.Machine.execJmp d s
  | .call d => Sys2Proof.Machine.execCall d s
  | .jr a => Sys2Proof.Machine.execJr a s
  | .ret => Sys2Proof.Machine.execRet s
  | .callr a => Sys2Proof.Machine.execCallr a s
  | .loopA c d => Sys2Proof.Machine.execLoopA c d s
  | .loopE c r d => Sys2Proof.Machine.execLoopE c r d s
  | .ld d b z o => Sys2Proof.Machine.execLd d b z o s
  | .lda d b z sx o => Sys2Proof.Machine.execLda d b z sx o s
  | .st d b z o => Sys2Proof.Machine.execSt d b z o s
  | .str d b z sx o => Sys2Proof.Machine.execStr d b z sx o s
  | .sta r b z sx o => Sys2Proof.Machine.execSta r b z sx o s
  | .staRow r b sx o => Sys2Proof.Machine.execStaRow r b sx o s
  | .ldq q c b sx => Sys2Proof.Machine.execLdq q c b sx s
  | .atom d b v o z sx r => Sys2Proof.Machine.execAtom d b v o z sx r s
  | .atomnr b v o z sx r => Sys2Proof.Machine.execAtomnr b v o z sx r s
  | .cas d b v z sx r => Sys2Proof.Machine.execCas d b v z sx r s
  | .fence k sx => Sys2Proof.Machine.execFence k sx s
  | .fenceAtomics => Sys2Proof.Machine.execFenceAtomics s
  | .push e f n sx => Sys2Proof.Machine.execPush e f n sx s
  | .popr e f n sx => Sys2Proof.Machine.execPopr e f n sx s
  | .waitid e h a => Sys2Proof.Machine.execWaitid e h a s
  | .semw c a sx => Sys2Proof.Machine.execSemw c a sx s
  | .semp c a sx => Sys2Proof.Machine.execSemp c a sx s
  | .send d b => Sys2Proof.Machine.execSend d b s
  | .recv d b => Sys2Proof.Machine.execRecv d b s
  | .resize w => Sys2Proof.Machine.execResize w s
  | .movqRow q w => Sys2Proof.Machine.execMovqRow q w s
  | .movqScalar q d => Sys2Proof.Machine.execMovqScalar q d s
  | .putsScalar a => Sys2Proof.Machine.execPutsScalar a s
  | .putsRow w => Sys2Proof.Machine.execPutsRow w s
  | .brq d => Sys2Proof.Machine.execBrq d s
  | .brqn d => Sys2Proof.Machine.execBrqn d s
  | .fqp a => Sys2Proof.Machine.execFqp a s
  | .trap im => Sys2Proof.Machine.execTrap im s
  | .eret => Sys2Proof.Machine.execEret s
  | .mfc d c => Sys2Proof.Machine.execMfc d c s
  | .mtc a c => Sys2Proof.Machine.execMtc a c s
  | .time d => Sys2Proof.Machine.execTime d s
  | .wakewait a => Sys2Proof.Machine.execWakewait a s
  | .barrier sx => Sys2Proof.Machine.execBarrier sx s
  | .halt => Sys2Proof.Machine.execHalt s
  | .fadd t d a b => Sys2Proof.Machine.execFadd t d a b s
  | .fsub t d a b => Sys2Proof.Machine.execFsub t d a b s
  | .fmul t d a b => Sys2Proof.Machine.execFmul t d a b s
  | .fma t d a b => Sys2Proof.Machine.execFma t d a b s
  | .fmin t d a b => Sys2Proof.Machine.execFmin t d a b s
  | .fmax t d a b => Sys2Proof.Machine.execFmax t d a b s
  | .fdiv t d a b => Sys2Proof.Machine.execFdiv t d a b s
  | .fexp2 t d a => Sys2Proof.Machine.execFexp2 t d a s
  | .flog2 t d a => Sys2Proof.Machine.execFlog2 t d a s
  | .frcp t d a => Sys2Proof.Machine.execFrcp t d a s
  | .frsq t d a => Sys2Proof.Machine.execFrsq t d a s
  | .fsqrt t d a => Sys2Proof.Machine.execFsqrt t d a s
  | .fabs t d a => Sys2Proof.Machine.execFabs t d a s
  | .fneg t d a => Sys2Proof.Machine.execFneg t d a s
  | .fclass t d a => Sys2Proof.Machine.execFclass t d a s
  | .fcvt r t d a sx m => Sys2Proof.Machine.execFcvt r t d a sx m s
  | .iadd t d a b => Sys2Proof.Machine.execIadd t d a b s
  | .isub t d a b => Sys2Proof.Machine.execIsub t d a b s
  | .imul t d a b => Sys2Proof.Machine.execImul t d a b s
  | .imin t d a b => Sys2Proof.Machine.execImin t d a b s
  | .imax t d a b => Sys2Proof.Machine.execImax t d a b s
  | .iand t d a b => Sys2Proof.Machine.execIand t d a b s
  | .ior t d a b => Sys2Proof.Machine.execIor t d a b s
  | .ixor t d a b => Sys2Proof.Machine.execIxor t d a b s
  | .ishl t d a sx => Sys2Proof.Machine.execIshl t d a sx s
  | .ishr t d a sx => Sys2Proof.Machine.execIshr t d a sx s
  | .isar t d a sx => Sys2Proof.Machine.execIsar t d a sx s
  | .bcast t d sx m => Sys2Proof.Machine.execBcast t d sx m s
  | .rowset t d a sx m => Sys2Proof.Machine.execRowset t d a sx m s
  | .fcmpeq t d a b => Sys2Proof.Machine.execFcmpeq t d a b s
  | .fcmplt t d a b => Sys2Proof.Machine.execFcmplt t d a b s
  | .fcmple t d a b => Sys2Proof.Machine.execFcmple t d a b s
  | .fcmpun t d a b => Sys2Proof.Machine.execFcmpun t d a b s
  | .icmpeq t d a b => Sys2Proof.Machine.execIcmpeq t d a b s
  | .icmplt t d a b => Sys2Proof.Machine.execIcmplt t d a b s
  | .icmpltu t d a b => Sys2Proof.Machine.execIcmpltu t d a b s
  | .rsum t d a => Sys2Proof.Machine.execRsum t d a s
  | .rsumsq t d a => Sys2Proof.Machine.execRsumsq t d a s
  | .rmax t d a => Sys2Proof.Machine.execRmax t d a s
  | .rmin t d a => Sys2Proof.Machine.execRmin t d a s
  | .rargmax t d a => Sys2Proof.Machine.execRargmax t d a s
  | .rargmin t d a => Sys2Proof.Machine.execRargmin t d a s
  | .perm t d a b => Sys2Proof.Machine.execPerm t d a b s
  | .sel t d a b => Sys2Proof.Machine.execSel t d a b s
  | .lshift t d a sx m => Sys2Proof.Machine.execLshift t d a sx m s
  | .lrot t d a sx m => Sys2Proof.Machine.execLrot t d a sx m s
  | .bfly t d a b => Sys2Proof.Machine.execBfly t d a b s
  | .twid t d a sx m => Sys2Proof.Machine.execTwid t d a sx m s
  | .cmul t d a b => Sys2Proof.Machine.execCmul t d a b s
  | .conj t d a => Sys2Proof.Machine.execConj t d a s
  | .rowget t a sx m => Sys2Proof.Machine.execRowget t a sx m s
  | .rowput t d a sx => Sys2Proof.Machine.execRowput t d a sx s
  | .rowmov t d a => Sys2Proof.Machine.execRowmov t d a s
  | .rowzero t d => Sys2Proof.Machine.execRowzero t d s
  | .rngrow t d sx => Sys2Proof.Machine.execRngrow t d sx s
  | .sortk t d a b => Sys2Proof.Machine.execSortk t d a b s
  | .tmirror t d => Sys2Proof.Machine.execTmirror t d s
  | .trot t d => Sys2Proof.Machine.execTrot t d s
  | .tileResultLand core slot idx => Sys2Proof.Machine.execTileResultLand core slot idx s
  | .storePerform core slot idx => Sys2Proof.Machine.execStorePerform core slot idx s
  | .mailboxDeliver idx => Sys2Proof.Machine.execMailboxDeliver idx s
  | .wakewaitWake core slot => Sys2Proof.Machine.execWakewaitWake core slot s
  | .resultElementPlace eng src => Sys2Proof.Machine.execResultElementPlace eng src s
  | .trapEntry core slot => Sys2Proof.Machine.execTrapEntry core slot s
  | .invctlWrite a => Sys2Proof.Machine.execInvctlWrite a s
  | .slotCounterWrite c a => Sys2Proof.Machine.execSlotCounterWrite c a s
  | .domsetWrite a => Sys2Proof.Machine.execDomsetWrite a s
  | .tfmtWrite a => Sys2Proof.Machine.execTfmtWrite a s
  | .hostatomWrite a => Sys2Proof.Machine.execHostatomWrite a s
  | .ckick core eng => Sys2Proof.Machine.execCkick core eng s
  | .cresume core eng => Sys2Proof.Machine.execCresume core eng s
  | .cabort core eng => Sys2Proof.Machine.execCabort core eng s
  | .copy core eng ch => Sys2Proof.Machine.execCopy core eng ch s
  | .gather core eng ch => Sys2Proof.Machine.execGather core eng ch s
  | .scatter core eng ch => Sys2Proof.Machine.execScatter core eng ch s
  | .coord core eng ch => Sys2Proof.Machine.execCoord core eng ch s
  | .hinge core eng ch => Sys2Proof.Machine.execHinge core eng ch s
  | .link core eng ch => Sys2Proof.Machine.execLink core eng ch s
  | .chainEntryComplete core eng ch => Sys2Proof.Machine.execChainEntryComplete core eng ch s
  | .refillRequest core line => Sys2Proof.Machine.execRefillRequest core line s
  | .refillDone core eng ch => Sys2Proof.Machine.execRefillDone core eng ch s
  | .chainCmdbound core eng ch => Sys2Proof.Machine.execChainCmdbound core eng ch s
  | .mloadw core => Sys2Proof.Machine.execMloadw core s
  | .mswap core => Sys2Proof.Machine.execMswap core s
  | .mmul core => Sys2Proof.Machine.execMmul core s
  | .mdrain core => Sys2Proof.Machine.execMdrain core s
  | .mkat core => Sys2Proof.Machine.execMkat core s
  | .matComplete core idx => Sys2Proof.Machine.execMatComplete core idx s
  | .matRefillResult core => Sys2Proof.Machine.execMatRefillResult core s
  | .matCmdbound core => Sys2Proof.Machine.execMatCmdbound core s
  | .matFlush core => Sys2Proof.Machine.execMatFlush core s
  | .matSkip core => Sys2Proof.Machine.execMatSkip core s
  | .matResume core => Sys2Proof.Machine.execMatResume core s
  | .ccrc core => Sys2Proof.Machine.execCcrc core s
  | .ccmp core => Sys2Proof.Machine.execCcmp core s
  | .cstat core => Sys2Proof.Machine.execCstat core s
  | .chkComplete core => Sys2Proof.Machine.execChkComplete core s
  | .chkCmdbound core => Sys2Proof.Machine.execChkCmdbound core s
  | .chkFlush core => Sys2Proof.Machine.execChkFlush core s
  | .chkSkip core => Sys2Proof.Machine.execChkSkip core s
  | .chkResume core => Sys2Proof.Machine.execChkResume core s
  | .publish core => Sys2Proof.Machine.execPublish core s
  | .publishCarry die => Sys2Proof.Machine.execPublishCarry die s
  | .nest core => Sys2Proof.Machine.execNest core s
  | .gridCreate core => Sys2Proof.Machine.execGridCreate core s
  | .gridDestroy core => Sys2Proof.Machine.execGridDestroy core s
  | .gridReset core => Sys2Proof.Machine.execGridReset core s
  | .lattice core => Sys2Proof.Machine.execLattice core s
  | .frameGo core => Sys2Proof.Machine.execFrameGo core s
  | .frameStop core => Sys2Proof.Machine.execFrameStop core s
  | .frameSetbase core => Sys2Proof.Machine.execFrameSetbase core s
  | .cancel core => Sys2Proof.Machine.execCancel core s
  | .status core => Sys2Proof.Machine.execStatus core s
  | .qmgSkip core => Sys2Proof.Machine.execQmgSkip core s
  | .qmgResume core => Sys2Proof.Machine.execQmgResume core s
  | .frameTick die => Sys2Proof.Machine.execFrameTick die s
  | .taskOverrun die => Sys2Proof.Machine.execTaskOverrun die s
  | .taskPlace die => Sys2Proof.Machine.execTaskPlace die s
  | .stealAttempt core => Sys2Proof.Machine.execStealAttempt core s
  | .tileDispatch core lost => Sys2Proof.Machine.execTileDispatch core lost s
  | .engineTaskDispatch die entry => Sys2Proof.Machine.execEngineTaskDispatch die entry s
  | .taskRetire die entry => Sys2Proof.Machine.execTaskRetire die entry s
  | .scoreboardRebuild die grid row lost => Sys2Proof.Machine.execScoreboardRebuild die grid row lost s
  | .priorityAge die entry => Sys2Proof.Machine.execPriorityAge die entry s
  | .astep core => Sys2Proof.Machine.execAstep core s
  | .btpost core => Sys2Proof.Machine.execBtpost core s
  | .btfork core => Sys2Proof.Machine.execBtfork core s
  | .btcommit core => Sys2Proof.Machine.execBtcommit core s
  | .bttrim core => Sys2Proof.Machine.execBttrim core s
  | .btstat core => Sys2Proof.Machine.execBtstat core s
  | .arriveWaitEnd core => Sys2Proof.Machine.execArriveWaitEnd core s
  | .busyWaitEnd core => Sys2Proof.Machine.execBusyWaitEnd core s
  | .attComplete core => Sys2Proof.Machine.execAttComplete core s
  | .attCmdbound core => Sys2Proof.Machine.execAttCmdbound core s
  | .attFlush core => Sys2Proof.Machine.execAttFlush core s
  | .attSkip core => Sys2Proof.Machine.execAttSkip core s
  | .attResume core => Sys2Proof.Machine.execAttResume core s
  | .sample die => Sys2Proof.Machine.execSample die s
  | .ringWaitEnd die => Sys2Proof.Machine.execRingWaitEnd die s
  | .smpComplete die => Sys2Proof.Machine.execSmpComplete die s
  | .smpElementPlace die idx => Sys2Proof.Machine.execSmpElementPlace die idx s
  | .smpCmdbound die => Sys2Proof.Machine.execSmpCmdbound die s
  | .tdesc src => Sys2Proof.Machine.execTdesc src s
  | .batchQueueWaitEnd src => Sys2Proof.Machine.execBatchQueueWaitEnd src s
  | .texpand src => Sys2Proof.Machine.execTexpand src s
  | .poolWaitEnd src => Sys2Proof.Machine.execPoolWaitEnd src s
  | .tback src => Sys2Proof.Machine.execTback src s
  | .treuse src => Sys2Proof.Machine.execTreuse src s
  | .drainEnd src => Sys2Proof.Machine.execDrainEnd src s
  | .treeReclaim die tid => Sys2Proof.Machine.execTreeReclaim die tid s
  | .tcfgInit src => Sys2Proof.Machine.execTcfgInit src s
  | .tcfgSetp src => Sys2Proof.Machine.execTcfgSetp src s
  | .tcfgRelease src => Sys2Proof.Machine.execTcfgRelease src s
  | .tstat src => Sys2Proof.Machine.execTstat src s
  | .treComplete src => Sys2Proof.Machine.execTreComplete src s
  | .treCmdbound src => Sys2Proof.Machine.execTreCmdbound src s
  | .treFlush core => Sys2Proof.Machine.execTreFlush core s
  | .treSkip core => Sys2Proof.Machine.execTreSkip core s
  | .treResume core => Sys2Proof.Machine.execTreResume core s
  | .search src => Sys2Proof.Machine.execSearch src s
  | .searchRoundEnd src => Sys2Proof.Machine.execSearchRoundEnd src s
  | .hopIssue ctl die => Sys2Proof.Machine.execHopIssue ctl die s
  | .hopReadDone ctl idx ok => Sys2Proof.Machine.execHopReadDone ctl idx ok s
  | .fetchkv src => Sys2Proof.Machine.execFetchkv src s
  | .idxappend src => Sys2Proof.Machine.execIdxappend src s
  | .idxdelete src => Sys2Proof.Machine.execIdxdelete src s
  | .idxseal src => Sys2Proof.Machine.execIdxseal src s
  | .idxmerge src => Sys2Proof.Machine.execIdxmerge src s
  | .mergeDone xid ok => Sys2Proof.Machine.execMergeDone xid ok s
  | .logEntryProgram xid => Sys2Proof.Machine.execLogEntryProgram xid s
  | .waitlogEnd src => Sys2Proof.Machine.execWaitlogEnd src s
  | .waitmergeEnd src => Sys2Proof.Machine.execWaitmergeEnd src s
  | .schComplete src => Sys2Proof.Machine.execSchComplete src s
  | .schCmdbound src => Sys2Proof.Machine.execSchCmdbound src s
  | .schFlush core => Sys2Proof.Machine.execSchFlush core s
  | .schSkip core => Sys2Proof.Machine.execSchSkip core s
  | .schResume core => Sys2Proof.Machine.execSchResume core s
  | .portRead port line err retries => Sys2Proof.Machine.execPortRead port line err retries s
  | .portWrite port => Sys2Proof.Machine.execPortWrite port s
  | .portAtomic port => Sys2Proof.Machine.execPortAtomic port s
  | .fillReturn port line => Sys2Proof.Machine.execFillReturn port line s
  | .entryDrain port line => Sys2Proof.Machine.execEntryDrain port line s
  | .drainDone port line => Sys2Proof.Machine.execDrainDone port line s
  | .bankActivate port bank => Sys2Proof.Machine.execBankActivate port bank s
  | .rfmWindowEnd port bank => Sys2Proof.Machine.execRfmWindowEnd port bank s
  | .refresh port bank => Sys2Proof.Machine.execRefresh port bank s
  | .countWindowEnd port bank => Sys2Proof.Machine.execCountWindowEnd port bank s
  | .channelRetire port => Sys2Proof.Machine.execChannelRetire port s
  | .patrolScrub port line err => Sys2Proof.Machine.execPatrolScrub port line err s
  | .flitReceive lk bad => Sys2Proof.Machine.execFlitReceive lk bad s
  | .flitReplay lk => Sys2Proof.Machine.execFlitReplay lk s
  | .moduleRetrain lk => Sys2Proof.Machine.execModuleRetrain lk s
  | .laneFail lk lane => Sys2Proof.Machine.execLaneFail lk lane s
  | .fabricLaneFail port lane => Sys2Proof.Machine.execFabricLaneFail port lane s
  | .routeFail pkg port => Sys2Proof.Machine.execRouteFail pkg port s
  | .timeExchange slew => Sys2Proof.Machine.execTimeExchange slew s
  | .remoteRequest ctx unit off kind op n v v2 => Sys2Proof.Machine.execRemoteRequest ctx unit off kind op n v v2 s
  | .remoteResponse core slot idx code => Sys2Proof.Machine.execRemoteResponse core slot idx code s
  | .dqputDraft src => Sys2Proof.Machine.execDqputDraft src s
  | .dqputVerdict src => Sys2Proof.Machine.execDqputVerdict src s
  | .dqgetDraft src => Sys2Proof.Machine.execDqgetDraft src s
  | .dqgetVerdict src => Sys2Proof.Machine.execDqgetVerdict src s
  | .waitdqEnd src => Sys2Proof.Machine.execWaitdqEnd src s
  | .coll src => Sys2Proof.Machine.execColl src s
  | .collComplete src => Sys2Proof.Machine.execCollComplete src s
  | .withdrawNotice gid => Sys2Proof.Machine.execWithdrawNotice gid s
  | .wakepost src => Sys2Proof.Machine.execWakepost src s
  | .lnkstat src => Sys2Proof.Machine.execLnkstat src s
  | .lnkComplete src => Sys2Proof.Machine.execLnkComplete src s
  | .lnkCmdbound src => Sys2Proof.Machine.execLnkCmdbound src s
  | .lnkFlush core => Sys2Proof.Machine.execLnkFlush core s
  | .lnkSkip core => Sys2Proof.Machine.execLnkSkip core s
  | .lnkResume core => Sys2Proof.Machine.execLnkResume core s
  | .xferl src => Sys2Proof.Machine.execXferl src s
  | .xfrArriveWaitEnd src => Sys2Proof.Machine.execXfrArriveWaitEnd src s
  | .arriveOr src => Sys2Proof.Machine.execArriveOr src s
  | .xfrComplete src => Sys2Proof.Machine.execXfrComplete src s
  | .xfrCmdbound src => Sys2Proof.Machine.execXfrCmdbound src s
  | .xfrFlush core => Sys2Proof.Machine.execXfrFlush core s
  | .xfrSkip core => Sys2Proof.Machine.execXfrSkip core s
  | .xfrResume core => Sys2Proof.Machine.execXfrResume core s
  | .hostMemWrite off bytes => Sys2Proof.Machine.execHostMemWrite off bytes s
  | .hostMemRead off len => Sys2Proof.Machine.execHostMemRead off len s
  | .hostAtomicop off op n v v2 => Sys2Proof.Machine.execHostAtomicop off op n v v2 s
  | .hostReadCompletion core slot => Sys2Proof.Machine.execHostReadCompletion core slot s
  | .hostAtomicCompletion who status => Sys2Proof.Machine.execHostAtomicCompletion who status s
  | .hostAtomicTimeout who applied => Sys2Proof.Machine.execHostAtomicTimeout who applied s
  | .fallbackReadDone who status => Sys2Proof.Machine.execFallbackReadDone who status s
  | .ctxswap core => Sys2Proof.Machine.execCtxswap core s
  | .ctxspill core => Sys2Proof.Machine.execCtxspill core s
  | .shadowFillDone core => Sys2Proof.Machine.execShadowFillDone core s
  | .slotsStopped core => Sys2Proof.Machine.execSlotsStopped core s
  | .bankExchangeDone core => Sys2Proof.Machine.execBankExchangeDone core s
  | .coreDrainDone core => Sys2Proof.Machine.execCoreDrainDone core s
  | .imageSaveDone core => Sys2Proof.Machine.execImageSaveDone core s
  | .imageRestoreDone core => Sys2Proof.Machine.execImageRestoreDone core s
  | .parkEntry core => Sys2Proof.Machine.execParkEntry core s
  | .mustsaveAdd core => Sys2Proof.Machine.execMustsaveAdd core s
  | .mustsaveRemove core => Sys2Proof.Machine.execMustsaveRemove core s
  | .mustsaveClear core => Sys2Proof.Machine.execMustsaveClear core s
  | .shutstatStatus core => Sys2Proof.Machine.execShutstatStatus core s
  | .shutstatLoad core bad => Sys2Proof.Machine.execShutstatLoad core bad s
  | .ctxComplete core => Sys2Proof.Machine.execCtxComplete core s
  | .ctxCmdbound core => Sys2Proof.Machine.execCtxCmdbound core s
  | .ctxFlush core => Sys2Proof.Machine.execCtxFlush core s
  | .ctxSkip core => Sys2Proof.Machine.execCtxSkip core s
  | .ctxResume core => Sys2Proof.Machine.execCtxResume core s
  | .shutterTrap => Sys2Proof.Machine.execShutterTrap s
  | .shutterSwitchIn cap vb => Sys2Proof.Machine.execShutterSwitchIn cap vb s
  | .bankWatchCut bytes => Sys2Proof.Machine.execBankWatchCut bytes s
  | .pageProgramFail idx => Sys2Proof.Machine.execPageProgramFail idx s
  | .shutterPowerDown vend => Sys2Proof.Machine.execShutterPowerDown vend s
  | .boot half bases thrs fused train unread => Sys2Proof.Machine.execBoot half bases thrs fused train unread s
  | .ctxopen => Sys2Proof.Machine.execCtxopen s
  | .ctxclose => Sys2Proof.Machine.execCtxclose s
  | .inval => Sys2Proof.Machine.execInval s
  | .accset => Sys2Proof.Machine.execAccset s
  | .mapbar => Sys2Proof.Machine.execMapbar s
  | .objopen => Sys2Proof.Machine.execObjopen s
  | .objclose => Sys2Proof.Machine.execObjclose s
  | .dqopen => Sys2Proof.Machine.execDqopen s
  | .dqclose => Sys2Proof.Machine.execDqclose s
  | .ownset => Sys2Proof.Machine.execOwnset s
  | .retire => Sys2Proof.Machine.execRetire s
  | .clrsuspect fails => Sys2Proof.Machine.execClrsuspect fails s
  | .island => Sys2Proof.Machine.execIsland s
  | .setmask => Sys2Proof.Machine.execSetmask s
  | .quote => Sys2Proof.Machine.execQuote s
  | .loadfw => Sys2Proof.Machine.execLoadfw s
  | .grpopen => Sys2Proof.Machine.execGrpopen s
  | .grpclose => Sys2Proof.Machine.execGrpclose s
  | .islandThermal isl temp => Sys2Proof.Machine.execIslandThermal isl temp s
  | .powerLimit isl => Sys2Proof.Machine.execPowerLimit isl s
  | .healthUpdate entry wear days cap vb => Sys2Proof.Machine.execHealthUpdate entry wear days cap vb s
  | .domainBringUp pkg now routes => Sys2Proof.Machine.execDomainBringUp pkg now routes s
  | .modulePauseEnd lk => Sys2Proof.Machine.execModulePauseEnd lk s

end Sys2Proof.Machine
end

