-- ==== Sys2Proof/Machine/Step.lean ====
section
/-! DEFINITION. One step of the machine: the next turn of the schedule, the time that passes before it, and its act (log 1).
`State.withFetchWord` places an instruction where the next step fetches (log 10). -/

namespace Sys2Proof

/-- The turn the machine takes when its schedule names none: a free value, so a statement about every step holds of every
order of the agents (log 1). -/
opaque Config.freeTurn : Nat → Machine.Turn

namespace Machine

/-- A row of the opcode table that is a step of its own, not an instruction word nor the effect of an MTC. -/
def acts : Instr → Bool
  | .nop | .invctlWrite _ | .slotCounterWrite _ _ | .domsetWrite _ | .tfmtWrite _ | .hostatomWrite _
  | .matFlush _ | .matSkip _ | .matResume _ | .chkFlush _ | .chkSkip _ | .chkResume _ | .qmgSkip _ | .qmgResume _
  | .attFlush _ | .attSkip _ | .attResume _ | .treFlush _ | .treSkip _ | .treResume _ | .schFlush _ | .schSkip _ | .schResume _
  | .lnkFlush _ | .lnkSkip _ | .lnkResume _ | .xfrFlush _ | .xfrSkip _ | .xfrResume _
  | .ctxFlush _ | .ctxSkip _ | .ctxResume _ => false
  | i => encode i == 0

/-- The current stream fetches its next word and executes the instruction it holds; a word that holds none raises its fault,
and so does the fetch (03 R60, R67, 04 R100). -/
def issue (s : State) : Host.Outcome State Fault Refusal :=
  match curWord s with
  | .error .wait => .next (waiting s)
  | .error (.flt c a o) => .next (raise s c a o)
  | .ok (s', w) => match decode s.cur.st w with
    | .ok i => exec i (interlock i s')
    | .error f => .next (raise s' (wordFault s' w f) 0)

/-- The next turn, and the state without it. -/
def nextTurn (s : State) : Turn × State :=
  match s.sched with
  | t :: rest => (t, { s with sched := rest })
  | [] => (Config.freeTurn s.cursor, { s with cursor := s.cursor + 1 })

/-- A turn's act. One that the machine has no occasion for leaves the state as it stands. -/
def runAct (s : State) : Act → Host.Outcome State Fault Refusal
  | .issue core slot st =>
    let s := { s with cur := ⟨core, slot, st⟩ }
    if mayIssue s then issue s else .next s
  | .event i => if acts i && i.WellFormed then exec i s else .next s
  | .hostPoke addr b => .next { s with host := s.host.write addr b }
  | .remotePoke addr b => .next { s with remote := s.remote.write addr b }
  | .peer gid pkg seq op root bytes => .next { s with peers := s.peers ++ [⟨gid, pkg, seq, op, root, bytes⟩] }
  | .domainPeer ctx pkg members arrivals => .next (domainReport s ctx pkg members arrivals)
  | .entryLost die entry => .next (entryLost s die entry)
  | .stateLost core row => .next (s.setMat core { s.mat core with lost := row + 1 })
  | .barPoke reg v => .next (barPoke s reg v)
  | .barRead off => .next (barRead s off)
  | .hostReset => .next (hostReset s)

/-- One step. -/
def step (s : State) : Host.Outcome State Fault Refusal :=
  let (t, s) := nextTurn s
  runAct { s with time := s.time + BitVec.ofNat 64 t.dt } t.act

/-- The stream an instruction word may issue in: A, or E when only E decodes it. -/
def streamFor (w : W32) : Stream :=
  match decode .a w with
  | .ok _ => .a
  | .error _ => .e

/-- The word stored at scratchpad address 0 of core 0, where slot 0's thread has its PC, and that thread's issue as the next
turn (03 R59: every instruction is one 32-bit word). -/
def State.withFetchWord (s : State) (_nbits w : Nat) : State :=
  let word := BitVec.ofNat 32 w
  let t := s.thread 0 0
  let s := s.setThread 0 0 { t with
    live := true, halting := false, halted := false, failed := none, apc := 0, epc := 0, agrp := {}, egrp := {} }
  let s := s.setCore 0 { s.core 0 with heldW := 0, heldR := 0, stopped := false, gate := false }
  { s with
    islands := Tab.drop s.islands 0
    shut := {}
    spad := s.spad.writeLE 0 4 word.toNat
    spadPoison := s.spadPoison.filter fun b => decide (64 ≤ b)
    sched := [⟨0, .issue 0 0 (streamFor word)⟩] }

end Machine

end Sys2Proof
end

