-- ==== Sys2Proof/Safety.lean ====
section
/-! DEFINITION. What a safe run is, and the terms the statements use: who issues, what stays as it was, what a word or an
engine's command leaves behind when it completes. -/

namespace Sys2Proof

open Sys2Proof.Machine

/-! ### Safe runs -/

/-- The four memories are in canonical form. -/
def MemoriesOk (s : State) : Prop :=
  s.dev.wf = true ∧ s.spad.wf = true ∧ s.host.wf = true ∧ s.remote.wf = true

/-- A run of `n` steps that meets no fault and no refusal. -/
def RunsSafely : Nat → State → Prop
  | 0, _ => True
  | n + 1, s => ∃ s', step s = .next s' ∧ RunsSafely n s'

/-! ### Who issues -/

/-- Stream `st` of the current thread may issue a word. -/
def Issues (s : State) (st : Stream) : Prop := mayIssue s = true ∧ s.cur.st = st

/-- The E-stream of the current thread may issue, and no A-stream access of the thread is on its way outside the package. -/
def IssuesE (s : State) : Prop := Issues s .e ∧ s.curT.out = none

/-- No weak fault and no FLT_UNCORR of a thread's ATOMNRs awaits its delivery (04 R101, 15 R404). -/
def NoneHeld (t : Thread) : Prop := t.heldUncorr = none ∧ t.handUncorr = none ∧ weakHeld t = false

/-- The A-stream of the current thread may issue a word that takes pending weak-store faults: it holds none, every store of its queue has
passed its checks, and nothing of 17 R461 holds its core. -/
def IssuesStrong (s : State) : Prop :=
  Issues s .a ∧ (s.core s.cur.core).gate = false ∧ NoneHeld s.curT ∧ guardOf s s.cur.core s.curT 0 s.curT.saq = .clear

/-- The E-stream may issue a word that releases what the A-stream has issued, and all of that has been performed. -/
def IssuesRelease (s : State) : Prop :=
  Issues s .e ∧ s.curT.out = none ∧ s.curT.saq = [] ∧ s.curT.atomsOut = 0 ∧ NoneHeld s.curT ∧ s.curT.flights = []

/-- An access of n bytes at an address that lies in a core's own scratchpad, aligned and outside the carve, which no held bank
group and no exchange stops (04 R85, R87, R92, 09 R241, 17 R461). -/
def OwnSpad (s : State) (core : Nat) (ea : W64) (n : Nat) (kind : Kind) : Prop :=
  ea.toNat % n = 0 ∧ ea.toNat + n ≤ carveBase (s.core core).ways ∧ (s.core core).gate = false
    ∧ bankRefused s core ea.toNat kind = false

/-- The place of a core's scratchpad address among all scratchpad bytes. -/
def ownKey (core : Nat) (ea : W64) : Nat := spadSize * core + ea.toNat

/-- No store of the current thread's queue overlaps a scratchpad access of it nor writes its 8-byte words with data it has, and no FENCE.ar
stands in the queue (04 R106, R108, 05 R126). -/
def Unhindered (s : State) (ea : W64) (n : Nat) : Prop :=
  fencedAll s.curT.saq = false ∧ s.curT.saq.any (SaOp.touches ea.toNat n) = false
    ∧ wordBehind s s.cur.core s.curT.ctx s.curT.saq true [(.spad (ownKey s.cur.core ea), n)] = false

/-! ### What stays as it was -/

/-- No byte of any memory reads otherwise than before. -/
def SameBytes (s t : State) : Prop :=
  ∀ a, t.dev.read a = s.dev.read a ∧ t.spad.read a = s.spad.read a ∧ t.host.read a = s.host.read a
    ∧ t.remote.read a = s.remote.read a

/-- Nothing but the current thread has changed. -/
def OnlyCurrent (s t : State) : Prop := t = s.setCurT t.curT

/-- A thread differs from what it was in one stream's scalar file, with the clocks its registers are ready, PC, group and clock
alone. -/
def OnlyScalars (st : Stream) (t u : Thread) : Prop :=
  match st with
  | .a => u = { t with a := u.a, apc := u.apc, agrp := u.agrp }
  | .e => u = { t with e := u.e, eready := u.eready, epc := u.epc, egrp := u.egrp, eclk := u.eclk }

/-- A thread differs from what it was in its predicates, one stream's PC, group and clock alone. -/
def OnlyPredicates (st : Stream) (t u : Thread) : Prop :=
  match st with
  | .a => u = { t with p := u.p, apc := u.apc, agrp := u.agrp }
  | .e => u = { t with p := u.p, epc := u.epc, egrp := u.egrp, eclk := u.eclk }

/-! ### Tile words -/

/-- The row fields a tile word acts on: its own, or under REP those of the repetition; `none` when one leaves 0-127
(03 R72). -/
def rowFields (t : Thread) (d a b : BitVec 7) : Option (BitVec 7 × BitVec 7 × BitVec 7) :=
  match t.egrp.rep with
  | none => some (d, a, b)
  | some r => match stepField d t.repIndex r.sd, stepField a t.repIndex r.sa, stepField b t.repIndex r.sb with
    | some d', some a', some b' => some (d', a', b')
    | _, _, _ => none

/-- The state after a tile word or its repetition has issued, `s'` holding its effect on the rows (03 R70, R72, R73). -/
def tileIssued (s s' : State) (stall : Nat) : State :=
  let t := s'.curT.tick .e stall
  match s.curT.egrp.rep with
  | none => s'.setCurT (t.advance .e)
  | some r =>
    if s.curT.repIndex < r.count then s'.setCurT { t with repidx := repActAt (s.curT.repIndex + 1) }
    else s'.setCurT ({ t with repidx := 0 }.advance .e)

/-- A tile word that issues: `t` the thread with every result due landed (03 R70), its rows on their way, its flags set. -/
def tileRows (s : State) (stall lat : Nat) (t : Thread) (rows : List (Nat × RowData × Option Sideband)) (fl : FFlags) :
    Host.Outcome State Fault Refusal :=
  .next (tileIssued s (launchAll (s.setCurT (t.addFlags fl)) lat rows) stall)

/-- A tile word with one destination row. -/
def oneRow (s : State) (stall lat : Nat) (t : Thread) (d : BitVec 7) (r : RowData × FFlags) (sb : Option Sideband) :
    Host.Outcome State Fault Refusal := tileRows s stall lat t [(t.phys d, r.1, sb)] r.2

/-! ### Engine commands -/

/-- An entry of 16 bytes is written in a log in device memory: its bytes go to the port of base + 16 × HEAD, and HEAD moves on modulo
the log's entries; at a port where nothing waits they are memory's at once. -/
def EntryWritten (s t : State) (log after : LogPtr) (count : Nat) (bs : List Byte) : Prop :=
  let a := log.base + 16 * log.head
  after = { log with head := (log.head + 1) % count } ∧ t.dev = (portWrite s a bs).dev ∧ t.ports = (portWrite s a bs).ports ∧
    ∀ q co, portOf s a = some (q, co) → (s.port q).retired = false → (s.port q).arr = [] → portBusy s q (lineOf a) = false →
      t.dev = s.dev.writeBytes a bs

/-- A stream's command that runs: it has neither stopped nor done its work, and waits for nothing. -/
def Runs (s : State) (eng src : Nat) (c : Cmd) : Prop :=
  (s.estream eng src).run = some c ∧ (s.estream eng src).stopped = false ∧ (s.estream eng src).done = false
    ∧ (s.estream eng src).wait = 0

/-- A stream whose head may start: its engine takes it, and the engine queue's access table does not deny it (04 R102). -/
def Heads (s : State) (eng src : Nat) (c : Cmd) : Prop :=
  (s.estream eng src).run = none ∧ (s.estream eng src).queue.head? = some c ∧ mayStart s eng src = true ∧ pushDenied s eng c = false

/-- A stream whose command waits. -/
def Waits (s : State) (eng src : Nat) (c : Cmd) (wait : Nat) : Prop :=
  (s.estream eng src).run = some c ∧ (s.estream eng src).stopped = false ∧ (s.estream eng src).wait = wait

/-- A stream whose command has done its work, with room for its post and its element, and which nothing holds as a release at
durable scope (04 R117). -/
def Done (s : State) (eng src : Nat) (c : Cmd) : Prop :=
  (s.estream eng src).run = some c ∧ (s.estream eng src).stopped = false ∧ (s.estream eng src).done = true
    ∧ handRoom s eng c (s.estream eng src).held = true ∧ durableHeld s eng c = false

/-- The state after a command has completed (01 R24, 11 R309): its stream idle, its post made, its element placed, its task
ended. -/
def completed (s : State) (eng src : Nat) (c : Cmd) : State :=
  let s1 := s.setEstream eng src (s.estream eng src).idle
  let s2 := if c.posts eng then enginePost s1 c c.pctr 1 else s1
  let s3 := match (s.estream eng src).held with
    | some e => giveElem s2 eng c e
    | none => s2
  taskDone s3 c

/-- A row that starts a stream's head or does the work of its running command: which commands are its own, what it checks before
it starts one, and the work. -/
structure EngineRow where
  eng : Nat
  mine : Cmd → Bool
  check : State → Cmd → Option (Code × W64)
  work : State → Cmd → State

/-- A stream whose head has started: one of SCH takes its place in its object's order, and a SEARCH binds (14 R376, R387). -/
def started (s : State) (eng src : Nat) (c : Cmd) : State :=
  if eng = engSch then schBegins src (startCmd s eng src) c else startCmd s eng src

/-- A row of the attention engine. -/
def attRow (src op : Nat) (check : Cmd → Option (Code × W64)) (m : Nat → Cmd → Eng (Option (List W64))) : EngineRow :=
  ⟨engAtt, (·.op == op), fun _ c => check c, fun s c => runEng s engAtt src c (attStatus src) (m src c)⟩

/-- A row of the search-tree engine that does its work in one act. -/
def treeRow (src : Nat) (mine : Cmd → Bool) (check : State → Cmd → Option (Code × W64)) (m : Cmd → Eng (Option (List W64))) :
    EngineRow :=
  ⟨engTre, mine, check, fun s c => runEng s engTre src c (treStatus src) (m c)⟩

/-- A stream stopped at a command with its fault. -/
def Stopped (s : State) (eng src : Nat) (c : Cmd) : Prop :=
  (s.estream eng src).run = some c ∧ (s.estream eng src).stopped = true

/-! ### Exchanges and the supervisor -/

/-- A core's exchange stands in a phase, under the command c (17 R463-R465). -/
def Swaps (s : State) (core phase : Nat) (c : Cmd) : Prop :=
  (s.swap core).phase = phase ∧ phase ≠ 0 ∧ (phase < 4 ∨ (s.swap core).lost = false) ∧ (s.estream engCtx (s.swap core).src).run = some c

/-- Word i of the request at the head of the supervisor's ring (18 R486). -/
def request (s : State) (i : Nat) : W64 := (words64 (s.host.bytes (ringAt s) 64)).getD i 0

/-- The supervisor finds a request with a code. -/
def Asked (s : State) (code : Nat) : Prop :=
  2 ≤ s.svState ∧ s.reqhead ≠ s.reqtail ∧ bitsAt (request s 0) 56 8 = code

/-- A request whose word 0 is as R486 says, of a running package. -/
def Serves (s : State) (code : Nat) : Prop := Asked s code ∧ bitsAt (request s 0) 0 32 = 0 ∧ s.svState = 2

/-- The request is answered: its STATUS written, the head advanced (18 R486). -/
def replied (s t : State) (status : Nat) : Host.Outcome State Fault Refusal :=
  .next { t with host := t.host.write (ringAt s + 6) (BitVec.ofNat 8 status), reqhead := t.reqhead + 1 }

end Sys2Proof
end

