-- ==== Sys2Proof/Certificates/Slice0/Obligations.lean ====
section
/-! DEFINITION. The statements for the provers. Each docstring names the rules of the spec it rests on. -/

open Sys2Proof Sys2Proof.Machine

/-! ### Words and their decoding -/

/-- 03 R59-R67: for every instruction that has a word and may issue in a stream, with every operand at every value the word
admits, the word decodes to the instruction. -/
def Obligations.DecodeOfEncode : Prop :=
  ∀ (st : Stream) (i : Instr), i.issuesIn st = true → i.fieldsOk = true → i.scopeOk = true → decode st (encode i) = .ok i

/-- 03 R65, R67: a word that decodes is its instruction's own word, so every spare bit of it is zero; the instruction passes
the checks of R67 and its major may issue in the stream. -/
def Obligations.DecodedWordIsEncoded : Prop :=
  ∀ (st : Stream) (w : W32) (i : Instr), decode st w = .ok i →
    encode i = w ∧ i.fieldsOk = true ∧ i.scopeOk = true ∧ i.halvesOk st = true ∧ majorIn st (majorUse (majorOf w)) = true

/-- 03 R64, R67: a reserved major raises FLT_ILLEGAL, and one of the other stream FLT_WRONGSTREAM, whatever the rest of the
word holds. Words the spec writes out (03 R73, 06, 07, 08, 10, 15, 16, 17) decode to the instructions beside them. -/
def Obligations.WordsOfTheSpec : Prop :=
  (∀ (st : Stream) (w : W32),
     (majorUse (majorOf w) = .reserved → decode st w = .error ⟨1, fltIllegal⟩) ∧
     (majorUse (majorOf w) = .aOnly → decode .e w = .error ⟨2, fltWrongStream⟩) ∧
     (majorUse (majorOf w) = .eOnly → decode .a w = .error ⟨2, fltWrongStream⟩)) ∧
  (decode .e 0x083C4400 = .ok (.rep 15 1 1 0) ∧ decode .e 0xC0302813 = .ok (.fadd 1 64 80 19) ∧
   decode .e 0x36314002 = .ok (.cmpi 70 5 0 2) ∧ decode .e 0x50ABFFFD = .ok (.loopE 5 1 (-3)) ∧
   decode .e 0xBD800003 = .ok (.barrier 3) ∧ decode .e 0xBC820000 = .ok (.mfc 1 0) ∧
   decode .e 0xBCC1E250 = .ok (.mtc 30 0x250) ∧ decode .e 0xB0100000 = .ok (.movqRow 0 32) ∧
   decode .e 0xE6981030 = .ok (.sortk 0 96 32 48) ∧ decode .a 0x90218000 = .ok (.waitid 1 0 6) ∧
   decode .a 0x94439000 = .ok (.semw 4 7 2) ∧ decode .a 0x8CE86800 = .ok (.popr 7 8 3 4) ∧
   decode .a 0x7404E800 = .ok (.ldq 0 1 7 8) ∧ decode .a 0x7205C001 = .ok (.staRow 0 5 0 1) ∧
   decode .a 0x7C0C5880 = .ok (.atomnr 12 11 1 0 0 0) ∧ decode .a 0x78C4286B = .ok (.atom 6 4 5 0 1 10 3) ∧
   decode .a 0x6C24DC01 = .ok (.str 1 4 3 7 1))

/-! ### Steps -/

/-- 03 R59, R60, 06 R160: when it is a stream's turn and the word at its PC decodes to an instruction, the step is that
instruction's meaning in the state after the fetch, the turn's time passed. 05 R127, 07 R195: an E-stream word that reads a
register with a result on its way issues no earlier than the clock noted for it: `interlock` moves the E port's clock on, and
changes nothing else. -/
def Obligations.StepRunsDecodedInstruction : Prop :=
  ∀ (s : State) (rest : List Turn) (dt core slot : Nat) (st : Stream) (s' : State) (w : W32) (i : Instr),
    s.sched = ⟨dt, .issue core slot st⟩ :: rest →
    let s0 : State := { s with sched := rest, time := s.time + BitVec.ofNat 64 dt, cur := ⟨core, slot, st⟩ }
    mayIssue s0 = true → curWord s0 = .ok (s', w) → decode st w = .ok i →
    step s = exec i (interlock i s') ∧ (st = .a → interlock i s' = s') ∧
      (st = .e → interlock i s' = s'.setCurT { s'.curT with eclk := s'.curT.readyClock i })

/-- 03 R67, R71, 06 R180: a word that does not decode raises its fault at its group, and nothing else happens; a REP, and an IFP
whose predicate xor n is 1 or whose group is partly executed, raise the fault of the word they govern instead where that one fails
an earlier check; the words under an IFP whose predicate xor n is 0 are not looked at. The model's schedule (log 1): a step of an engine, of another agent or of the outside world is the meaning of its row. 18 R485: the
host's reads and writes of BAR0 and its reset act at their turns (what it resets is log 36's). -/
def Obligations.StepOtherTurns : Prop :=
  (∀ (s : State) (rest : List Turn) (dt core slot : Nat) (st : Stream) (s' : State) (w : W32) (f : WordFault),
      s.sched = ⟨dt, .issue core slot st⟩ :: rest →
      let s0 : State := { s with sched := rest, time := s.time + BitVec.ofNat 64 dt, cur := ⟨core, slot, st⟩ }
      mayIssue s0 = true → curWord s0 = .ok (s', w) → decode st w = .error f →
      let governs := majorOf w = 2 ∨ majorOf w = 1 ∧ (s'.curT.repActive st = true ∨ s'.curT.pred (fld w 19 7) ≠ (fld w 18 1 == 1))
      step s = .next (raise s' (wordFault s' w f) 0) ∧
      (¬governs → wordFault s' w f = f.code) ∧
      (governs → ∀ u w' f', nextWord { s' with cur := ⟨core, slot, st⟩ } = .ok (u, w') → majorOf w' ≠ 1 → majorOf w' ≠ 2 →
        decode st w' = .error f' → wordFault s' w f = if f'.order < f.order then f'.code else f.code)) ∧
  (∀ (s : State) (rest : List Turn) (dt : Nat) (i : Instr),
      s.sched = ⟨dt, .event i⟩ :: rest → acts i = true → i.WellFormed = true →
      step s = exec i { s with sched := rest, time := s.time + BitVec.ofNat 64 dt }) ∧
  (∀ (s : State) (rest : List Turn) (dt : Nat) (a : Act), s.sched = ⟨dt, a⟩ :: rest →
      let u : State := { s with sched := rest, time := s.time + BitVec.ofNat 64 dt }
      (∀ off, a = .barRead off → step s = .next (barRead u off)) ∧ (∀ r v, a = .barPoke r v → step s = .next (barPoke u r v)) ∧
      (a = .hostReset → step s = .next (hostReset u)))

/-- The machine never stops: from every state a step answers a next state, for 05 R122 and 06 R180 make every wait and every
fault of a word a next state, and a turn without an occasion leaves the state. -/
def Obligations.EveryStepAnswers : Prop := ∀ s : State, ∃ t, step s = .next t

/-- Memories at reset are in canonical form. -/
def Obligations.MemoriesOkAtReset : Prop := MemoriesOk State.reset

/-- Every step keeps every memory in canonical form. -/
def Obligations.StepKeepsMemories : Prop := ∀ s t : State, MemoriesOk s → step s = .next t → MemoriesOk t

/-- 02 R51, 03 R69, R73, 05 R150, 06 R172, R184-R186, 07 R191, 10 R286, 15 R414, R415: what reset leaves in the registers
whose reset value the spec states. -/
def Obligations.RegistersAtReset : Prop :=
  let s := State.reset
  (∀ core slot, let t := s.thread core slot
    t.fpmode = 0 ∧ t.repidx = 0 ∧ t.rotbase = 0 ∧ t.tfmt = 0x60 ∧ t.domset = 1 ∧ trapCause t = 0 ∧ t.tveca = 0 ∧ t.tvece = 0
      ∧ t.traprec = 0 ∧ t.epca = 0 ∧ t.epce = 0 ∧ t.tsavea = 0 ∧ t.tsavee = 0 ∧ t.tpredlo = 0 ∧ t.tpredhi = 0
      ∧ t.tstate = 0 ∧ t.mpsel = 0 ∧ t.invva = 0) ∧
  (∀ core c, c < 32 → ctrOf s core c = 0) ∧
  (∀ core, (s.core core).ways = 0 ∧ (s.core core).owner = 0) ∧
  (∀ die, (s.qmg die).frame = 0 ∧ qstatWord s die = 0x80000000) ∧
  (∀ p, (s.port p).thr = 2048) ∧ s.pkg = 0 ∧ s.indom = false ∧ s.hostMode = false ∧ s.hostFb = false

/-! ### Scalar words (05 R127-R138, 06 R167, R168) -/

/-- 05 R128: the results of the register ALU, in either stream; 05 R127: a reader of a product issues four clocks later at the
earliest (`slow`). 05 R128: the counts of CLZ, CTZ and POPC, and BSWAP's bytes
reversed. -/
def Obligations.RegisterAluResults : Prop :=
  (∀ (s : State) (d a b : BitVec 5), mayIssue s = true →
      let t := s.curT
      let st := s.cur.st
      let A := t.rd st a
      let B := t.rd st b
      let gives := fun (i : Instr) (v : W64) => exec i s = .next (s.setCurT (((t.wr st d v).tick st).advance st))
      let product := fun (i : Instr) (v : W64) =>
        exec i s = .next (s.setCurT ((((t.wr st d v).slow st d 4 true).tick st).advance st))
      gives (.add d a b) (A + B) ∧ gives (.sub d a b) (A - B) ∧ product (.mul d a b) (A * B) ∧
      product (.mulh d a b) (BitVec.ofInt 64 (A.toInt * B.toInt / 2 ^ 64)) ∧
      product (.mulhu d a b) (BitVec.ofNat 64 (A.toNat * B.toNat / 2 ^ 64)) ∧
      gives (.and d a b) (A &&& B) ∧ gives (.or d a b) (A ||| B) ∧ gives (.xor d a b) (A ^^^ B) ∧
      gives (.andn d a b) (A &&& ~~~B) ∧ gives (.orn d a b) (A ||| ~~~B) ∧
      gives (.shl d a b) (A <<< (B.toNat % 64)) ∧ gives (.shr d a b) (A >>> (B.toNat % 64)) ∧
      gives (.sar d a b) (A.sshiftRight (B.toNat % 64)) ∧
      gives (.min d a b) (if A.toInt ≤ B.toInt then A else B) ∧ gives (.max d a b) (if A.toInt ≤ B.toInt then B else A) ∧
      gives (.minu d a b) (if A.toNat ≤ B.toNat then A else B) ∧ gives (.maxu d a b) (if A.toNat ≤ B.toNat then B else A)) ∧
  (∀ (s : State) (d a : BitVec 5), mayIssue s = true →
      let t := s.curT
      let st := s.cur.st
      let A := t.rd st a
      let gives := fun (i : Instr) (v : W64) => exec i s = .next (s.setCurT (((t.wr st d v).tick st).advance st))
      (∃ n : Nat, n ≤ 64 ∧ (∀ k, 64 - n ≤ k → A.getLsbD k = false) ∧ (n < 64 → A.getLsbD (63 - n) = true) ∧
        gives (.clz d a) (BitVec.ofNat 64 n)) ∧
      (∃ n : Nat, n ≤ 64 ∧ (∀ k, k < n → A.getLsbD k = false) ∧ (n < 64 → A.getLsbD n = true) ∧
        gives (.ctz d a) (BitVec.ofNat 64 n)) ∧
      gives (.popc d a) (BitVec.ofNat 64 ((List.range 64).countP fun k => A.getLsbD k)) ∧
      (∃ v : W64, (∀ k, k < 8 → v.extractLsb' (8 * k) 8 = A.extractLsb' (8 * (7 - k)) 8) ∧ gives (.bswap d a) v))

/-- 05 R128, R129: DIV, DIVU, REM and REMU on every operand; division never faults. -/
def Obligations.DivisionNeverFaults : Prop :=
  ∀ (s : State) (d a b : BitVec 5), mayIssue s = true →
    let t := s.curT
    let st := s.cur.st
    let A := t.rd st a
    let B := t.rd st b
    let gives := fun (i : Instr) (v : W64) => exec i s = .next (s.setCurT (((t.wr st d v).tick st).advance st))
    let corner := A = BitVec.intMin 64 ∧ B = -1
    (B = 0 → gives (.div d a b) (-1) ∧ gives (.divu d a b) (BitVec.ofNat 64 (2 ^ 64 - 1)) ∧ gives (.rem d a b) A
      ∧ gives (.remu d a b) A) ∧
    (corner → gives (.div d a b) (BitVec.intMin 64) ∧ gives (.rem d a b) 0) ∧
    (B ≠ 0 → gives (.divu d a b) (BitVec.ofNat 64 (A.toNat / B.toNat)) ∧ gives (.remu d a b) (BitVec.ofNat 64 (A.toNat % B.toNat))) ∧
    (B ≠ 0 → ¬corner → gives (.div d a b) (BitVec.ofInt 64 (A.toInt.tdiv B.toInt))
      ∧ gives (.rem d a b) (BitVec.ofInt 64 (A.toInt.tmod B.toInt)))

/-- 05 R130: the immediate forms. -/
def Obligations.ImmediateResults : Prop :=
  ∀ (s : State) (d a : BitVec 5) (im : BitVec 16) (k : BitVec 6), mayIssue s = true →
    let t := s.curT
    let st := s.cur.st
    let A := t.rd st a
    let gives := fun (i : Instr) (v : W64) => exec i s = .next (s.setCurT (((t.wr st d v).tick st).advance st))
    gives (.addi d a im) (BitVec.ofInt 64 (A.toInt + im.toInt)) ∧ gives (.andi d a im) (A &&& BitVec.ofNat 64 im.toNat) ∧
    gives (.ori d a im) (A ||| BitVec.ofNat 64 im.toNat) ∧ gives (.xori d a im) (A ^^^ BitVec.ofNat 64 im.toNat) ∧
    gives (.shli d a k) (A <<< k.toNat) ∧ gives (.shri d a k) (A >>> k.toNat) ∧ gives (.sari d a k) (A.sshiftRight k.toNat)

/-- 05 R131: MOVHI and MOVK. -/
def Obligations.MoveImmediateResults : Prop :=
  ∀ (s : State) (d : BitVec 5) (im : BitVec 16) (l : BitVec 2), mayIssue s = true →
    let t := s.curT
    let st := s.cur.st
    let gives := fun (i : Instr) (v : W64) => exec i s = .next (s.setCurT (((t.wr st d v).tick st).advance st))
    (∃ v : W64, v.extractLsb' 0 16 = 0 ∧ v.extractLsb' 16 16 = im ∧ (∀ k, 32 ≤ k → k < 64 → v.getLsbD k = v.getLsbD 31) ∧
      gives (.movhi d im) v) ∧
    (∃ v : W64, (∀ k, k < 64 → v.getLsbD k =
        if 16 * l.toNat ≤ k ∧ k < 16 * l.toNat + 16 then im.getLsbD (k - 16 * l.toNat) else (t.rd st d).getLsbD k) ∧
      gives (.movk d l im) v)

/-- 05 R132-R134: compares, predicate logic and SELP, and the fields of their words that raise FLT_ILLEGAL. -/
def Obligations.PredicateResults : Prop :=
  (∀ (s : State) (d a b : BitVec 5) (p q r : BitVec 7) (im : BitVec 11), mayIssue s = true →
    let t := s.curT
    let st := s.cur.st
    let A := t.rd st a
    let B := t.rd st b
    let P := t.pred q
    let Q := t.pred r
    let sets := fun (i : Instr) (v : Bool) => exec i s = .next (s.setCurT (((t.setPred p v).tick st).advance st))
    sets (.cmp p a b 0) (decide (A = B)) ∧ sets (.cmp p a b 1) (decide (A ≠ B)) ∧
    sets (.cmp p a b 2) (decide (A.toInt < B.toInt)) ∧ sets (.cmp p a b 3) (decide (B.toInt ≤ A.toInt)) ∧
    sets (.cmp p a b 4) (decide (A.toNat < B.toNat)) ∧ sets (.cmp p a b 5) (decide (B.toNat ≤ A.toNat)) ∧
    sets (.cmpi p a 0 im) (decide (A.toInt = im.toInt)) ∧ sets (.cmpi p a 1 im) (decide (A.toInt ≠ im.toInt)) ∧
    sets (.cmpi p a 2 im) (decide (A.toInt < im.toInt)) ∧ sets (.cmpi p a 3 im) (decide (im.toInt ≤ A.toInt)) ∧
    sets (.cmpi p a 4 im) (decide (A.toNat < im.toNat)) ∧ sets (.cmpi p a 5 im) (decide (im.toNat ≤ A.toNat)) ∧
    sets (.pand p q r) (P && Q) ∧ sets (.por p q r) (P || Q) ∧ sets (.pxor p q r) (xor P Q) ∧ sets (.pandn p q r) (P && !Q) ∧
    sets (.porn p q r) (P || !Q) ∧ sets (.pnand p q r) (!(P && Q)) ∧ sets (.pnor p q r) (!(P || Q)) ∧
    sets (.pxnor p q r) (!(xor P Q)) ∧ sets (.pnot p q) (!P) ∧ sets (.pset p) true ∧ sets (.pclr p) false ∧
    exec (.selp d a b q) s = .next (s.setCurT (((t.wr st d (if P then A else B)).tick st).advance st))) ∧
  ∀ (st : Stream) (w : W32), let illegal := decode st w = .error ⟨3, fltIllegal⟩
    (majorOf w = 0x0C → 6 ≤ bitsAt (w.setWidth 64) 0 3 → illegal) ∧ (majorOf w = 0x0D → 6 ≤ bitsAt (w.setWidth 64) 11 3 → illegal) ∧
    (majorOf w = 0x0E → 11 ≤ bitsAt (w.setWidth 64) 0 5 → illegal) ∧ (majorOf w = 0x0F → bitsAt (w.setWidth 64) 0 4 ≠ 0 → illegal)

/-- 05 R135-R138, 06 R167, R168: where transfers of control go, the link they write, LOOP's count and rotation, NOP and
ROTCLR; LOOP's words that raise. `here` is the address of the word itself. 03 R59, 05 R136: a computed target that is no multiple of 4 raises
FLT_ALIGN at the jump, and the jump has no effect: the link keeps its value. -/
def Obligations.BranchResults : Prop :=
  (∀ (s : State) (p : BitVec 7) (n : BitVec 1) (d18 : BitVec 18) (d26 : BitVec 26) (a : BitVec 5) (r : BitVec 2),
      mayIssue s = true →
      let t := s.curT
      let st := s.cur.st
      let here := t.here st
      let far := fun (k : Int) => BitVec.ofInt 64 (here.toInt + 4 * k)
      let goes := fun (i : Instr) (t' : Thread) (pc : W64) => exec i s = .next (s.setCurT ((t'.tick st).goto st pc))
      let less := t.wr st a (t.rd st a - 1)
      let left := t.rd st a - 1
      goes (.br p n d18) t (if xor (t.pred p) (n == 1) = true then far d18.toInt else here + 4) ∧
      goes (.jmp d26) t (far d26.toInt) ∧ goes (.call d26) (t.wr st 31 (here + 4)) (far d26.toInt) ∧
      ((t.rd st a).toNat % 4 = 0 → goes (.jr a) t (t.rd st a) ∧ goes (.callr a) (t.wr st 31 (here + 4)) (t.rd st a)) ∧
      ((t.rd st 31).toNat % 4 = 0 → goes .ret t (t.rd st 31)) ∧
      (st = .a → goes (.loopA a d18) less (if left ≠ 0 then far d18.toInt else here + 4)) ∧
      (st = .e → goes (.loopE a r d18)
        { less with rotbase := setBits t.rotbase 0 2 ((bitsAt t.rotbase 0 2 + r.toNat) % 4) }
        (if left ≠ 0 then far d18.toInt else here + 4)) ∧
      goes .nop t (here + 4) ∧ goes .rotclr { t with rotbase := setBits t.rotbase 0 2 0 } (here + 4)) ∧
  (∀ (s : State) (a : BitVec 5), mayIssue s = true →
      let pc := s.curT.rd s.cur.st
      ((pc a).toNat % 4 ≠ 0 → exec (.jr a) s = .next (raise s fltAlign (pc a)) ∧ exec (.callr a) s = .next (raise s fltAlign (pc a))) ∧
      ((pc 31).toNat % 4 ≠ 0 → exec .ret s = .next (raise s fltAlign (pc 31)))) ∧
  ∀ (st : Stream) (w : W32), majorOf w = 0x14 →
    (bitsAt (w.setWidth 64) 18 1 ≠ 0 → decode st w = .error ⟨3, fltIllegal⟩) ∧
    (bitsAt (w.setWidth 64) 18 1 = 0 → bitsAt (w.setWidth 64) 19 2 ≠ 0 → decode .a w = .error ⟨4, fltWrongStream⟩)

/-- 05 R127: a scalar word with a register result writes that register and moves its stream on; every other register,
predicate, control register and queue, every other thread, every unit and every byte of memory stay. 05 R127, R132, R133: a
compare or a predicate word writes its predicate alone. -/
def Obligations.ScalarWordFrames : Prop :=
  (∀ (s t : State) (d a b : BitVec 5) (p : BitVec 7) (im : BitVec 16) (k : BitVec 6) (l : BitVec 2) (i : Instr),
      i ∈ [.add d a b, .sub d a b, .mul d a b, .mulh d a b, .mulhu d a b, .div d a b, .divu d a b, .rem d a b, .remu d a b,
        .and d a b, .or d a b, .xor d a b, .andn d a b, .orn d a b, .shl d a b, .shr d a b, .sar d a b, .min d a b, .max d a b,
        .minu d a b, .maxu d a b, .clz d a, .ctz d a, .popc d a, .bswap d a, .addi d a im, .andi d a im, .ori d a im,
        .xori d a im, .shli d a k, .shri d a k, .sari d a k, .movhi d im, .movk d l im, .selp d a b p] →
      exec i s = .next t →
      OnlyCurrent s t ∧ SameBytes s t ∧ OnlyScalars s.cur.st s.curT t.curT ∧
        ∀ r, r ≠ d → t.curT.rd s.cur.st r = s.curT.rd s.cur.st r) ∧
  (∀ (s t : State) (a b : BitVec 5) (p q r : BitVec 7) (c : BitVec 3) (im : BitVec 11) (i : Instr),
      i ∈ [.cmp p a b c, .cmpi p a c im, .pand p q r, .por p q r, .pxor p q r, .pandn p q r, .porn p q r, .pnand p q r, .pnor p q r,
        .pxnor p q r, .pnot p q, .pset p, .pclr p] →
      exec i s = .next t →
      OnlyCurrent s t ∧ SameBytes s t ∧ OnlyPredicates s.cur.st s.curT t.curT ∧
        ∀ x, x ≠ p → t.curT.pred x = s.curT.pred x)

/-! ### IFP and REP (03 R71-R73) -/

/-- 03 R71: a true IFP lets the next word issue in its group; a false one skips it, and both words when it is a REP; a second
IFP faults. 03 R72: REP governs the word after it when that word can be stepped as it asks. -/
def Obligations.PrefixResults : Prop :=
  ∀ (s s' : State) (st : Stream) (w : W32) (p : BitVec 7) (n : BitVec 1), Issues s st → nextWord s = .ok (s', w) →
    let t := s.curT
    let g : Grp := { t.grp st with off := (t.grp st).off + 4 }
    (majorOf w = 1 → exec (.ifp p n) s = .next (raise s fltIllegal 0)) ∧
    (majorOf w ≠ 1 → t.repActive st = true ∨ xor (t.pred p) (n == 1) = true →
      exec (.ifp p n) s = .next (s'.setCurT (match st with
        | .a => { t with agrp := g }
        | .e => { t with egrp := g, eclk := t.eclk + 1 }))) ∧
    (majorOf w ≠ 1 → t.repActive st = false → xor (t.pred p) (n == 1) = false →
      exec (.ifp p n) s = .next (s'.setCurT ((t.tick st).goto st (t.here st + (if majorOf w = 2 then 12 else 8))))) ∧
    (∀ (i : Instr) (hd ha hb : Bool) (c : BitVec 8) (d a b : BitVec 4), st = .e → decode .e w = .ok i →
      repSteps i = some (hd, ha, hb) → (hd = true ∨ d = 0) → (ha = true ∨ a = 0) → (hb = true ∨ b = 0) →
      t.repIndex ≤ c.toNat →
      exec (.rep c d a b) s = .next (s'.setCurT { t with
        egrp := { off := t.egrp.off + 4, rep := some ⟨c.toNat, d.toInt, a.toInt, b.toInt⟩ } }))

/-! ### Loads and stores (05 R125, R126, R139-R143) -/

/-- 05 R140: LD and LDA: a scratchpad's bytes, little-endian, zero-extended, when the queue holds nothing they overlap. 04 R113: a
load of any space once it has been checked: the bytes of a queued store that covers it, or those of memory; 04 R106: it waits for
an earlier store of its 8-byte word that has its data and does not forward (the model's reading, log 20); from outside the
package a request leaves, and its answer completes the load or raises the fault that the target found (R99). -/
def Obligations.LoadResults : Prop :=
  (∀ (s : State) (d b : BitVec 5) (z : BitVec 2) (sx : BitVec 4) (o : BitVec 14) (o' : BitVec 10),
     let t := s.curT
     let n := (Machine.sizeOf z).bytes
     let core := s.cur.core
     let loads := fun (i : Instr) (ea : W64) => OwnSpad s core ea n .read → Unhindered s ea n →
       locPoisoned s (.spad (ownKey core ea)) n = false →
       exec i s = .next (nextA (s.setCurT (t.wr .a d (BitVec.ofNat 64 (s.spad.readLE (ownKey core ea) n)))))
     (Issues s .a → loads (.ld d b z o) (t.rd .a b + o.signExtend 64 * BitVec.ofNat 64 n)) ∧
     (IssuesStrong s → loads (.lda d b z sx o') (t.rd .a b + o'.signExtend 64 * BitVec.ofNat 64 n))) ∧
  (∀ (s s' : State) (d b : BitVec 5) (z : BitVec 2) (o : BitVec 14) (ls : List (Loc × Nat)), Issues s .a →
     let t := s.curT
     let n := (Machine.sizeOf z).bytes
     let ea := effAddr t b o n
     let gives := fun (s2 : State) (v : Nat) =>
       exec (.ld d b z o) s = .next (nextA (s2.setCurT (s2.curT.wr .a d (BitVec.ofNat 64 v))))
     let behind := wordBehind s' s'.cur.core t.ctx t.saq true ls
     fencedAll t.saq = false → resolve s (curWho s) ea n .read = .ok (s', ls) →
     (∀ v, forward t.saq ea.toNat n = .bytes v → gives s' v) ∧
     (forward t.saq ea.toNat n = .wait ∨ forward t.saq ea.toNat n = .memory ∧ behind = true → exec (.ld d b z o) s = .next s) ∧
     (∀ s2 bs, forward t.saq ea.toNat n = .memory → behind = false → outside ls = none → readAll s' 0 ls = .ok (s2, bs) →
       gives s2 (leValue bs)) ∧
     (∀ k a, forward t.saq ea.toNat n = .memory → behind = false → outside ls = some (k, a) →
       (s'.curT.out = none →
         exec (.ld d b z o) s = .next (s'.setCurT { s'.curT with out := some { kind := k, addr := a, ea := ea, size := n } })) ∧
       (∀ r v, s'.curT.out = some r → r.reply = some (0, v) → gives (s'.setCurT { s'.curT with out := none }) v) ∧
       (∀ r c v, s'.curT.out = some r → r.reply = some (c, v) → c ≠ 0 →
         exec (.ld d b z o) s = .next (raise s c (if c = fltUncorr then 0 else ea)))))

/-- 05 R141, R142: ST, STR, STA and STA.row join the store-address queue and write no memory; an STA takes the head of sq, or
waits for its entry to come. 04 R99, R100: a strong store is checked at issue, and performed later at the places it was checked
for; one to another package first asks that package, whose fault is precise (the model's carriage of that check is log 45). -/
def Obligations.StoresQueue : Prop :=
  ∀ (s : State) (d b : BitVec 5) (z : BitVec 2) (sx : BitVec 4) (o : BitVec 14) (o' : BitVec 10),
    let t := s.curT
    let sz := Machine.sizeOf z
    let n := sz.bytes
    let joins := fun (i : Instr) (s' : State) (e : StoreEnt) =>
      exec i s = .next (nextA (enqueueOp s' (.store e))) ∧
        (s'.curT.handUncorr = none → SameBytes s' (nextA (enqueueOp s' (.store e))))
    let room := fun (s : State) => storeCount s.curT.saq < storeDepth s.curT
    let queued := fun (i : Instr) (s' : State) (ea : W64) (sz : Size) (rel : Option Nat) (locs : Option (List (Loc × Nat))) =>
      let e : StoreEnt := { ea := ea, size := sz, data := none, fromSq := true, rel := rel, pc := s'.curT.apc, locs := locs }
      (s'.curT.queues.sq = [] ∨ awaitingSq s'.curT.saq = true → joins i s' e) ∧
      (∀ x rest, s'.curT.queues.sq = x :: rest → awaitingSq s'.curT.saq = false →
        joins i (s'.setCurT { s'.curT with queues := { s'.curT.queues with sq := rest } })
          { e with data := some (x.val.toNat % 256 ^ sz.bytes), bad := x.isRow != (sz == .row) })
    let strongly := fun (i : Instr) (ea : W64) (sz : Size) (joined : State → List (Loc × Nat) → Prop) =>
      ∀ s' ls, IssuesStrong s → resolve s (curWho s) ea sz.bytes .write = .ok (s', ls) → room s' →
        (isRemote ls = none → joined s' ls) ∧
        (∀ k, isRemote ls = some k →
          (s'.curT.out = none → exec i s = .next (s'.setCurT { s'.curT with
            out := some { kind := 5, addr := k, ea := ea, size := sz.bytes } })) ∧
          (∀ r x, s'.curT.out = some r → r.reply = some (0, x) → joined (s'.setCurT { s'.curT with out := none }) ls) ∧
          (∀ r c x, s'.curT.out = some r → r.reply = some (c, x) → c ≠ 0 → exec i s = .next (raise s c ea)))
    let releasing := fun (i : Instr) (ea : W64) (sz : Size) =>
      strongly i ea sz fun s' ls => queued i s' ea sz (some sx.toNat) (some ls)
    (Issues s .a → room s → (effAddr t b o n).toNat % n = 0 →
      joins (.st d b z o) s { ea := effAddr t b o n, size := sz, data := some ((t.rd .a d).toNat % 256 ^ n), pc := t.apc }) ∧
    strongly (.str d b z sx o') (effAddr t b o' n) sz (fun s' ls => joins (.str d b z sx o') s'
      { ea := effAddr t b o' n, size := sz, data := some ((t.rd .a d).toNat % 256 ^ n), rel := some sx.toNat, pc := t.apc, locs := some ls }) ∧
    (Issues s .a → room s → (effAddr t b o' n).toNat % n = 0 → queued (.sta 0 b z sx o') s (effAddr t b o' n) sz none none) ∧
    (Issues s .a → room s → (effAddr t b o' 256).toNat % 64 = 0 → queued (.staRow 0 b sx o') s (effAddr t b o' 256) .row none none) ∧
    releasing (.sta 1 b z sx o') (effAddr t b o' n) sz ∧ releasing (.staRow 1 b sx o') (effAddr t b o' 256) .row

/-- 04 R92, 05 R139-R144: a misaligned access raises FLT_ALIGN at its address, precisely, and does nothing. -/
def Obligations.MisalignedAccessFaults : Prop :=
  ∀ (s : State) (d b v c x : BitVec 5) (z : BitVec 2) (y : BitVec 1) (sx op : BitVec 4) (o : BitVec 14) (o' : BitVec 10) (r : BitVec 2)
    (q : BitVec 3),
    let t := s.curT
    let n := (Machine.sizeOf z).bytes
    let faults := fun (i : Instr) (ea : W64) (n : Nat) => ea.toNat % n ≠ 0 → exec i s = .next (raise s fltAlign ea)
    (Issues s .a → fencedAll t.saq = false → faults (.ld d b z o) (effAddr t b o n) n) ∧
    (Issues s .a → faults (.st d b z o) (effAddr t b o n) n ∧ faults (.sta 0 b z sx o') (effAddr t b o' n) n
      ∧ faults (.staRow 0 b sx o') (effAddr t b o' 256) 64) ∧
    (IssuesStrong s → fencedAll t.saq = false → faults (.lda d b z sx o') (effAddr t b o' n) n) ∧
    (IssuesStrong s → faults (.str d b z sx o') (effAddr t b o' n) n ∧ faults (.atom d b v op y sx r) (t.rd .a b) (atomSize y)
      ∧ faults (.atomnr b v op y sx r) (t.rd .a b) (atomSize y) ∧ faults (.cas d b v z sx r) (t.rd .a b) n) ∧
    (Issues s .a → fencedAll t.saq = false → t.ldqRow = 0 → t.ldqAt = [] → faults (.ldq q c b x) (t.rd .a b) 64)

/-- 05 R125, 04 R106: a store performed writes its bytes, little-endian, at its address and nowhere else; it leaves the queue;
one waits behind an earlier store of its 8-byte word. 04 R101: one that faults stays, its fault held, once no earlier store of the
queue holds a fault; one of a task that CANCEL has ended is dropped (log 40). Nothing is performed once the shutter trap has
stopped issue (R118). 05 R143: LDQ: every row checked, then read from base + i × stride and appended in order while there is room. -/
def Obligations.StoresAndQueueLoadsPerform : Prop :=
  (∀ (s s' : State) (core slot idx v : Nat) (e : StoreEnt) (ls : List (Loc × Nat)),
     let t := s.thread core slot
     let runs := exec (.storePerform core slot idx) s
     t.saq[idx]? = some (.store e) → e.data = some v → storeReady t idx = true → s.shut.phase = 0 → t.heldUncorr = none →
     t.handUncorr = none → faultHeld t e.ea = false → (∀ sc, e.rel = some sc → releaseHeld s core slot sc = false) →
     let behind := wordBehind s' core (s'.thread core slot).ctx ((s'.thread core slot).saq.take idx) false ls
     (e.now s core t.ctx = .ok (s', ls) → behind = true → runs = .next s') ∧
     (e.now s core t.ctx = .ok (s', ls) → behind = false → isRemote ls = none →
       let s2 := noteWrites (writeAll s' ls (leBytes v e.size.bytes)) ls
       runs = .next (settle (s2.setThread core slot (dropOp (s2.thread core slot) idx)) core slot)) ∧
     (∀ c a o, e.now s core t.ctx = .error (.flt c a o) →
       let s2 := o.getD s
       let t2 := s2.thread core slot
       (t.cancelled = false → guardOf s core t 0 (t.saq.take idx) ≠ .clear → runs = .next s) ∧
       (guardOf s core t 0 (t.saq.take idx) = .clear → t2.cancelled = false →
         runs = .next (holdWeak s2 core slot c e.ea (coverPc (t2.saq.drop idx)))) ∧
       (guardOf s core t 0 (t.saq.take idx) = .clear → t2.cancelled = true →
         runs = .next (settle (s2.setThread core slot (dropOp t2 idx)) core slot))) ∧
     (e.size ≠ .row → OwnSpad s core e.ea e.size.bytes .write →
       e.locs = none ∨ e.locs = some [(.spad (ownKey core e.ea), e.size.bytes)] →
       wordBehind s core t.ctx (t.saq.take idx) false [(.spad (ownKey core e.ea), e.size.bytes)] = false →
       ∃ u, runs = .next u ∧ u.dev = s.dev ∧ u.host = s.host ∧ u.remote = s.remote ∧
         ∀ a, u.spad.read a = if ownKey core e.ea ≤ a ∧ a < ownKey core e.ea + e.size.bytes
           then BitVec.ofNat 8 (v / 256 ^ (a - ownKey core e.ea)) else s.spad.read a)) ∧
  (∀ (s s1 s2 : State) (ps : List (W64 × List (Loc × Nat))) (q : BitVec 3) (c b sx : BitVec 5), Issues s .a →
     let t := s.curT
     let rows := c.toNat + 1
     fencedAll t.saq = false →
     (t.ldqAt = [] ∧ ldqCheck s b sx t.ldqRow (rows - t.ldqRow) = .ok (s1, ps) ∨ t.ldqAt ≠ [] ∧ s1 = s ∧ ps = t.ldqAt) →
     (ldqRows q b sx (rows - t.ldqRow) (s1.setCurT { s1.curT with ldqAt := ps }) = .ok s2 →
       (rows ≤ s2.curT.ldqRow → exec (.ldq q c b sx) s = .next (nextA (s2.setCurT { s2.curT with ldqRow := 0, ldqAt := [] }))) ∧
       (s2.curT.ldqRow < rows → exec (.ldq q c b sx) s = .next s2)) ∧
     (∀ ls bs u1 u2 u3, c = 0 → t.ldqRow = 0 → t.ldqAt = [] → t.queues.q[q.toNat].length < rowDepth t →
       resolveNow s (curWho s) (t.rd .a b) 256 .read = .ok (u1, ls) → u1.curT = t → soundAll u1 ls = .ok u2 →
       u2.curT = t → u2.cur = s.cur → forward t.saq (t.rd .a b).toNat 256 = .memory →
       let u := u2.setCurT { t with ldqAt := [(t.rd .a b, ls)] }
       wordBehind u s.cur.core t.ctx t.saq true ls = false → placesWait u s.cur.core t.ctx ls = false →
       readAll u 0 ls = .ok (u3, bs) → u3.curT = u.curT → u3.cur = s.cur →
       ∃ w r, exec (.ldq q c b sx) s = .next w ∧ w.curT.queues.q[q.toNat] = t.queues.q[q.toNat] ++ [r] ∧
         r.row.data = BitVec.ofNat 2048 (leValue bs) ∧ r.bad = false))

/-! ### Atomics and fences (05 R144-R147) -/

/-- 05 R144, R146: the new value of every atomic operation on words of w bits (10 stands for CAS). ATOM, ATOMNR and CAS on a
scratchpad word: the old value to the register, the new one to memory; on device memory ATOM is applied after every request
waiting at the word's port, and ATOMNR joins their order; 15 R401, R404: over a poisoned line, a word its entry does not hold
raises FLT_UNCORR with the entry its atomic takes standing, and ATOMNR's is held. 05 R147: FENCE joins the queue as its kind orders (.acq orders
nothing more in the model's order, log 12); FENCE.atomics waits until every ATOMNR of the thread has been applied. -/
def Obligations.AtomicsAndFencesResults : Prop :=
  (∀ (w : Nat) (x y z : BitVec w), 0 < w →
     let new := fun (op : Nat) => BitVec.ofNat w (atomicResult op w x.toNat y.toNat z.toNat)
     new 0 = x + y ∧ new 2 = (if x.toInt ≤ y.toInt then x else y) ∧ new 3 = (if x.toInt ≤ y.toInt then y else x) ∧
     new 4 = (if x.toNat ≤ y.toNat then x else y) ∧ new 5 = (if x.toNat ≤ y.toNat then y else x) ∧
     new 6 = x &&& y ∧ new 7 = x ||| y ∧ new 8 = x ^^^ y ∧ new 9 = y ∧ new 10 = (if x = y then z else x) ∧
     (∀ a b : BitVec 32, atomicResult 1 32 a.toNat b.toNat 0 = (fadd32 a b).toNat)) ∧
  ((∀ (s : State) (d b v : BitVec 5) (op : BitVec 4) (y : BitVec 1) (z : BitVec 2) (sx : BitVec 4) (r : BitVec 2), IssuesStrong s →
       let t := s.curT
       let core := s.cur.core
       let ea := t.rd .a b
       let key := ownKey core ea
       let calm := fun (s : State) (l : Loc) (n : Nat) =>
         wordBehind s s.cur.core s.curT.ctx s.curT.saq false [(l, n)] = false ∧ s.curT.saq.any (SaOp.touches (ea.toNat / 8 * 8) 8) = false ∧ fencedStores s.curT.saq = false ∧
           ((r = 2 ∨ r = 3) → s.curT.saq = [] ∧ s.curT.atomsOut = 0 ∧ releaseHeld s s.cur.core s.cur.slot sx.toNat = false)
       let own := fun (n : Nat) => OwnSpad s core ea n .write ∧ locPoisoned s (.spad key) n = false
       let n := atomSize y
       let arg := fun (r : BitVec 5) (n : Nat) => (t.rd .a r).toNat % 256 ^ n
       let at_ := fun (n new : Nat) => { s with spad := s.spad.writeLE key n new }
       (own n → calm s (.spad key) n →
         let old := s.spad.readLE key n
         let s1 := at_ n (atomicResult op.toNat (8 * n) old (arg v n) 0)
         exec (.atom d b v op y sx r) s = .next (nextA (s1.setCurT (t.wr .a d (BitVec.ofNat 64 old)))) ∧
         exec (.atomnr b v op y sx r) s = .next (nextA s1)) ∧
       (own (Machine.sizeOf z).bytes → calm s (.spad key) (Machine.sizeOf z).bytes →
         let n := (Machine.sizeOf z).bytes
         let old := s.spad.readLE key n
         let s1 := at_ n (if old = arg v n then arg (v + 1) n else old)
         exec (.cas d b v z sx r) s = .next (nextA (s1.setCurT (t.wr .a d (BitVec.ofNat 64 old))))) ∧
       (∀ s' pa ca p off, resolve s (curWho s) ea n .write = .ok (s', [(.dev pa ca, n)]) → s'.curT = t → s'.cur = s.cur →
         calm s' (.dev pa ca) n →
         let s1 := settleLine s' (lineOf pa)
         let s2 := applyReq s1 (.atomic pa n op.toNat (arg v n) 0 none)
         (atomicBad s1 pa n = true → exec (.atom d b v op y sx r) s = .next (raise s fltUncorr ea (some s2))) ∧
         (atomicBad s1 pa n = false →
           let s3 := noteWrites s2 [(.dev pa ca, n)]
           exec (.atom d b v op y sx r) s = .next (nextA (s3.setCurT (s3.curT.wr .a d (BitVec.ofNat 64 (s1.dev.readLE pa n)))))) ∧
         (portOf s' pa = some (p, off) → (s'.port p).retired = true →
           exec (.atomnr b v op y sx r) s = .next (nextA (holdUncorr s' ea))) ∧
         (portOf s' pa = some (p, off) → (s'.port p).retired = false →
           let src : AtomSrc := ⟨s.cur.core, s.cur.slot, ea, if t.inh then some t.traps else none⟩
           let s2 := s'.setPort p { s'.port p with arr := (s'.port p).arr ++ [.atomic pa n op.toNat (arg v n) 0 (some src)] }
           exec (.atomnr b v op y sx r) s =
             .next (nextA (noteWrites (s2.setCurT { s2.curT with atomsOut := s2.curT.atomsOut + 1 }) [(.dev pa ca, n)]))))) ∧
   (∀ (s : State) (k sx : BitVec 4), IssuesStrong s →
       (k = 1 → exec (.fence k sx) s = .next (nextA s)) ∧
       (k ≠ 1 → exec (.fence k sx) s = .next (nextA (enqueueOp s (.fence (k == 0) sx.toNat s.curT.apc)))) ∧
       (s.curT.atomsOut = 0 → exec .fenceAtomics s = .next (nextA s)) ∧
       (s.curT.atomsOut ≠ 0 → exec .fenceAtomics s = .next s)))

/-! ### Commands, elements, counters and messages (05 R148-R156) -/

/-- 05 R148, R149, 01 R24: PUSH reads its words at issue and joins the queue; with nothing before it the command stands at
once in its engine's queue with its index. POPR takes the oldest element of its own thread, and RESULT_ELEMENT_PLACE places
an element that waited for room. 05 R149, 03 R76: POPR's registers: word i of the element in a[f + i], 0 past its words; the
others keep their values. -/
def Obligations.CommandsAndElements : Prop :=
  (∀ (s : State) (e f : BitVec 5) (n : BitVec 3) (sx : BitVec 4),
      let t := s.curT
      let core := s.cur.core
      let eng := e.toNat
      let cmd : Cmd := ⟨(List.range (n.toNat + 1)).map (fun i => t.rd .a (f + BitVec.ofNat 5 i)), core, s.cur.slot, t.disp, t.inh,
        t.traps, t.ctx, sx.toNat, none, 0⟩
      (IssuesStrong s → placesUsed s core eng < pushPlaces eng →
        exec (.push e f n sx) s = .next (nextA (enqueueOp { s with opSeq := s.opSeq + 1 } (.push eng cmd s.opSeq t.apc))) ∧
        (eng ≠ engSmp → t.saq = [] → t.atomsOut = 0 → sx ≠ 6 → sx ≠ 7 → pushBehind s core s.cur.slot eng s.opSeq = false →
          ∃ u, exec (.push e f n sx) s = .next u ∧ (u.estream eng core).queue
            = (s.estream eng core).queue ++ [{ cmd with index := (s.estream eng core).taken.toNat }])) ∧
      (∀ u : State, eng ≠ engSmp →
        ((deliver u eng cmd).estream eng core).queue
          = (u.estream eng core).queue ++ [{ cmd with index := (u.estream eng core).taken.toNat }]) ∧
      (∀ k el, Issues s .a → (s.result core eng).findIdx? (popsElem s.cur.slot t) = some k → (s.result core eng)[k]? = some el →
        exec (.popr e f n sx) s = .next (nextA ((s.setResult core eng (removeAt (s.result core eng) k)).setCurT
          (popRegs f el.words (n.toNat + 1) t)))) ∧
      (∀ eng' src, eng' ≠ 1 → eng' ≠ 2 → (s.estream eng' src).held.isSome = true →
        exec (.resultElementPlace eng' src) s = .next (completeCmd s eng' src))) ∧
  (∀ (t : Thread) (f r : BitVec 5) (ws : List W64) (n : Nat), n ≤ 8 →
      (popRegs f ws n t).rd .a r = if (r - f).toNat < n then ws.getD (r - f).toNat 0 else t.rd .a r)

/-- 05 R150-R152: counters: SEMP adds, SEMW and WAITID pass once sext(count − value, 32) ≥ 0 and wait until then. -/
def Obligations.CountersCompare : Prop :=
  ∀ (s : State) (c a e : BitVec 5) (h : BitVec 2) (sx : BitVec 4),
    let t := s.curT
    let core := s.cur.core
    let v : BitVec 32 := (t.rd .a a).setWidth 32
    let ready := fun (count : BitVec 32) => 0 ≤ (count - v).toInt
    (Issues s .a → (s.core core).gate = false →
      (ready (ctrOf s core c.toNat) → exec (.semw c a sx) s = .next (nextA s)) ∧
      (¬ready (ctrOf s core c.toNat) → exec (.semw c a sx) s = .next s) ∧
      (e = 1 ∨ e = 2 → ready (s.chan core e.toNat h.toNat).done → exec (.waitid e h a) s = .next (nextA s)) ∧
      (e = 1 ∨ e = 2 → ¬ready (s.chan core e.toNat h.toNat).done → exec (.waitid e h a) s = .next s)) ∧
    (IssuesStrong s → exec (.semp c a sx) s = .next (nextA (enqueueOp s (.post c.toNat v sx.toNat t.apc)))) ∧
    ∀ (u : State) (k : Nat), k < 32 → ctrOf (postCtr u core c.toNat v) core k =
      if k = c.toNat then ctrOf u core k + v else ctrOf u core k

/-- 05 R153-R155: SEND puts its 64 bytes in flight, MAILBOX_DELIVER brings a message behind the earlier ones of its sender,
and RECV writes the oldest one to scratchpad with its sender's number. 05 R154: SEND's faults on its destination name the
core, those on its buffer the address, and nothing is sent. -/
def Obligations.MessagesMove : Prop :=
  (∀ (s : State) (d b : BitVec 5),
      let t := s.curT
      let core := s.cur.core
      let src := t.rd .a b
      let dst := (t.rd .a d).toNat
      (IssuesStrong s → dst ≤ 255 → s.masks.cores.getLsbD dst = false → ((s.core dst).owner = 0 ∨ (s.core dst).owner = t.ctx) →
        mailBuffer s src .read = none → fencedAll t.saq = false → t.saq.any (SaOp.touches src.toNat 64) = false → mailCount s dst < 8 →
        locPoisoned s (.spad (ownKey core src)) 64 = false →
        exec (.send d b) s = .next (nextA (enqueueOp { s with opSeq := s.opSeq + 1 }
          (.mail dst (BitVec.ofNat 2048 (s.spad.readLE (ownKey core src) 64)) s.opSeq t.apc)))) ∧
      (∀ m rest, Issues s .a → (s.core core).gate = false → mailBuffer s src .write = none →
        (s.core core).mailbox = m :: rest → fencedAll t.saq = false → t.saq.any (SaOp.touches src.toNat 64) = false →
        let s1 := writeLoc (s.setCore core { s.core core with mailbox := rest }) (leBytes m.msg.toNat 64) (.spad (ownKey core src))
        exec (.recv d b) s = .next (nextA (s1.setCurT (s1.curT.wr .a d (BitVec.ofNat 64 m.src))))) ∧
      (∀ idx m, s.mails[idx]? = some m → (s.mails.take idx).any (fun x => x.src == m.src && x.dst == m.dst) = false →
        (s.core m.dst).mailbox.length < 8 →
        exec (.mailboxDeliver idx) s = .next (State.setCore { s with mails := removeAt s.mails idx } m.dst
          { s.core m.dst with mailbox := (s.core m.dst).mailbox ++ [m] }))) ∧
  (∀ (s : State) (d b : BitVec 5), IssuesStrong s →
      let t := s.curT
      let dst := t.rd .a d
      let src := t.rd .a b
      (255 < dst.toNat ∨ s.masks.cores.getLsbD dst.toNat = true → exec (.send d b) s = .next (raise s fltAccess dst)) ∧
      (dst.toNat ≤ 255 → s.masks.cores.getLsbD dst.toNat = false → (s.core dst.toNat).owner = 0 →
        (src.toNat % 64 ≠ 0 → exec (.send d b) s = .next (raise s fltAlign src)) ∧
        (src.toNat % 64 = 0 → 0x400000 ≤ src.toNat → exec (.send d b) s = .next (raise s fltAccess src))))

/-! ### Words of the E-stream: queues, time, barriers, the end of a thread (06 R163-R178) -/

/-- 05 R138, 06 R163-R166: what the queue words take and give; a reader of MOVQ's register issues two clocks later at the
earliest. 05 R156: RESIZE once the engines are quiet moves the carve's
boundary; the bytes that come back to scratchpad are free, their lines no longer poisoned. -/
def Obligations.QueuesAndCarve : Prop :=
  (∀ (s : State) (p : BitVec 7) (d a : BitVec 5) (q : BitVec 3) (d18 : BitVec 18) (w : BitVec 7),
     let t := s.curT
     let Q := t.queues
     (Issues s .a → (Q.bq.length < if t.inh then 4 else 32) →
       exec (.bqpush p) s = .next (nextA (s.setCurT { t with queues := { Q with bq := Q.bq ++ [t.pred p] } }))) ∧
     (∀ v rest, Issues s .a → Q.fq = v :: rest →
       exec (.fqpop d) s = .next (nextA (s.setCurT ({ t with queues := { Q with fq := rest } }.wr .a d v)))) ∧
     (Issues s .a → Q.fq = [] → exec (.fqpop d) s = .next s) ∧
     (∀ v rest, Issues s .e → Q.bq = v :: rest →
       let t' := { t with queues := { Q with bq := rest } }.tick .e
       let far := t.here .e + (d18.signExtend 64 <<< 2)
       exec (.brq d18) s = .next (s.setCurT (if v = true then t'.goto .e far else t'.advance .e)) ∧
       exec (.brqn d18) s = .next (s.setCurT (if v = true then t'.advance .e else t'.goto .e far))) ∧
     (Issues s .e → (Q.fq.length < if t.inh then 4 else 8) →
       exec (.fqp a) s = .next (nextE (s.setCurT { t with queues := { Q with fq := Q.fq ++ [t.rd .e a] } }))) ∧
     (Issues s .e → Q.sq.length < sqDepth t →
       let u := atIssue t []
       exec (.putsScalar a) s = .next (nextE (s.setCurT (placeSq u ⟨false, (u.rd .e a).zeroExtend 2048⟩))) ∧
       exec (.putsRow w) s = .next (nextE (s.setCurT (placeSq u ⟨true, u.data w⟩)))) ∧
     (∀ r rest, Issues s .e → Q.q[q.toNat] = r :: rest → r.bad = false →
       let s1 := s.setCurT (dropQ t q)
       exec (.movqScalar q d) s = .next (nextE (s.setCurT (((dropQ t q).wr .e d (r.row.data.extractLsb' 0 64)).slow .e d 2 true))) ∧
       (∀ w' x y, rowFields t w 0 0 = some (w', x, y) →
         exec (.movqRow q w) s = oneRow s1 0 4 (atIssue s1.curT []) w' (r.row.data, 0) (some r.row.sb)))) ∧
  (∀ (s s' : State) (w : BitVec 3), IssuesStrong s → w.toNat ≤ 4 → readGrant s s.curT.ctx 4 = .ok (s', true) → gated s' = false →
     let t := s.curT
     let core := s.cur.core
     let k := (s.core core).ways
     (w.toNat = k → exec (.resize w) s = .next (nextA (enqueueOp s' (.fence true 0 t.apc)))) ∧
     (t.saq = [] → t.atomsOut = 0 → enginesQuiet s' core = true →
       (k < w.toNat → exec (.resize w) s = .next (nextA (s'.setCore core { s'.core core with ways := w.toNat }))) ∧
       (w.toNat < k →
         let base := spadSize * core + carveBase k
         let n := carveBase w.toNat - carveBase k
         let s1 : State := { s' with
           freeCtr := s'.freeCtr + n
           spad := s'.spad.writeBytes base ((List.range n).map fun i => Config.freeByte (s'.freeCtr + i))
           spadPoison := s'.spadPoison.filter fun l => !(decide (base ≤ l) && decide (l < base + n)) }
         exec (.resize w) s = .next (nextA (s1.setCore core { s1.core core with ways := w.toNat })))))

/-- 06 R171, R177: TIME never runs backwards, and its register's reader issues twelve clocks later at the earliest; WAKEWAIT returns a word that differs from the value last seen, or sleeps; a
sleeper wakes when its word has changed. 06 R178, R189: HALT with everything before it performed ends the thread, whose queues
are empty and which is a member of no level; in a handler it ends the thread in failure with a record: that its code is that of the
trap being handled is the model's reading (log 26, DEDUCED). -/
def Obligations.TimeSleepHalt : Prop :=
  (∀ (s s' : State) (d a : BitVec 5) (v : W64) (core slot : Nat) (addr seen : W64),
     let t := s.curT
     let now := if s.time.toNat < t.lastTime.toNat then t.lastTime else s.time
     (Issues s .e → exec (.time d) s = .next (nextE (s.setCurT (({ t with lastTime := now }.wr .e d now).slow .e d 12 true)))) ∧
     (Issues s .e → a ≠ 31 → t.asleep = none → watchWord s s.cur.core t.ctx (t.rd .e a) = .ok (s', v) →
       (v ≠ t.rd .e (a + 1) → exec (.wakewait a) s = .next (nextE (s'.setCurT (s'.curT.wr .e (a + 1) v)))) ∧
       (v = t.rd .e (a + 1) → exec (.wakewait a) s = .next (s'.setCurT { s'.curT with asleep := some (t.rd .e a, v) }))) ∧
     (Issues s .e → exec (.wakewait 31) s = .next (raise s fltIllegal 0)) ∧
     ((s.thread core slot).asleep = some (addr, seen) → watchWord s core (s.thread core slot).ctx addr = .ok (s', v) →
       exec (.wakewaitWake core slot) s
         = .next (if v = seen then s' else s'.setThread core slot { s'.thread core slot with asleep := none }))) ∧
  (∀ s : State,
     (IssuesRelease s → s.curT.inh = false → s.curT.pends = [] →
       ∃ u, exec .halt s = .next u ∧ u.curT.halted = true ∧ u.curT.queues = {} ∧ ∀ l ∈ instLevels, u.curT.domset.getLsbD l = false) ∧
     (Issues s .e → s.curT.inh = true →
       let fails := failFor s s.cur.core s.cur.slot { code := s.curT.code, stream := 1, async := false, pc := s.curT.epc }
       (∀ u, fails = some u → exec .halt s = .next u) ∧ (fails = none → exec .halt s = .next (waiting s))))

/-- 06 R172-R175: BARRIER: at thread level it passes; at a level joined it registers the arrival, the last arrival flips the
phase and ends the episode, and an arrival whose episode has passed passes; one lost with a package raises FLT_REMOTE (R176).
The members and arrivals of the domain's other packages count with the package's own. 06 R174: MTC to ctl.domset leaves and joins levels;
a thread that leaves withdraws its arrival, and one that joins counts as a member. -/
def Obligations.BarriersAndLevels : Prop :=
  (∀ (s : State) (sx : BitVec 4), IssuesRelease s → s.curT.ecut = none → s.curT.inh = false → s.curT.domset.getLsbD sx.toNat = true →
     let t := s.curT
     let key := barKey t.ctx sx.toNat s.cur.core
     let b := barInst s key
     (sx = 0 → ∃ u, exec (.barrier sx) s = .next u ∧ u.curT.epc = t.here .e + 4) ∧
     (sx.toNat ∈ [2, 3, 4, 5, 9] → t.arrival = none →
       ∃ u, exec (.barrier sx) s = .next u ∧
         (b.allArrivals + 1 = b.allMembers → barInst u key = { b.cleared with episode := b.episode + 1, phase := !b.phase }
           ∧ u.curT.arrival = none ∧ u.curT.epc = t.here .e + 4) ∧
         (b.allArrivals + 1 ≠ b.allMembers → barInst u key = { b with arrivals := b.arrivals + 1 }
           ∧ u.curT.arrival = some ⟨sx.toNat, b.episode, b.lost.length⟩ ∧ u.curT.epc = t.epc)) ∧
     (∀ a, sx.toNat ∈ [2, 3, 4, 5, 9] → t.arrival = some a → a.level = sx.toNat →
       (b.hasLost a = false → b.episode ≠ a.episode → exec (.barrier sx) s = .next (nextE (s.setCurT { t with arrival := none }))) ∧
       (b.hasLost a = false → b.episode = a.episode → exec (.barrier sx) s = .next (waiting s)) ∧
       (b.hasLost a = true → trapWaits s s.cur.core s.cur.slot = false →
         exec (.barrier sx) s = .next (raise (s.setCurT { t with arrival := none }) fltRemote 0)))) ∧
  (∀ (s : State) (a : BitVec 5), Issues s .e →
     let s1 := landedE s
     let v := s1.curT.rd .e a
     let core := s.cur.core
     let slot := s.cur.slot
     let s2 := (instLevels.filter fun l => !v.getLsbD l).foldl (fun s l => leaveLevel s core slot l) s1
     let want := instLevels.filter fun l => v.getLsbD l && !s2.curT.domset.getLsbD l
     ((∀ l ∈ want, (barInst s2 (barKey s1.curT.ctx l core)).allArrivals = 0) →
       let u := nextE (want.foldl (fun s l => joinLevel s core slot l) s2)
       exec (.domsetWrite a) s = .next u ∧ exec (.mtc a 5) s = .next u) ∧
     ∀ (w : State) (l : Nat), l ∈ instLevels →
       let t := w.thread core slot
       let key := barKey t.ctx l core
       (t.domset.getLsbD l = false → let j := joinLevel w core slot l
         (barInst j key).members = (barInst w key).members + 1 ∧ (j.thread core slot).domset.getLsbD l = true) ∧
       (t.domset.getLsbD l = true → ((leaveLevel w core slot l).thread core slot).domset.getLsbD l = false))

/-! ### Traps (06 R180-R189) -/

/-- 06 R182, R187: trap entry with a handler and none running, its record written: what it saves, what it sets and where
both streams go; the queues and the store entries of the interrupted code are set aside. 06 R187: the trap record's fields
at their offsets. -/
def Obligations.TrapEntrySaves : Prop :=
  (∀ (s s' : State) (core slot : Nat) (c : Cause) (ra re : W64),
      let t := landAll (s.thread core slot)
      writeRecord (s.setThread core slot t) core slot c = .ok s' → t.inh = false → t.tvece ≠ 0 →
      ∃ h : Thread, takeTrap s core slot c ra re = s'.setThread core slot h ∧
        h.epca = ra &&& ~~~3 ∧ h.epce = re &&& ~~~3 ∧ h.tsavea = t.rd .a 30 ∧ h.tsavee = t.rd .e 30 ∧
        h.tpredlo = t.p.extractLsb' 0 64 ∧ h.tpredhi = t.p.extractLsb' 64 64 ∧
        h.tstate.extractLsb' 16 16 = t.repidx.extractLsb' 0 16 ∧ h.tstate.extractLsb' 0 16 = t.rotbase.extractLsb' 0 16 ∧
        h.tstate.extractLsb' 32 32 = 0 ∧ h.repidx = 0 ∧ h.rotbase = 0 ∧ h.frozen = t.queues ∧ h.queues = {} ∧
        h.setAside = t.saq.map SaOp.anew ∧ h.saq = [] ∧ h.rd .a 30 = t.traprec ∧ h.rd .e 30 = t.traprec ∧
        (∀ r, r ≠ 30 → h.rd .a r = t.rd .a r ∧ h.rd .e r = t.rd .e r) ∧ h.p = t.p ∧ h.x = t.x ∧
        h.inh = true ∧ h.async = c.async ∧ h.code = c.code ∧ h.cstream = BitVec.ofNat 2 c.stream ∧ h.apc = t.tveca ∧ h.epc = t.tvece ∧
        h.fpmode = t.fpmode ∧ h.tfmt = t.tfmt ∧ h.domset = t.domset ∧ h.tveca = t.tveca ∧ h.tvece = t.tvece ∧ h.traprec = t.traprec) ∧
  (∀ (s : State) (core slot : Nat) (c : Cause),
      let r := trapRecord s core slot c
      let t := s.thread core slot
      let at_ := fun (off n : Nat) => leValue ((r.drop off).take n)
      core < 2 ^ 16 → c.stream < 2 ^ 16 → t.ctx < 2 ^ 32 → c.eng < 2 ^ 16 → c.index < 2 ^ 32 →
      r.length = 64 ∧ at_ 0 4 = t.ctx ∧ at_ 4 2 = core ∧ at_ 6 2 = c.stream ∧ at_ 8 8 = c.pc.toNat ∧ at_ 16 2 = c.code.toNat ∧
        at_ 18 2 = c.eng ∧ at_ 20 4 = c.index ∧ at_ 24 8 = c.status.toNat ∧ at_ 32 8 = c.addr.toNat ∧
        at_ 40 2 = bitsAt t.repidx 0 16 ∧ at_ 42 2 = bitsAt t.rotbase 0 16 ∧ at_ 44 8 = s.time.toNat ∧ at_ 52 12 = 0)

/-- 06 R180, R181, R187, R188: TRAP takes the trap of its code at its own group and resumes at the next; TRAP_ENTRY takes a held
engine fault, with the engine, command, status and address its record names, at both streams' boundaries; ERET restores what
trap entry saved and raises FLT_PRIV outside a handler. -/
def Obligations.TrapsTakenAndReturned : Prop :=
  (∀ (s : State) (im : BitVec 12) (core slot : Nat) (p : Pend) (rest : List Pend),
     let t := s.thread core slot
     (IssuesE s → exec (.trap im) s = .next (takeTrap s s.cur.core s.cur.slot
       { code := im.zeroExtend 16, stream := 1, async := false, pc := s.curT.epc } s.curT.apc (s.curT.here .e + 4))) ∧
     (t.live = true → t.halted = false → t.cancelled = false → t.failed = none → t.inh = false → t.out = none → s.coreOn core = true →
       trapWaits s core slot = false → t.pends = p :: rest → (p :: rest).any Pend.weak = false →
       exec (.trapEntry core slot) s = .next (takeTrap (s.setThread core slot { t with pends := rest }) core slot
         { code := p.code, stream := 2, async := true, pc := t.epc, eng := p.eng, index := p.index, status := p.status, addr := p.addr }
         t.apc t.epc))) ∧
  (∀ s : State, Issues s .e →
     (s.curT.inh = false → exec .eret s = .next (raise s fltPriv 0)) ∧
     (s.curT.inh = true → s.curT.saq = [] → s.curT.out = none →
       let t := s.curT
       ∃ u, exec .eret s = .next u ∧
         let h := u.curT
         h.rd .a 30 = t.tsavea ∧ h.rd .e 30 = t.tsavee ∧ (∀ r, r ≠ 30 → h.rd .a r = t.rd .a r ∧ h.rd .e r = t.rd .e r) ∧
         h.p = t.tpredhi ++ t.tpredlo ∧ h.repidx = ((t.tstate >>> 16) &&& 0x80FF) ∧ h.rotbase = (t.tstate &&& 0x303) ∧
         (t.tstate.getLsbD 32 = false → h.saq = t.setAside) ∧ (t.tstate.getLsbD 32 = true → storeCount h.saq = 0) ∧
         h.setAside = [] ∧ h.tstate = (t.tstate &&& 0xFFFFFFFF) ∧ h.inh = false ∧ h.async = false ∧ h.queues = t.frozen ∧
         h.apc = t.epca ∧ h.epc = t.epce))

/-! ### Control registers (03 R74, 06 R169, R170) -/

/-- 06 R169, R170, R184: MFC reads any assigned register of the thread, its core or its die, and clears its RC fields; MTC
writes a register field by field under its access codes. An unassigned number raises FLT_ILLEGAL; a register the thread may not
write, FLT_PRIV. 04 R98, 05 R150, 06 R162: MTC to a slot counter sets it and MTC to ctl.invctl discards translations, each as a
release: with everything before it performed it completes at once, an invalidation once no access through the range is on its
way (04 R97). 07 R191: an MTC to ctl.tfmt that makes a copy completes once it is made, 16 clocks after its issue (log 5). 16 R447:
without HOSTC MTC to ctl.hostatom raises FLT_PRIV. -/
def Obligations.ControlRegistersReadAndWritten : Prop :=
  (∀ (s : State) (d a : BitVec 5) (c : BitVec 12), Issues s .e →
     let s1 := landedE s
     let t := s1.curT
     let core := s.cur.core
     let v := t.rd .e a
     let puts := fun (c : BitVec 12) (u : Thread) => exec (.mtc a c) s = .next (nextE (s1.setCurT u))
     let calm := fun (c : BitVec 12) => 0x100 ≤ c.toNat → c.toNat < 0x200 → (s.core core).gate = false
     (∀ x, ctlReg s1 core t c.toNat = some x → calm c →
       exec (.mfc d c) s = .next (nextE ((clearRc s1 core t c.toNat).setCurT (t.wr .e d x)))) ∧
     (ctlReg s1 core t c.toNat = none → exec (.mfc d c) s = .next (raise s1 fltIllegal 0)) ∧
     (ctlReg s core s.curT c.toNat = none → exec (.mtc a c) s = .next (raise s1 fltIllegal 0)) ∧
     (exec (.mtc a 4) s = .next (raise s1 fltPriv 0)) ∧
     (s.curT.inh = false → 9 ≤ c.toNat → c.toNat ≤ 15 → exec (.mtc a c) s = .next (raise s1 fltPriv 0)) ∧
     (v.toNat % 8 ≤ 4 → puts 0 { t with fpmode := (t.fpmode &&& ~~~v &&& 0x3F00) ||| (v &&& 0xF) }) ∧
     puts 1 { t with repidx := v &&& 0x80FF } ∧ puts 2 { t with rotbase := v &&& 0x303 } ∧
     (bitsAt v 8 3 ≤ 5 → bitsAt v 0 4 ≤ 2 → bitsAt v 4 4 ∈ [6, 7, 8, 10] →
       let copies := (List.range 8).any fun p => v.getLsbD (16 + p) && !t.mirrored p
       puts 3 { t.mirror (v.extractLsb' 16 8) with tfmt := v &&& 0xFF0FFF, eclk := t.eclk + if copies then 15 else 0 } ∧ exec (.tfmtWrite a) s = exec (.mtc a 3) s) ∧
     puts 6 { t with tveca := v &&& ~~~63 } ∧ puts 7 { t with tvece := v &&& ~~~63 } ∧ puts 8 { t with traprec := v &&& ~~~63 } ∧
     (s.curT.inh = true → puts 9 { t with epca := v &&& ~~~3 } ∧ puts 10 { t with epce := v &&& ~~~3 } ∧
       puts 11 { t with tsavea := v } ∧ puts 12 { t with tsavee := v } ∧ puts 13 { t with tpredlo := v } ∧
       puts 14 { t with tpredhi := v } ∧ puts 15 { t with tstate := v &&& 0x1FFFFFFFF }) ∧
     (bitsAt v 0 7 ≤ 95 → puts 16 { t with mpsel := v &&& 0xFF }) ∧ puts 17 { t with invva := v &&& 0x7FFFFFFFF0000 } ∧
     (∀ s2, readGrant s1 t.ctx 6 = .ok (s2, true) →
       let u := nextE { s2 with hostMode := v.getLsbD 0, hostFb := s2.hostFb && !v.getLsbD 9 }
       exec (.hostatomWrite a) s = .next u ∧ exec (.mtc a 0x250) s = .next u) ∧
     (∀ s2, readGrant s1 t.ctx 6 = .ok (s2, false) →
       exec (.hostatomWrite a) s = .next (raise s1 fltPriv 0 (some s2)) ∧ exec (.mtc a 0x250) s = .next (raise s1 fltPriv 0 (some s2))) ∧
     (∀ eng : Nat, engineCtl c.toNat = some eng → (s.core core).gate = false →
       exec (.mtc a c) s = .next (nextE (streamCtl s1 eng core v)))) ∧
  (∀ (s : State) (c a : BitVec 5), IssuesRelease s → s.curT.ecut = none →
     let s1 := landedE s
     let u := s1.setCurT { s1.curT with ecut := none }
     let v := s1.curT.rd .e a
     ((s.core s.cur.core).gate = false →
       let w := nextE (setCounter u s.cur.core c.toNat (v.setWidth 32))
       exec (.slotCounterWrite c a) s = .next w ∧ exec (.mtc a (0x100 + c.zeroExtend 12)) s = .next w ∧
       ∀ k, k < 32 → ctrOf w s.cur.core k = if k = c.toNat then v.setWidth 32 else ctrOf s s.cur.core k) ∧
     (s.curT.rd .e a &&& 0xFFFFFFFF ≠ 0 →
       let lo := bitsAt u.curT.invva 16 35 * 65536
       let n := min (bitsAt v 0 32 * 65536) (2 ^ 51 - lo)
       let w := nextE (invalidate u u.curT.ctx lo n)
       let inUse := rangeInUse u u.curT.ctx lo n (some (s.cur.core * 16 + s.cur.slot))
       (inUse = true → exec (.invctlWrite a) s = .next (waiting s1) ∧ exec (.mtc a 0x12) s = .next (waiting s1)) ∧
       (inUse = false → exec (.invctlWrite a) s = .next w ∧ exec (.mtc a 0x12) s = .next w)))

/-! ### The tile unit (03 R68-R73, 07 R190-R212) -/

/-- 07 R193-R196, R206: float arithmetic on every lane, in FF, rounded once under RM: one row on its way, the sticky flags set. -/
def Obligations.TileFloatResults : Prop :=
  ∀ (s : State) (st : BitVec 2) (d a b d' a' b' : BitVec 7), IssuesE s →
    let t0 := s.curT
    let runs := fun (i : Instr) (lat : Nat) (srcs : List (BitVec 7)) (f : Thread → RowData × FFlags) =>
      let t := atIssue t0 (srcs.map t0.phys)
      exec i s = oneRow s st.toNat lat t d' (f t) none
    let lane := fun (op : Rnd → Fl → Fl → Fl × FFlags) (t : Thread) =>
      lanes2 t.floatFmt (t.data a') (t.data b') fun x y =>
        outCode t.ftz t.floatFmt t.rm (op t.rm (inValue t.ftz t.floatFmt x) (inValue t.ftz t.floatFmt y))
    let fn := fun (op : Fl → Fl × FFlags) (t : Thread) =>
      lanes1 .fp32 (t.data a') fun x => outCode t.ftz .fp32 t.rm (op (inValue t.ftz .fp32 x))
    let quiet := fun (op : Fl → Fl) (t : Thread) =>
      ((lanes1 t.floatFmt (t.data a') fun x => roundFloat t.floatFmt .rne false (op (inValue t.ftz t.floatFmt x))).1, (0 : FFlags))
    (rowFields t0 d a b = some (d', a', b') →
      runs (.fadd st d a b) 6 [a', b'] (lane Fl.add) ∧ runs (.fsub st d a b) 6 [a', b'] (lane fun m x y => Fl.add m x y.neg) ∧
      runs (.fmul st d a b) 6 [a', b'] (lane fun _ => Fl.mul) ∧ runs (.fdiv st d a b) 24 [a', b'] (lane fun _ => Fl.div) ∧
      runs (.fmin st d a b) 6 [a', b'] (lane fun _ x y => (Fl.minMax false x y, 0)) ∧
      runs (.fmax st d a b) 6 [a', b'] (lane fun _ x y => (Fl.minMax true x y, 0)) ∧
      runs (.fma st d a b) 8 [a', b', d'] (fun t =>
        let iv := inValue t.ftz t.floatFmt
        let rs := List.zipWith (fun (p : Nat × Nat) c => outCode t.ftz t.floatFmt t.rm (fmaExact t.rm (iv p.1) (iv p.2) (iv c)))
          (List.zip (rowCodes t.floatFmt (t.data a')) (rowCodes t.floatFmt (t.data b'))) (rowCodes t.floatFmt (t.data d'))
        (codesRow t.floatFmt (rs.map Prod.fst), rs.foldl (fun fl r => fl ||| r.2) 0)) ∧
      runs (.cmul st d a b) 8 [a', b'] (fun t => cmulRow t (rowCodes t.floatFmt (t.data a')) (rowCodes t.floatFmt (t.data b')))) ∧
    (rowFields t0 d a 0 = some (d', a', b') →
      runs (.fabs st d a) 2 [a'] (quiet Fl.abs) ∧ runs (.fneg st d a) 2 [a'] (quiet Fl.neg) ∧
      runs (.fclass st d a) 4 [a'] (fun t =>
        lanes1 t.floatFmt (t.data a') fun x => (classOf t.floatFmt (flushIn t.ftz t.floatFmt x), 0)) ∧
      (t0.floatFmt = .fp32 →
        runs (.fexp2 st d a) 16 [a'] (fn Fl.exp2) ∧ runs (.flog2 st d a) 16 [a'] (fn Fl.log2) ∧
        runs (.frcp st d a) 20 [a'] (fn Fl.rcp) ∧ runs (.frsq st d a) 20 [a'] (fn Fl.rsq) ∧ runs (.fsqrt st d a) 20 [a'] (fn Fl.sqrt)))

/-- 07 R200-R202: integer arithmetic, bitwise rows, shifts and the scalar forms, and every compare, lane by lane. -/
def Obligations.TileLaneResults : Prop :=
  ∀ (s : State) (st m : BitVec 2) (d a b d' a' b' : BitVec 7) (e : BitVec 5), IssuesE s →
    let t0 := s.curT
    let runs := fun (i : Instr) (lat : Nat) (srcs : List (BitVec 7)) (f : Thread → RowData × FFlags) =>
      let t := atIssue t0 (srcs.map t0.phys)
      exec i s = oneRow s st.toNat lat t d' (f t) none
    let whole := fun (op : Int → Int → Int) (t : Thread) =>
      lanes2 t.intFmt (t.data a') (t.data b') fun x y => intOut t (op (t.intFmt.decodeInt x) (t.intFmt.decodeInt y))
    let code := fun (op : Fmt → Nat → Nat → Nat) (t : Thread) =>
      lanes2 t.intFmt (t.data a') (t.data b') fun x y => (op t.intFmt x y, 0)
    let less := fun (f : Fmt) (x y : Nat) => decide (f.decodeInt x < f.decodeInt y)
    let ones := fun (f : Fmt) (p : Bool) => if p then 2 ^ f.bits - 1 else 0
    let real := fun (p : Fl → Fl → Bool) (t : Thread) =>
      let f := t.floatFmt
      lanes2 f (t.data a') (t.data b') fun x y => (ones f (p (inValue t.ftz f x) (inValue t.ftz f y)), 0)
    let numbers := fun (x y : Fl) => !x.isNan && !y.isNan
    let shift := fun (op : Fmt → Nat → Nat → Nat) (t : Thread) =>
      lanes1 t.intFmt (t.data a') fun x => (op t.intFmt (bitsAt (t.rd .e e) 0 8) x, 0)
    (rowFields t0 d a b = some (d', a', b') →
      runs (.iadd st d a b) 4 [a', b'] (whole fun x y => x + y) ∧ runs (.isub st d a b) 4 [a', b'] (whole fun x y => x - y) ∧
      runs (.imul st d a b) 6 [a', b'] (whole fun x y => x * y) ∧
      runs (.imin st d a b) 4 [a', b'] (code fun f x y => if f.decodeInt x ≤ f.decodeInt y then x else y) ∧
      runs (.imax st d a b) 4 [a', b'] (code fun f x y => if f.decodeInt x ≤ f.decodeInt y then y else x) ∧
      runs (.iand st d a b) 4 [a', b'] (fun t => (t.data a' &&& t.data b', 0)) ∧
      runs (.ior st d a b) 4 [a', b'] (fun t => (t.data a' ||| t.data b', 0)) ∧
      runs (.ixor st d a b) 4 [a', b'] (fun t => (t.data a' ^^^ t.data b', 0)) ∧
      runs (.icmpeq st d a b) 4 [a', b'] (code fun f x y => ones f (x == y)) ∧
      runs (.icmplt st d a b) 4 [a', b'] (code fun f x y => ones f (less f x y)) ∧
      runs (.icmpltu st d a b) 4 [a', b'] (code fun f x y => ones f (decide (x < y))) ∧
      runs (.fcmpeq st d a b) 4 [a', b'] (real fun x y => numbers x y && Fl.cmp x y == .eq) ∧
      runs (.fcmplt st d a b) 4 [a', b'] (real fun x y => numbers x y && Fl.cmp x y == .lt) ∧
      runs (.fcmple st d a b) 4 [a', b'] (real fun x y => numbers x y && Fl.cmp x y != .gt) ∧
      runs (.fcmpun st d a b) 4 [a', b'] (real fun x y => x.isNan || y.isNan)) ∧
    (rowFields t0 d a 0 = some (d', a', b') →
      runs (.ishl st d a e) 4 [a'] (shift fun f k x => if f.bits ≤ k then 0 else x <<< k % 2 ^ f.bits) ∧
      runs (.ishr st d a e) 4 [a'] (shift fun f k x => if f.bits ≤ k then 0 else x >>> k) ∧
      runs (.isar st d a e) 4 [a'] (shift fun f k x =>
        if f = .uint8 then (if f.bits ≤ k then 0 else x >>> k)
        else (f.decodeInt x / (2 ^ min k f.bits : Int) % (2 ^ f.bits : Int)).toNat) ∧
      (m.toNat ≤ 1 → runs (.rowset st d a e m) 2 [a'] fun t =>
        let w := if m = 0 then t.intFmt.bits else t.floatFmt.bits
        (laneRow w (updAt (fun _ => bitsAt (t.rd .e e) 0 32) (lanesOf w (t.data a')) (bitsAt (t.rd .e e) 32 16 % (2048 / w))), 0))) ∧
    (rowFields t0 d 0 0 = some (d', a', b') → m ≠ 3 → runs (.bcast st d e m) 2 [] fun t =>
      let w := if m = 0 then t.intFmt.bits else if m = 1 then t.floatFmt.bits else 64
      (laneRow w (List.replicate (2048 / w) (t.rd .e e).toNat), 0))

/-- 07 R198, R199, R204, R205: the reductions over their span and the conversions under their descriptor; a span that leaves the
128 fields, and a descriptor that fails its checks, have no effect but their fault. 02 R44: bytes 20-39 of the sideband of a row
of BX8 or BXI8 are undefined (`openTail` takes them from a free value). -/
def Obligations.TileReductionsAndConversions : Prop :=
  ∀ (s : State) (st m : BitVec 2) (fn : BitVec 3) (d a d' a' b' : BitVec 7) (e : BitVec 5), IssuesE s →
    let t0 := s.curT
    rowFields t0 d a 0 = some (d', a', b') →
    (let sums := fun (i : Instr) (base : Nat) (f : Thread → List Fl → RowData × FFlags) =>
       let t := atIssue t0 []
       (a'.toNat + t0.span ≤ 128 →
         exec i s = oneRow s st.toNat (base + 2 * bitsAt t0.tfmt 8 3) t d' (f t (spanValues t a')) none) ∧
       (128 < a'.toNat + t0.span → t0.egrp.rep = none → exec i s = .next (raise s fltIllegal 0))
     sums (.rsum st d a) 14 (fun t => sumRow false t.ftz) ∧ sums (.rsumsq st d a) 14 (fun t => sumRow true t.ftz) ∧
     sums (.rmax st d a) 10 (fun _ vs => (selectRow true false vs, 0)) ∧
     sums (.rmin st d a) 10 (fun _ vs => (selectRow false false vs, 0)) ∧
     sums (.rargmax st d a) 10 (fun _ vs => (selectRow true true vs, 0)) ∧
     sums (.rargmin st d a) 10 (fun _ vs => (selectRow false true vs, 0))) ∧
    (∀ c, cvtOf fn.toNat m (t0.rd .e e) = some c →
      let srcs := t0.phys a' :: (if c.dst.bits < c.src.bits then [t0.phys d'] else []) ++ (if fn = 5 then [t0.phys c.rnd] else [])
      let t := atIssue t0 srcs
      let r := convert c fn.toNat (t.row (t.phys a')) (t.row (t.phys d')) (t.data c.rnd)
      exec (.fcvt fn st d a e m) s
        = oneRow { s with freeCtr := s.freeCtr + 1 } st.toNat (if c.src.isBlock || c.dst.isBlock then 12 else 8) t d' (r.1.1, r.2)
            (r.1.2.map (openTail c.dst (Config.freeSideband s.freeCtr)))) ∧
    (cvtOf fn.toNat m (t0.rd .e e) = none → t0.egrp.rep = none → exec (.fcvt fn st d a e m) s = .next (raise s fltIllegal 0))

/-- 07 R203, R206-R212: permutation, selection, lane moves, transforms, row moves, random rows, sorting and the tile system; a
scalar word reads ROWGET's register six clocks later at the earliest (R195), and a copy is read from the 16th clock after its
TMIRROR (R211). -/
def Obligations.TileMoveResults : Prop :=
  ∀ (s : State) (st m : BitVec 2) (d a b d' a' b' : BitVec 7) (r : BitVec 3) (e : BitVec 5), IssuesE s →
    let t0 := s.curT
    let runs := fun (i : Instr) (lat : Nat) (srcs : List (BitVec 7)) (f : Thread → RowData × FFlags) =>
      let t := atIssue t0 (srcs.map t0.phys)
      exec i s = oneRow s st.toNat lat t d' (f t) none
    let sided := fun (i : Instr) (lat : Nat) (srcs : List (BitVec 7)) (f : Thread → RowData × Sideband) =>
      let t := atIssue t0 (srcs.map t0.phys)
      exec i s = oneRow s st.toNat lat t d' ((f t).1, 0) (some (f t).2)
    let pair := fun (i : Instr) (lat : Nat) (f : Thread → RowData × RowData × FFlags) =>
      let t := atIssue t0 [t0.phys a', t0.phys b']
      d'.toNat % 2 = 0 →
        exec i s = tileRows s st.toNat lat t [(t.phys d', (f t).1, none), (t.phys d' + 1, (f t).2.1, none)] (f t).2.2
    let width := fun (t : Thread) => if m = 0 then t.intFmt.bits else if m = 1 then t.floatFmt.bits else 8
    let places := fun (t : Thread) => ((t.rd .e e).extractLsb' 0 16).toInt
    (rowFields t0 d a b = some (d', a', b') →
      runs (.perm st d a b) 6 [a', b'] (fun t => (codesRow t.intFmt ((rowCodes t.intFmt (t.data b')).map fun k =>
        lane t.intFmt.bits (t.data a').toNat (k % t.intFmt.lanes)), 0)) ∧
      runs (.sel st d a b) 4 [a', b', d'] (fun t => (laneRow 8 (List.zipWith (fun (p : Nat × Nat) k => if 128 ≤ k then p.1 else p.2)
        (List.zip (lanesOf 8 (t.data a')) (lanesOf 8 (t.data b'))) (lanesOf 8 (t.data d'))), 0)) ∧
      pair (.bfly st d a b) 6 (fun t =>
        let x := floatOp t Fl.add (t.data a') (t.data b')
        let y := floatOp t (fun m x y => Fl.add m x y.neg) (t.data a') (t.data b')
        (x.1, y.1, x.2 ||| y.2)) ∧
      pair (.sortk st d a b) 48 (fun t =>
        let f := t.intFmt
        let ps := (List.zip (rowCodes f (t.data a')) (rowCodes f (t.data b'))).foldl (fun acc x => sortInsert f x acc) []
        (codesRow f (ps.map Prod.fst), codesRow f (ps.map Prod.snd), 0))) ∧
    (rowFields t0 d a 0 = some (d', a', b') →
      (m ≠ 3 → runs (.lshift st d a e m) 4 [a'] (fun t => (moveLanes (width t) false (places t) (t.data a'), 0)) ∧
        runs (.lrot st d a e m) 4 [a'] (fun t => (moveLanes (width t) true (places t) (t.data a'), 0))) ∧
      runs (.conj st d a) 2 [a'] (fun t => (codesRow t.floatFmt ((rowCodes t.floatFmt (t.data a')).zipIdx.map fun (x, i) =>
        let v := inValue t.ftz t.floatFmt x
        (roundFloat t.floatFmt .rne false (if i % 2 = 1 then v.neg else v)).1), 0)) ∧
      (let c := t0.rd .e e
       m.toNat ≤ 1 ∧ 1 ≤ bitsAt c 0 5 ∧ bitsAt c 0 5 ≤ 24 ∧ bitsAt c 5 3 = 0 ∧ bitsAt c 56 8 = 0 →
       runs (.twid st d a e m) 24 [a'] fun t =>
         let f := t.floatFmt
         let n := 2 ^ bitsAt c 0 5
         cmulRow t (rowCodes f (t.data a')) ((List.range (f.lanes / 2)).map fun j =>
           let p := twiddle f ((bitsAt c 8 24 + j * bitsAt c 32 24) % n) n (m == 0)
           [p.1, p.2]).flatten) ∧
      sided (.rowmov st d a) 2 [a'] (fun t => ((t.row (t.phys a')).data, (t.row (t.phys a')).sb)) ∧
      sided (.rowput st d a e) 4 [a'] (fun t =>
        let x := t.row (t.phys a')
        (x.data, setScale x.sb (bitsAt (t.rd .e e) 32 4) (BitVec.ofNat 20 (bitsAt (t.rd .e e) 0 20))))) ∧
    (rowFields t0 d 0 0 = some (d', a', b') →
      sided (.rowzero st d) 2 [] (fun _ => (0, 0)) ∧
      (e ≠ 31 → runs (.rngrow st d e) 24 [] (fun t => (randomRow (t.rd .e e) (t.rd .e (e + 1)) d'.toNat, 0)))) ∧
    (let t := atIssue t0 [t0.phys a]
     let x := t.row (t.phys a)
     let k := t.rd .e e
     let v := if m = 0 then lane 64 x.data.toNat (bitsAt k 0 5) else if m = 1 then lane 32 x.data.toNat (bitsAt k 0 6)
       else if m = 2 then lane 16 x.data.toNat (bitsAt k 0 7) else (sbScale x.sb (bitsAt k 0 4)).toNat
     exec (.rowget st a e m) s =
       .next (s.setCurT ((((t.wr .e e (BitVec.ofNat 64 v)).slow .e e 6 false).tick .e st.toNat).advance .e))) ∧
    (let p := physReg t0.ebase r.toNat
     exec (.tmirror st r) s = .next (s.setCurT (({ t0 with
       tfmt := t0.tfmt ||| BitVec.twoPow 64 (16 + p)
       mirrorAt := if t0.mirrored p then t0.mirrorAt else Tab.set t0.mirrorAt p t0.eclk }.tick .e st.toNat).advance .e))) ∧
    (let t := atIssue t0 []
     let p := physReg t0.ebase r.toNat
     let u := launchAll (s.setCurT (t.addFlags 0)) 4 ((List.range 16).map fun i =>
       let x := t.row (p * 16 + (i + 1) % 16)
       (p * 16 + i, x.data, some x.sb))
     exec (.trot st r) s = .next (u.setCurT ((u.curT.tick .e st.toNat).advance .e)))

/-- 03 R70: a result on its way has an undefined row until it lands; TILE_RESULT_LAND lands one, and a row another result is
still on its way to stays undefined. 07 R193, 03 R72: a tile word that takes no trap changes tile rows, the results on their
way, the sticky flags and its stream's position: no scalar register, predicate, queue, control register, other thread, unit or
byte of memory. -/
def Obligations.TileResultsLandAndFrame : Prop :=
  (∀ (s : State) (core slot idx row lat : Nat) (d : RowData) (sb : Sideband), row < 128 →
     (let u := launch s row d (some sb) lat
      u.curT.flights = s.curT.flights ++ [⟨row, ⟨d, sb⟩, s.curT.eclk + lat⟩] ∧
        u.curT.row row = ⟨Config.freeRow s.freeCtr, Config.freeSideband s.freeCtr⟩ ∧
        ∀ r, r ≠ row → u.curT.row r = s.curT.row r) ∧
     (let t := s.thread core slot
      t.flights[idx]? = some ⟨row, ⟨d, sb⟩, lat⟩ →
      ∃ u, exec (.tileResultLand core slot idx) s = .next u ∧ (u.thread core slot).flights = removeAt t.flights idx ∧
        ((∀ g ∈ removeAt t.flights idx, g.row ≠ row) → (u.thread core slot).row row = ⟨d, sb⟩) ∧
        ∀ r, r ≠ row → (u.thread core slot).row r = t.row r)) ∧
  (∀ (s u : State) (st m : BitVec 2) (fn : BitVec 3) (d a b : BitVec 7) (e : BitVec 5) (i : Instr),
     i ∈ [.fadd st d a b, .fsub st d a b, .fmul st d a b, .fma st d a b, .fmin st d a b, .fmax st d a b, .fdiv st d a b,
       .fexp2 st d a, .flog2 st d a, .frcp st d a, .frsq st d a, .fsqrt st d a, .fabs st d a, .fneg st d a, .fclass st d a,
       .fcvt fn st d a e m, .iadd st d a b, .isub st d a b, .imul st d a b, .imin st d a b, .imax st d a b, .iand st d a b,
       .ior st d a b, .ixor st d a b, .ishl st d a e, .ishr st d a e, .isar st d a e, .bcast st d e m, .rowset st d a e m,
       .fcmpeq st d a b, .fcmplt st d a b, .fcmple st d a b, .fcmpun st d a b, .icmpeq st d a b, .icmplt st d a b,
       .icmpltu st d a b, .perm st d a b, .sel st d a b, .lshift st d a e m, .lrot st d a e m, .rsum st d a, .rsumsq st d a,
       .rmax st d a, .rmin st d a, .rargmax st d a, .rargmin st d a, .bfly st d a b, .cmul st d a b, .conj st d a,
       .twid st d a e m, .rowput st d a e, .rowmov st d a, .rowzero st d, .rngrow st d e, .sortk st d a b] →
     Issues s .e → exec i s = .next u → u.curT.inh = s.curT.inh → u.curT.failed = none →
     u = { s with threads := u.threads, freeCtr := u.freeCtr } ∧ SameBytes s u ∧
     (∀ core slot, core * 16 + slot ≠ s.cur.core * 16 + s.cur.slot → u.thread core slot = s.thread core slot) ∧
     ∃ (rows : Vector Row 128) (fs : List Flight) (fl : W64), u.curT = { s.curT with
       x := rows, flights := fs, fpmode := s.curT.fpmode ||| (fl &&& 0x3F00), repidx := u.curT.repidx, egrp := u.curT.egrp
       epc := u.curT.epc, eclk := u.curT.eclk })

/-! ### Engine streams: starting, working, FLUSH, SKIP, RESUME, completion and bounds (11 R307-R309, R325 and their like) -/

/-- 01 R24, 09 R252, 11 R307, R308, 13 R350, 14 R373, 16 R422: a stream's head whose checks pass starts; one that a check fails
stops the stream with the check's code and address, and one that the engine queue's access table denies with FLT_ACCESS (04
R102); a command that has started does its work. A command of SCH takes its place in its object's order as it starts, and a
SEARCH binds (14 R376, R387). -/
def Obligations.EngineCommandsRun : Prop :=
  ∀ (s : State) (src : Nat) (c : Cmd) (r : EngineRow) (i : Instr), (r, i) ∈ ([
      (⟨engChk, (·.op == 1), fun _ c => ccrcCheck c, ccrcWork src⟩, Instr.ccrc src),
      (⟨engChk, (·.op == 2), fun _ c => ccmpCheck c, ccmpWork src⟩, .ccmp src),
      (⟨engChk, (·.op == 3), fun _ c => cstatCheck c, cstatWork src⟩, .cstat src),
      (attRow src 1 astepCheck astepEng, .astep src),
      (attRow src 2 btpostCheck btpostEng, .btpost src),
      (attRow src 3 btforkCheck btforkEng, .btfork src),
      (attRow src 4 btcommitCheck btcommitEng, .btcommit src),
      (attRow src 5 bttrimCheck bttrimEng, .bttrim src),
      (attRow src 6 btstatCheck btstatEng, .btstat src),
      (⟨engTre, (·.op == 1), treCheck 1 (fun _ => false) (fun _ c => need (bitsAt (c.w 0) 0 42 == 0)) src, tdescWork src⟩, .tdesc src),
      (⟨engTre, (·.op == 2), treCheck 3 (fun _ => false) (texpandCheck src) src, texpandWork src⟩, .texpand src),
      (⟨engTre, (·.op == 3), treCheck 2 (fun _ => false) (fun _ c => tbackCheck c) src, fun s c => runPace s src c (tbackEng src c)⟩, .tback src),
      (⟨engTre, (·.op == 4), treCheck 1 (fun _ => false) (fun _ c => need (bitsAt (c.w 0) 16 27 == 0)) src, treuseWork src⟩, .treuse src),
      (treeRow src (tcfgMine 0) (tcfgCheck src) (tcfgInitEng (dieOfSrc src)), .tcfgInit src),
      (treeRow src (tcfgMine 1) (tcfgCheck src) (tcfgSetpEng (dieOfSrc src)), .tcfgSetp src),
      (treeRow src (tcfgMine 2) (tcfgCheck src) (tcfgReleaseEng (dieOfSrc src)), .tcfgRelease src),
      (treeRow src (·.op == 6) (treCheck 2 (fun _ => false) (fun _ c => need (bitsAt (c.w 0) 0 42 == 0 && !c.note && (!(c.w 0).getLsbD 42 || c.w 1 == 0))) src) (tstatEng (dieOfSrc src)), .tstat src),
      (⟨engSch, (·.op == 1), searchCheck, fun s c => schPace s src c (searchEng src c)⟩, .search src),
      (⟨engSch, (·.op == 2), fetchCheck, fetchWork src⟩, .fetchkv src),
      (⟨engSch, (·.op == 3), appendCheck false, schWork src (appendEng false)⟩, .idxappend src),
      (⟨engSch, (·.op == 4), appendCheck true, schWork src (appendEng true)⟩, .idxdelete src),
      (⟨engSch, (·.op == 5), sealCheck, schWork src sealEng⟩, .idxseal src),
      (⟨engSch, (·.op == 6), mergeCheck, schWork src mergeEng⟩, .idxmerge src),
      (⟨engLnk, fun c => c.op == 1 && !c.kind1, dqputCheck, lnkWork src putDraft⟩, .dqputDraft src),
      (⟨engLnk, fun c => c.op == 1 && c.kind1, dqputCheck, lnkWork src putVerdict⟩, .dqputVerdict src),
      (⟨engLnk, fun c => c.op == 2 && !c.kind1, dqgetCheck, lnkWork src getDraft⟩, .dqgetDraft src),
      (⟨engLnk, fun c => c.op == 2 && c.kind1, dqgetCheck, lnkWork src getVerdict⟩, .dqgetVerdict src),
      (⟨engLnk, (·.op == 4), wakepostCheck, lnkWork src (wakepostEng src)⟩, .wakepost src),
      (⟨engLnk, (·.op == 5), lnkstatCheck, lnkWork src lnkstatEng⟩, .lnkstat src),
      (⟨engXfr, (·.op == 1), xferCheck, xferWork src⟩, .xferl src),
      (⟨engCtx, fun c => c.op == 3 && c.op2 == 0, mustsaveCheck, ctxWork src mustsaveAdd⟩, .mustsaveAdd src),
      (⟨engCtx, fun c => c.op == 3 && c.op2 == 1, mustsaveCheck, ctxWork src mustsaveRemove⟩, .mustsaveRemove src),
      (⟨engCtx, fun c => c.op == 3 && c.op2 == 2, mustsaveCheck, ctxWork src mustsaveClear⟩, .mustsaveClear src),
      (⟨engCtx, fun c => c.op == 4 && c.op2 == 0, shutstatCheck, ctxWork src shutStatus⟩, .shutstatStatus src)] :
      List (EngineRow × Instr)) → r.mine c = true →
    (Heads s r.eng src c →
      (r.check s c = none → exec i s = .next (started s r.eng src c) ∧
        let u := (startCmd s r.eng src).estream r.eng src
        u.run = some c ∧ u.queue = (s.estream r.eng src).queue.tail ∧ u.done = false ∧ u.stopped = false ∧ u.wait = 0) ∧
      (∀ code a, r.check s c = some (code, a) →
        ∃ status, exec i s = .next (stopCmd (startCmd s r.eng src) r.eng src c code a status))) ∧
    ((s.estream r.eng src).run = none → (s.estream r.eng src).queue.head? = some c → mayStart s r.eng src = true →
      pushDenied s r.eng c = true →
      ∃ status, exec i s = .next (stopCmd (startCmd s r.eng src) r.eng src c fltAccess 0 status)) ∧
    (Runs s r.eng src c → exec i s = .next (r.work s c))

/-- 01 R24, 09 R256, 11 R309, R324, R325, 13 R365, 14 R391, 16 R449, R451, 17 R479: FLUSH empties a queue and discards a stopped
command, SKIP discards the stopped command, RESUME puts it back at the head; a command that has done its work completes; one
past its bound stops its stream with FLT_CMDBOUND, which its thread is sent; of CHK only the clocks in which the command holds the
read path count (09 R256, R257). How a command's clocks are counted is the model's choice (log 48). -/
def Obligations.EngineStreamsControlled : Prop :=
  ∀ (s : State) (src : Nat),
    (∀ p ∈ [(engChk, Instr.chkFlush src), (engAtt, .attFlush src), (engTre, .treFlush src), (engSch, .schFlush src),
        (engLnk, .lnkFlush src), (engXfr, .xfrFlush src), (engCtx, .ctxFlush src)],
      let st := s.estream p.1 src
      exec p.2 s = .next (s.setEstream p.1 src (if st.stopped then { st.idle with queue := [] } else { st with queue := [] }))) ∧
    (∀ p ∈ [(engChk, Instr.chkSkip src), (engAtt, .attSkip src), (engTre, .treSkip src), (engSch, .schSkip src),
        (engLnk, .lnkSkip src), (engXfr, .xfrSkip src), (engCtx, .ctxSkip src), (engQmg, .qmgSkip src)],
      let st := s.estream p.1 src
      exec p.2 s = .next (if st.stopped then s.setEstream p.1 src st.idle else s)) ∧
    (∀ p ∈ [(engChk, Instr.chkResume src), (engAtt, .attResume src), (engTre, .treResume src), (engSch, .schResume src),
        (engLnk, .lnkResume src), (engXfr, .xfrResume src), (engCtx, .ctxResume src), (engQmg, .qmgResume src)],
      let st := s.estream p.1 src
      (st.stopped = false → exec p.2 s = .next s) ∧
      ∀ c, st.stopped = true → st.run = some c →
        exec p.2 s = .next (s.setEstream p.1 src { st.idle with queue := c :: st.queue })) ∧
    (∀ p ∈ [(engChk, Instr.chkComplete src), (engAtt, .attComplete src), (engTre, .treComplete src), (engSch, .schComplete src),
        (engLnk, .lnkComplete src), (engXfr, .xfrComplete src), (engCtx, .ctxComplete src)],
      ∀ c, Done s p.1 src c → exec p.2 s = .next (completed s p.1 src c)) ∧
    (∀ c, Runs s engChk src c →
      (boundClocks ≤ chkHold c → ∃ status, exec (.chkCmdbound src) s = .next (stopCmd s engChk src c fltCmdBound 0 status)) ∧
      (chkHold c < boundClocks → exec (.chkCmdbound src) s = .next s)) ∧
    (∀ p ∈ [(engAtt, Instr.attCmdbound src), (engLnk, .lnkCmdbound src), (engXfr, .xfrCmdbound src)],
      ∀ c, Runs s p.1 src c →
        (boundDue s p.1 src 0 = true → ∃ status, exec p.2 s = .next (stopCmd s p.1 src c fltCmdBound 0 status)) ∧
        (boundDue s p.1 src 0 = false → exec p.2 s = .next s)) ∧
    (∀ c, Runs s engSch src c → ¬((s.estream engSch src).prog = 1 ∧ (s.look src).left ≠ 0) →
      (s.look src).queued = false →
      (boundDue s engSch src (schBound s src c) = true →
        ∃ status, exec (.schCmdbound src) s = .next (stopCmd (releaseClaim s src c) engSch src c fltCmdBound 0 status)) ∧
      (boundDue s engSch src (schBound s src c) = false → exec (.schCmdbound src) s = .next s)) ∧
    (∀ c, Runs s engTre src c → boundDue s engTre src (treBound s src c) = false → exec (.treCmdbound src) s = .next s) ∧
    (∀ c, Runs s engTre src c → boundDue s engTre src (treBound s src c) = true →
      let p := (s.estream engTre src).prog
      let t := s.tree (dieOfSrc src) c.tid
      (c.op ≠ 1 → c.op ≠ 4 → ¬(c.op = 3 ∧ 2 ≤ p) →
        ∃ status, exec (.treCmdbound src) s = .next (stopCmd s engTre src c fltCmdBound 0 status)) ∧
      (c.op = 3 → 2 ≤ p → exec (.treCmdbound src) s = .next s) ∧
      (c.op = 4 → p = 1 → ∃ status, exec (.treCmdbound src) s
        = .next (stopCmd (s.setTree (dieOfSrc src) c.tid { t with drain := false }) engTre src c fltCmdBound 0 status)) ∧
      (c.op = 1 → p = 0 → ∃ status, exec (.treCmdbound src) s = .next (stopCmd s engTre src c fltCmdBound 0 status)) ∧
      (c.op = 1 → 1 ≤ p → p ≤ 4 → ¬(p = 4 ∧ (s.walkOf src).status = 1) →
        let k := s.walkOf src
        let u := undoPath (c.treeRef (dieOfSrc src) k.words) (if p = 3 then k.path.drop k.child else k.path) s
        ∃ status, exec (.treCmdbound src) s = .next (stopCmd (u.setTree (dieOfSrc src) c.tid
          { u.tree (dieOfSrc src) c.tid with infl := (u.tree (dieOfSrc src) c.tid).infl - 1 }) engTre src c fltCmdBound 0 status)) ∧
      (c.op = 1 → p = 5 → ∃ status, exec (.treCmdbound src) s
        = .next (stopCmd (countBatch (dieOfSrc src) c.tid s) engTre src c fltCmdBound 0 status))) ∧
    (∀ c, Runs s engCtx src c → c.op = 3 → boundDue s engCtx src 0 = true →
      ∃ status, exec (.ctxCmdbound src) s = .next (stopCmd s engCtx src c fltCmdBound 0 status)) ∧
    (∀ eng c code addr status, c.task = none → c.hand = false → pusherLive s c = true →
      let u := stopCmd s eng src c code addr status
      (u.estream eng src).run = some c ∧ (u.estream eng src).stopped = true ∧ (u.estream eng src).code = code ∧
        ∃ p : Pend, (u.thread c.core c.slot).pends = (s.thread c.core c.slot).pends ++ [p] ∧
          p.code = code ∧ p.eng = eng ∧ p.index = c.index ∧ p.addr = addr ∧ p.weak = false) ∧
    (let st := s.estream engMat src
     let m := s.mat src
     let left := { m with headBad := false, runs := m.runs.filter fun r => r.stage != 4 }
     let goes := fun (q : List Cmd) => { st with queue := q, stopped := false, code := 0 }
     exec (.matFlush src) s = .next ((s.setMat src left).setEstream engMat src (goes [])) ∧
     (st.stopped = true →
       exec (.matSkip src) s = .next ((s.setMat src left).setEstream engMat src (goes (if m.headBad then st.queue.tail else st.queue))) ∧
       exec (.matResume src) s = .next (holdGroups ((s.setMat src { m with
         headBad := false, runs := m.runs.map fun r => if r.stage = 4 then { r with stage := 0, since := engClock s engMat src } else r }).setEstream
           engMat src (goes st.queue)) src)) ∧
     (st.stopped = false → exec (.matSkip src) s = .next s ∧ exec (.matResume src) s = .next s))

/-! ### The compare unit, the attention engine and the sampler (09 R252-R256, 11 R300-R325, 12 R327-R344) -/

/-- 09 R253-R255: what CCRC, CCMP and CSTAT leave for their elements, and the fault of a line they cannot read. 12 R327-R341:
SAMPLE starts at its head once its checks pass, commits its token to the ring's entry k mod RCAP with the counter made k + 1 once
both places are checked (what the counter reads as once another agent has written it is log 2), ends with its element, is discarded with its fault, or waits for room in a ring; RING_WAIT_END ends
that wait, SMP_COMPLETE posts and keeps the element, SMP_ELEMENT_PLACE places it; one past its bound is discarded with
FLT_CMDBOUND. -/
def Obligations.CompareUnitAndSamplerResults : Prop :=
  (∀ (s s' s2 : State) (core : Nat) (c : Cmd) (as bs : List Byte) (code : Code) (a : W64) (o : Option State), Runs s engChk core c →
     let w := whoE engChk core c.ctx
     (c.op = 1 → readRange s w (c.w 1) (c.w 2).toNat = .ok (s', bs) →
       let v := crc32c bs
       let cmp := (c.w 0).getLsbD 46
       let hit := cmp && v == BitVec.ofNat 32 (bitsAt (c.w 0) 0 32)
       exec (.ccrc core) s = .next (workDone s' engChk core c
         (some [BitVec.ofNat 64 (v.toNat + hit.toNat * 2 ^ 32 + cmp.toNat * 2 ^ 33)]))) ∧
     (c.op = 1 → readRange s w (c.w 1) (c.w 2).toNat = .error (.flt code a o) →
       exec (.ccrc core) s = .next (stopCmd (o.getD s) engChk core c code a (chkStatus core))) ∧
     (c.op = 2 → readRange s w (c.w 1) (c.w 3).toNat = .ok (s', as) → readRange s' w (c.w 2) (c.w 3).toNat = .ok (s2, bs) →
       let d := List.zipWith (cmpDiffers (bitsAt (c.w 0) 45 2) (bitsAt (c.w 0) 0 32)) (elements (ccmpSize c) as) (elements (ccmpSize c) bs)
       let first := match d.findIdx? id with | some i => BitVec.ofNat 64 i | none => BitVec.allOnes 64
       exec (.ccmp core) s = .next (workDone s2 engChk core c (some [BitVec.ofNat 64 (d.countP id), first]))) ∧
     (c.op = 3 → exec (.cstat core) s = .next (workDone s engChk core c (some [
       BitVec.ofNat 64 ((s.chk (clusterOf core)).run.toNat + (s.chk (clusterOf core)).fail.toNat * 2 ^ 32),
       BitVec.ofNat 64 ((List.range 8).foldl (fun n i => n + (s.core (8 * clusterOf core + i)).suspect.toNat * 2 ^ i) 0)])))) ∧
  (∀ (s s' : State) (die : Nat) (c : Cmd),
     let st := s.estream engSmp die
     (st.run = none → st.queue.head? = some c → (s.smp die).kept.length < 128 → mayStart s engSmp die = true →
       let left := fun (u : State) => u.setEstream engSmp die { st.idle with queue := st.queue.tail }
       (pushDenied s engSmp c = true → exec (.sample die) s = .next (smpDiscard (left s) die c fltAccess 0)) ∧
       (pushDenied s engSmp c = false →
         (c.op ≠ 1 → exec (.sample die) s = .next (smpDiscard (left s) die c fltBadCmd 0)) ∧
         (∀ code a, c.op = 1 → sampleCheck c = some (code, a) → exec (.sample die) s = .next (smpDiscard (left s) die c code a)) ∧
         (c.op = 1 → sampleCheck c = none → sampleBegin die c s = (.ok (), s') →
           exec (.sample die) s = .next (startCmd s' engSmp die)) ∧
         (∀ code a, c.op = 1 → sampleCheck c = none → sampleBegin die c s = (.error (.flt code a), s') →
           exec (.sample die) s = .next (smpDiscard (left s') die c code a)))) ∧
     (st.run = some c → st.done = false → st.wait = 0 →
       (∀ ws, sampleEng die c s = (.ok ws, s') → exec (.sample die) s = .next (workDone s' engSmp die c ws)) ∧
       (∀ code a, sampleEng die c s = (.error (.flt code a), s') → exec (.sample die) s = .next (smpDiscard s' die c code a)) ∧
       (st.stopped = false → exec (.smpCmdbound die) s
         = .next (if boundDue s engSmp die 0 = true then smpDiscard s die c fltCmdBound 0 else s))) ∧
     (∀ (k : Nat) (s2 s3 s4 : State) (t : Nat) (ring ctr : List (Loc × Nat)), st.run = some c → st.done = false → st.wait = 0 →
       carried s engSmp die 0 = 1 → carried s engSmp die 1 = BitVec.ofNat 64 t → t < 2 ^ 32 →
       let w := whoE engSmp c.core c.ctx
       let r := (s.smp die).req
       r.haddr = 0 → readCounter die w r s = .ok (s2, k) →
       resolveNow s2 w (r.ring + BitVec.ofNat 64 (4 * (k % r.rcap))) 4 .write = .ok (s3, ring) →
       resolveNow s3 w r.caddr 8 .write = .ok (s4, ctr) →
       let n := (k + 1) % 2 ^ 64
       ∃ noted_ : List RingCtr, exec (.sample die) s = .next (workDone
         { writeAll (writeAll s4 ring (leBytes t 4)) ctr (leBytes n 8) with ringCtrs := noted_ } engSmp die c
         (noted c [BitVec.ofNat 64 t, BitVec.ofNat 64 n]))) ∧
     (∀ (k h : Nat) (s2 s3 : State), st.run = some c → st.wait ≠ 0 →
       let w := whoE engSmp c.core c.ctx
       let r := (s.smp die).req
       engVal w r.caddr 8 s = (.ok k, s2) → engVal w r.haddr 8 s2 = (.ok h, s3) →
       exec (.ringWaitEnd die) s
         = .next (if k < h + r.rcap then endWait s3 engSmp die else s3)) ∧
     (∀ e, st.run = some c → st.done = true → st.held = some e → c.task = none → parkRoom s c (if c.pen then 1 else 0) = true →
       let u := s.setEstream engSmp die st.idle
       let u := if c.pen then enginePost u c c.pctr 1 else u
       exec (.smpComplete die) s = .next (u.setSmp die { u.smp die with kept := (u.smp die).kept ++ [(c, e)] })) ∧
     (∀ e idx, (s.smp die).kept[idx]? = some (c, e) → ((s.smp die).kept.take idx).any (fun p => p.1.core == c.core) = false →
       elemRoom s engSmp c e = true →
       exec (.smpElementPlace die idx) s
         = .next (giveElem (s.setSmp die { s.smp die with kept := removeAt (s.smp die).kept idx }) engSmp c e)) ∧
     (∀ code a, c.task = none → c.hand = false → pusherLive s c = true →
       let u := smpDiscard s die c code a
       (u.estream engSmp die).run = none ∧ ∃ p : Pend, (u.thread c.core c.slot).pends = (s.thread c.core c.slot).pends ++ [p] ∧
         p.code = code ∧ p.eng = engSmp ∧ p.index = c.index ∧ p.addr = a))

/-- 11 R311-R321: an ATT command whose accesses succeed ends with the element its rule gives; one whose access faults stops
its stream; one that meets an allocation in progress or a layer not arrived waits, until ARRIVE_WAIT_END or BUSY_WAIT_END finds
the layers arrived or the allocation ended; a read of the awaited entry that faults stops the command (R324), and an ASTEP whose
block a BTTRIM has freed goes on (R323). Descriptors are read once, as the command starts: a wait does not read them again. -/
def Obligations.AttentionResults : Prop :=
  ∀ (s s1 s2 s3 s4 s5 s6 : State) (core : Nat) (c : Cmd),
    let w := attWho core c
    let ends := fun (t : State) (ws : List W64) => Host.Outcome.next (workDone t engAtt core c (noted c ws))
    (Runs s engAtt core c → ∀ m ∈ [(1, Instr.astep core, astepEng core c), (2, .btpost core, btpostEng core c),
        (3, .btfork core, btforkEng core c), (4, .btcommit core, btcommitEng core c), (5, .bttrim core, bttrimEng core c),
        (6, .btstat core, btstatEng core c)],
      c.op = m.1 →
      (∀ ws, m.2.2 s = (.ok ws, s1) → exec m.2.1 s = .next (workDone s1 engAtt core c ws)) ∧
      (∀ code a, m.2.2 s = (.error (.flt code a), s1) → exec m.2.1 s = .next (stopCmd s1 engAtt core c code a (attStatus core))) ∧
      (∀ k d, m.2.2 s = (.error (.wait k d), s1) → ∃ t, exec m.2.1 s = .next t ∧ (t.estream engAtt core).wait = k ∧
        (t.estream engAtt core).run = (s1.estream engAtt core).run)) ∧
    (∀ sd p, Runs s engAtt core c → c.op = 1 → c.app = false → (s.estream engAtt core).data = [] →
      readSeq w (c.w 1) s = (.ok sd, s1) → readPool w sd.pool s1 = (.ok p, s2) → c.kvHead < p.heads → c.kvLayer < p.layers →
      let r : AttRun := { sd := sd, pool := p, blk := bitsAt (c.w 7) 32 16 }
      ∃ u, attBegin core (astepFirst core c) s = (.ok r, u) ∧ u.att core = r) ∧
    (∀ r qs, Runs s engAtt core c → c.op = 1 → c.app = false → attBegin core (astepFirst core c) s = (.ok r, s1) →
      let p := r.pool
      let n := c.ntok * c.nhead
      let len := r.sd.len
      let win := bitsAt (c.w 7) 0 32
      let low := if win ≠ 0 ∧ win < len then len - win else 0
      let cnt := bitsAt (c.w 7) 48 16
      let hi := (len + 63) / 64
      let stop := if cnt = 0 then hi else min hi (bitsAt (c.w 7) 32 16 + cnt)
      let start : List WalkRow := (List.range n).map fun i => ⟨rowVals p.kfmt p.d ((qs.drop (i * p.rowK)).take p.rowK), len, low⟩
      astepLoad core c p s1 = (.ok qs, s2) →
      walkBlocks w core p c.kvLayer c.kvHead (BitVec.ofNat 32 (bitsAt (c.w 6) 0 32)) start (stop - r.blk) r.blk s2 = (.ok (), s3) →
      let k := s3.att core
      let outs := k.rows.map fun st => outRow c.omode (BitVec.ofNat 32 (bitsAt (c.w 6) 32 32)) st
      let ob := match c.omode with | 0 => 4 * p.d | 1 => 2 * p.d | _ => 64 + 4 * p.d
      let em := outs.map fun o => o.2.1
      let na := outs.map fun o => o.2.2
      k.cut = false → engWrite w (c.w 3) (outs.flatMap fun o => (o.1 ++ List.replicate (ob - o.1.length) 0)) s3 = (.ok (), s4) →
      exec (.astep core) s = ends s4
        [BitVec.ofNat 64 (n + em.countP id * 2 ^ 8 + na.countP id * 2 ^ 16 + k.blks % 2 ^ 24 * 2 ^ 24 + k.lev * 2 ^ 48),
          mapBits em 0, mapBits em 64, mapBits na 0, mapBits na 64]) ∧
    (∀ sd p, Runs s engAtt core c → c.op = 2 → readSeq w (c.w 1) s = (.ok sd, s1) → readPool w sd.pool s1 = (.ok p, s2) →
      let i := bitsAt (c.w 0) 0 16
      let a := entryAt sd.tbl i
      let adv := (c.w 0).getLsbD 45
      i < sd.tcap → (c.w 2).toNat < p.nblk → (adv = true → sd.len = 64 * i) → engAtomic w a 8 10 0 (2 ^ 34) s2 = (.ok 0, s3) →
      engWrite w (a + 8) (leBytes (c.w 3).toNat 8 ++ leBytes 0 16) s3 = (.ok (), s4) →
      engPut w a 8 (mappedWord ((c.w 0).getLsbD 46) (c.w 2).toNat) s4 = (.ok (), s5) →
      (adv = false → exec (.btpost core) s = ends s5 [BitVec.ofNat 64 sd.len]) ∧
      (∀ old, adv = true → engAtomic w (c.w 1) 4 10 sd.len (sd.len + 64) s5 = (.ok old, s6) →
        exec (.btpost core) s = ends s6 [BitVec.ofNat 64 (sd.len + 64)])) ∧
    (∀ pd old, Runs s engAtt core c → c.op = 3 → (s.estream engAtt core).data = [] → readSeq w (c.w 1) s = (.ok pd, s1) →
      carry engAtt core 0 1 (s1.setAtt core { sd := pd }) = (.ok (), s3) →
      let f := pd.len
      let tcap := bitsAt (c.w 0) 0 16 + 1
      pd.depth ≠ 4 → f ≤ 64 * tcap → f % 64 = 0 →
      engWrite w (c.w 2) (leBytes (f + (pd.depth + 1) * 2 ^ 32) 8 ++ leBytes (c.w 1).toNat 8 ++ leBytes f 8 ++ leBytes (c.w 3).toNat 8
        ++ leBytes tcap 8 ++ leBytes pd.pool.toNat 8 ++ leBytes 0 16) s3 = (.ok (), s4) →
      engAtomic w (c.w 1 + 20) 4 0 1 0 s4 = (.ok old, s5) → exec (.btfork core) s = ends s5 [BitVec.ofNat 64 f]) ∧
    (∀ sd old, Runs s engAtt core c → c.op = 4 → readSeq w (c.w 1) s = (.ok sd, s1) →
      let n := sd.len + bitsAt (c.w 0) 0 4 + 1
      n ≤ 64 * sd.tcap → engAtomic w (c.w 1) 4 10 sd.len n s1 = (.ok old, s2) → exec (.btcommit core) s = ends s2 [BitVec.ofNat 64 n]) ∧
    (∀ sd old k, Runs s engAtt core c → c.op = 5 → readSeq w (c.w 1) s = (.ok sd, s1) → sd.children = 0 →
      let new := bitsAt (c.w 0) 0 32
      ((c.w 0).getLsbD 46 = false → new ≤ sd.len → sd.forklen ≤ new →
        trimEntries w sd.tbl (c.w 2) (min sd.tcap ((sd.len + 63) / 64 + 1) - (new + 63) / 64) ((new + 63) / 64) 0 s1 = (.ok k, s2) →
        engAtomic w (c.w 1) 4 9 new 0 s2 = (.ok old, s4) → exec (.bttrim core) s = ends s4 [BitVec.ofNat 64 (k + new * 2 ^ 32)]) ∧
      ((c.w 0).getLsbD 46 = true → sd.parent = 0 → trimEntries w sd.tbl (c.w 2) sd.tcap 0 0 s1 = (.ok k, s2) →
        engPut w (c.w 1) 8 (sd.depth * 2 ^ 32 + 2 ^ 35) s2 = (.ok (), s4) → exec (.bttrim core) s = ends s4 [BitVec.ofNat 64 k])) ∧
    (∀ sd p e lev, Runs s engAtt core c → c.op = 6 → (s.estream engAtt core).data = [] → readSeq w (c.w 1) s = (.ok sd, s1) →
      readPool w sd.pool s1 = (.ok p, s2) → carry engAtt core 0 1 (s2.setAtt core { sd := sd, pool := p }) = (.ok (), s3) →
      (attResolve w core (bitsAt (c.w 0) 0 16) s3 = (.ok none, s4) →
        exec (.btstat core) s = .next (workDone s4 engAtt core c (some [0, 0, wordAt sd.words 0, wordAt sd.words 2]))) ∧
      (attResolve w core (bitsAt (c.w 0) 0 16) s3 = (.ok (some (e, lev)), s4) →
        exec (.btstat core) s = .next (workDone s4 engAtt core c
          (some [setBits e.w0 61 3 lev, e.vmask, wordAt sd.words 0, wordAt sd.words 2])))) ∧
    (∀ e, readEntry w (carried s engAtt core 8) 0 s = (.ok e, s1) →
      (Waits s engAtt core c waitArr → ¬(c.op = 1 ∧ (s.att core).cut = true) →
        let lo := (carried s engAtt core 10).toNat
        let hi := (carried s engAtt core 11).toNat
        exec (.arriveWaitEnd core) s
          = .next (if ((List.range (hi + 1 - lo)).all fun k => e.arrive.testBit (lo + k)) = true then endWait s1 engAtt core else s1)) ∧
      (Waits s engAtt core c waitBusy → exec (.busyWaitEnd core) s = .next (if e.busy then s1 else endWait s1 engAtt core))) ∧
    (∀ code a, readEntry w (carried s engAtt core 8) 0 s = (.error (.flt code a), s1) →
      (Waits s engAtt core c waitArr → ¬(c.op = 1 ∧ (s.att core).cut = true) →
        exec (.arriveWaitEnd core) s = .next (stopCmd s1 engAtt core c code a (attStatus core))) ∧
      (Waits s engAtt core c waitBusy → exec (.busyWaitEnd core) s = .next (stopCmd s1 engAtt core c code a (attStatus core)))) ∧
    (Waits s engAtt core c waitArr → c.op = 1 → (s.att core).cut = true → exec (.arriveWaitEnd core) s = .next (endWait s engAtt core))

/-! ### The matrix engine (09 R235-R250, R258-R261) -/

/-- 09 R238, R240, R242, R243, R261: a MAT queue's head that nothing holds up starts; one whose checks fail stops the queue; MSWAP
changes the active bank as it starts. -/
def Obligations.MatrixCommandsStart : Prop :=
  ∀ (s : State) (core : Nat) (c : Cmd),
    let m := s.mat core
    let st := s.estream engMat core
    st.queue.head? = some c → st.stopped = false → matGoes s core = true →
    (∀ p ∈ [(1, Instr.mmul core), (2, .mloadw core), (3, .mswap core), (4, .mdrain core), (5, .mkat core)],
      (m.runs.findIdx? fun r => r.cmd.op == p.1 && r.stage == 0) = none →
      (c.op = p.1 → matHold s core c = .ok () → exec p.2 s = .next (matStart s core c)) ∧
      (matHold s core c = .error .wait → exec p.2 s = .next s) ∧
      (∀ code a o, matHold s core c = .error (.flt code a o) → exec p.2 s
        = .next (matStop (s.setMat core { m with headBad := true }) core c code (matAddr s core code a)))) ∧
    (c.op = 3 → m.runs = [] → matHold s core c = .ok () → c.matPen = false →
      ∃ t, exec (.mswap core) s = .next t ∧ (t.mat core).active = 1 - m.active ∧ (t.mat core).bank0 = m.bank0 ∧
        (t.mat core).bank1 = m.bank1 ∧ (t.mat core).acc = m.acc ∧ (t.estream engMat core).queue = st.queue.tail) ∧
    (c.op = 2 → m.runs = [] → matHold s core c = .ok () →
      ∃ t, exec (.mloadw core) s = .next t ∧ ((t.mat core).bank c.matSet).valid = false ∧ (t.mat core).active = m.active ∧
        (t.mat core).runs = [{ cmd := c, stage := 0, bank := m.active, since := engClock s engMat core }])

/-- 09 R239, R242, R244, R245, R249, R250, R258, R261: the work of each MAT command, what a marked line makes it ask for, its
completion and its stops. An MMUL's work waits for every earlier MDRAIN of its set, a stopped one with them (R238; log 28). -/
def Obligations.MatrixCommandsWork : Prop :=
  ∀ (s s' : State) (core idx : Nat) (r : MatRun) (rows : List (List Nat × List (BitVec 20))),
    let m := s.mat core
    let c := r.cmd
    let turn := fun (op : Nat) => (m.runs.findIdx? fun r => r.cmd.op == op && r.stage == 0) = some idx
    m.runs[idx]? = some r → (s.estream engMat core).stopped = false →
    (turn 1 → m.drainsFirst idx r = true → exec (.mmul core) s = .next s) ∧
    (turn 1 → m.drainsFirst idx r = false →
      (readOperand s core c = .ok rows → ∃ t, exec (.mmul core) s = .next t ∧
        (t.mat core).runs = m.runs.set idx { r with stage := 1 } ∧
        let w := (m.bank r.bank).rows.map (passValues (m.bank r.bank).fmt)
        ∀ set i, i < 128 → (t.mat core).accRow set i =
          if set = c.matSet ∧ i < rows.length then
            mulRow (if (c.w 0).getLsbD 40 then List.replicate 128 0 else m.accRow c.matSet i)
              (passValues c.matFmtCode (rows.getD i ([], []))) w
          else m.accRow set i) ∧
      (∀ line, readOperand s core c = .error line →
        exec (.mmul core) s = .next (setRun s core idx { r with stage := 3, asks := some line, answer := none, paused := engClock s engMat core }))) ∧
    (turn 2 →
      (readOperand s core c = .ok rows → exec (.mloadw core) s
        = .next (setRun (s.setMat core (m.setBank c.matSet ⟨true, c.matFmtCode, rows⟩)) core idx { r with stage := 1 })) ∧
      (∀ line, readOperand s core c = .error line →
        exec (.mloadw core) s = .next (setRun s core idx { r with stage := 3, asks := some line, answer := none, paused := engClock s engMat core }))) ∧
    ((takeLost s core).mat core).lost = 0 ∧
    (∀ s0 es vecs tab, s0 = takeLost s core → turn 4 → readProgram s0 core c = .ok es → epiLoads s0 core es = .ok (vecs, tab) →
      (drainRows core m.lost c es vecs tab c.matRows 0 s0 = (s', none) → (s'.mat core).runs = m.runs →
        exec (.mdrain core) s = .next (setRun s' core idx { r with stage := 1 })) ∧
      (m.lost = 1 → 0 < c.matRows → exec (.mdrain core) s = .next (matStopRun s0 core idx r fltUncorr 0))) ∧
    (turn 5 →
      let k := s.chk (clusterOf core)
      let ok := katCrc (c.w 2) = BitVec.ofNat 32 (bitsAt (c.w 3) 0 32)
      (ok → ∃ t, exec (.mkat core) s = .next t ∧ t.chk (clusterOf core) = { k with run := k.run + 1 } ∧
        (t.mat core).katok = min 255 (m.katok + 1) ∧ (t.mat core).runs = m.runs.set idx { r with stage := 1 }) ∧
      (¬ok → ∃ t, exec (.mkat core) s = .next t ∧ t.chk (clusterOf core) = ⟨k.run + 1, k.fail + 1⟩ ∧
        (t.core core).suspect = true ∧ (t.estream engMat core).stopped = true ∧ (t.estream engMat core).code = fltKat)) ∧
    (r.stage = 1 → m.runs = [r] → idx = 0 →
      ∃ t, exec (.matComplete core idx) s = .next t ∧ (t.mat core).runs = [] ∧
        ∀ k, k < 32 → ctrOf t core k = if c.matPen = true ∧ k = c.matPctr then ctrOf s core k + c.matAmount else ctrOf s core k) ∧
    ((m.runs.findIdx? fun r => r.stage == 3 && r.answer.isSome) = some idx →
      let back : MatRun := { r with stage := 0, asks := none, answer := none, since := r.since + (engClock s engMat core - r.paused) }
      (r.answer = some true → exec (.matRefillResult core) s
        = .next (setRun (s.setMat core { m with retry := min 255 (m.retry + 1) }) core idx back)) ∧
      (r.answer = some false → exec (.matRefillResult core) s
        = .next (matStopRun s core idx r fltUncorr (uncorrAddr s core (BitVec.ofNat 64 (r.asks.getD 0)))))) ∧
    (m.runs.findIdx? (MatRun.late s core) = some idx → exec (.matCmdbound core) s = .next (matStopRun s core idx r fltCmdBound 0)) ∧
    (m.runs.findIdx? (MatRun.late s core) = none → exec (.matCmdbound core) s = .next s) ∧
    ∀ code a, m.runs = [r] → idx = 0 →
      let u := matStopRun s core idx r code a
      (u.estream engMat core).stopped = true ∧ (u.estream engMat core).code = code ∧
        (u.estream engMat core).queue = (s.estream engMat core).queue ∧
        (u.mat core).runs = [{ r with stage := 4, asks := none, answer := none }] ∧ (u.mat core).active = m.active

/-! ### Chain engines (08 R213-R232) -/

/-- 08 R217-R224, R226, R227: a channel's entry whose wait holds starts and takes its identifier; one whose wait does not hold
waits; a malformed one stops the channel; a data entry's movement done, it waits for CHAIN_ENTRY_COMPLETE or, in a hinged chain,
for its phase; HINGE commits a phase; LINK jumps or ends the chain. -/
def Obligations.ChainEntriesRun : Prop :=
  ∀ (s s' : State) (core eng ch : Nat) (k : Cmd) (ws : List W64),
    (eng = 1 ∨ eng = 2) → ch < 4 →
    let c := s.chan core eng ch
    let w := chanWho eng core k false
    let sf := flushPosts s core eng ch
    let cf := sf.chan core eng ch
    c.kick = some k → c.refill = none →
    (c.state = 1 ∨ c.state = 2 → chanGoes s core eng = true →
      (∀ p ∈ [(1, Instr.copy core eng ch), (2, .gather core eng ch), (3, .scatter core eng ch), (4, .coord core eng ch)],
        (fetchFor s eng core c k = .entry s' ws → entryKind ws = p.1 → entryReady s' core c ws = true →
          ∃ t, exec p.2 s = .next t ∧ (t.chan core eng ch).state = 3 ∧ (t.chan core eng ch).entry = ws ∧
            (t.chan core eng ch).issued = (if c.again || c.named then c.issued else c.issued + 1) ∧ (t.chan core eng ch).done = c.done) ∧
        (fetchFor s eng core c k = .entry s' ws → entryKind ws = p.1 → entryReady s' core c ws = false →
          exec p.2 s = .next (s'.setChan core eng ch { c with state := 2, entry := ws })) ∧
        (∀ code a len, fetchFor s eng core c k = .bad s' code a len →
          exec p.2 s = .next (stopChan s' core eng ch { c with badLen := some len } code a))) ∧
      (fetchFor s eng core c k = .entry s' ws → entryKind ws = 5 → entryReady s' core c ws = true → c.poisoned = false →
        ∃ t, exec (.hinge core eng ch) s = .next t ∧ (t.chan core eng ch).done = c.issued ∧
          (t.chan core eng ch).phase = c.phase + 1 ∧ (t.chan core eng ch).ptr = c.ptr + 64 ∧ (t.chan core eng ch).first = c.ptr + 64 ∧
          (t.chan core eng ch).posts = [] ∧ (t.chan core eng ch).transfers = 0 ∧ (t.chan core eng ch).state = 1 ∧
          (t.chan core eng ch).held.getLast? = some ⟨k, c.first, c.phase, (wordAt ws 2).toNat, (wordAt ws 3).toNat, c.runs + 1⟩) ∧
      (fetchFor s eng core c k = .entry s' ws → entryKind ws = 5 → entryReady s' core c ws = true → c.poisoned = true → c.runs < 2 →
        ∃ t, exec (.hinge core eng ch) s = .next t ∧ (t.chan core eng ch).ptr = c.first ∧ (t.chan core eng ch).runs = c.runs + 1 ∧
          (t.chan core eng ch).rcnt = min 255 (c.rcnt + 1) ∧ (t.chan core eng ch).done = c.done ∧ (t.chan core eng ch).poisoned = false) ∧
      (chanGoes sf core eng = true → fetchFor sf eng core cf k = .entry s' ws → entryKind ws = 6 → entryReady s' core cf ws = true →
        (entryToq ws = false → ∃ t, exec (.link core eng ch) s = .next t ∧ (t.chan core eng ch).ptr = wordAt ws 2 ∧
          (t.chan core eng ch).state = 1 ∧ (t.chan core eng ch).issued = c.issued) ∧
        (entryToq ws = true → c.hinged = false → ((k.w 0).getLsbD 54 = false ∨
            elemRoom s' eng k (elemOf k [BitVec.ofNat 64 (c.done.toNat + ch * 2 ^ 32)]) = true) →
          ∃ t, exec (.link core eng ch) s = .next t ∧
            (c.pend = [] → (t.chan core eng ch).kick = none ∧ (t.chan core eng ch).state = 0) ∧
            (∀ k' rest, c.pend = k' :: rest → (t.chan core eng ch).kick = some k' ∧ (t.chan core eng ch).ptr = k'.w 1 ∧
              (t.chan core eng ch).state = 1 ∧ (t.chan core eng ch).pend = rest)) ∧
        (entryToq ws = true → c.hinged = false → (k.w 0).getLsbD 54 = true →
          elemRoom s' eng k (elemOf k [BitVec.ofNat 64 (c.done.toNat + ch * 2 ^ 32)]) = false →
          ∃ t, exec (.link core eng ch) s = .next t ∧ (t.chan core eng ch).kick = some k ∧ chainHeld t core eng = true ∧
            chanGoes t core eng = false))) ∧
    (∀ (g : Nat) (bad : Bool), c.state = 3 → c.moved = false → c.asks = none → chainHeld s core eng = false →
      (eng = 2 → markedSource s core c.entry (entryPlan s w c.entry).beats = none) →
      let c' : Chan := { c with
        given := g, askFailed := false, poisoned := c.poisoned || bad
        since := c.since + (c.stall.map (engClock s eng core - ·)).getD 0, stall := none }
      ∀ p ∈ [(1, Instr.copy core eng ch), (2, .gather core eng ch), (3, .scatter core eng ch), (4, .coord core eng ch)],
        entryKind c.entry = p.1 →
        (runEntry s eng w k c.entry (!c.hinged) (!c.again) c.given = ⟨s', g, bad, none⟩ →
          (c.hinged = false → exec p.2 s = .next (s'.setChan core eng ch { c' with moved := true })) ∧
          (c.hinged = true → exec p.2 s = .next
            (endEntry (s'.setChan core eng ch c') core eng ch c.entry (c.ptr + BitVec.ofNat 64 (entryLen c.entry))))) ∧
        (∀ code a o, runEntry s eng w k c.entry (!c.hinged) (!c.again) c.given = ⟨s', g, bad, some (.flt code a o)⟩ →
          exec p.2 s = .next (stopChan s' core eng ch c' code a)) ∧
        (runEntry s eng w k c.entry (!c.hinged) (!c.again) c.given = ⟨s', g, bad, some .wait⟩ →
          exec p.2 s = .next (s'.setChan core eng ch { c' with stall := some (engClock s eng core) }))) ∧
    (∀ (s2 s3 : State) (bytes : List Byte), c.state = 3 → c.moved = false → c.asks = none → chainHeld s core eng = false → eng = 1 → c.hinged = false →
      entryKind c.entry = 1 → entryToq c.entry = false → wordAt c.entry 4 = 64 → (wordAt c.entry 3).toNat < spadSize →
      readPiece s w (wordAt c.entry 2) 64 = .ok (s2, bytes, false) → writePiece s2 w (wordAt c.entry 3) bytes false = .ok s3 →
      exec (.copy core eng ch) s = .next (s3.setChan core eng ch { c with
        askFailed := false, moved := true, since := c.since + (c.stall.map (engClock s eng core - ·)).getD 0, stall := none })) ∧
    (c.state = 3 → c.moved = true → c.hinged = false → ∃ t, exec (.chainEntryComplete core eng ch) s = .next t ∧
      (t.chan core eng ch).done = (if c.named then c.issued else c.done) ∧
      (t.chan core eng ch).ptr = c.ptr + BitVec.ofNat 64 (entryLen c.entry) ∧ (t.chan core eng ch).state = 1 ∧
      ∀ i, i < 32 → ctrOf t core i = ctrOf s core i +
        (match if c.again then none else entryPost c.entry with | some (n, v) => if n = i then v else 0 | none => 0)) ∧
    (c.state = 3 → c.moved = false → queueWait s c k = false → pastBound (c.stall.getD (engClock s eng core) - c.since) 0 = true →
      ∃ t, exec (.chainCmdbound core eng ch) s = .next t ∧ (t.chan core eng ch).state = 5 ∧
      (t.chan core eng ch).code = fltCmdBound ∧ (t.chan core eng ch).kick = some k ∧ (t.chan core eng ch).done = c.done)

/-- 08 R215, R216, R228, R230, R231: CKICK starts an idle channel or joins its pending list, CRESUME starts a stopped entry again
or skips it, CABORT leaves the channel idle with DONE = ISSUED; a refill of a held phase is taken up, and its outcome reported. -/
def Obligations.ChainCommandsAct : Prop :=
  ∀ (s : State) (core eng : Nat) (cmd : Cmd) (rest : List Cmd), (eng = 1 ∨ eng = 2) →
    let st := s.estream eng core
    let ch := bitsAt (cmd.w 0) 56 2
    let c := s.chan core eng ch
    let s1 := s.setEstream eng core { st with queue := rest }
    (st.queue = cmd :: rest → chainHeld s core eng = false →
      (pushDenied s eng cmd = true → ∀ i ∈ [Instr.ckick core eng, .cresume core eng, .cabort core eng], exec i s
        = .next (engineFault s1 eng { cmd with index := ch * 2 ^ 30 + 0x3FFFFFFF } fltAccess c.status 0)) ∧
      (pushDenied s eng cmd = false → chainCmdBad cmd = true → ∀ i ∈ [Instr.ckick core eng, .cresume core eng, .cabort core eng], exec i s
        = .next (engineFault s1 eng { cmd with index := ch * 2 ^ 30 + 0x3FFFFFFF } fltBadCmd c.status 0)) ∧
      (pushDenied s eng cmd = false → chainCmdBad cmd = false → chanGoes s core eng = true →
        (cmd.op = 1 → c.kick = none → exec (.ckick core eng) s = .next (s1.setChan core eng ch (c.begin cmd)) ∧
          (c.begin cmd).kick = some cmd ∧ (c.begin cmd).ptr = cmd.w 1 ∧ (c.begin cmd).state = 1 ∧ (c.begin cmd).issued = c.issued) ∧
        (cmd.op = 1 → c.kick ≠ none → c.pend.length < 2 →
          exec (.ckick core eng) s = .next (s1.setChan core eng ch { c with pend := c.pend ++ [cmd] })) ∧
        (cmd.op = 1 → c.kick ≠ none → 2 ≤ c.pend.length → exec (.ckick core eng) s = .next s) ∧
        (∀ k, cmd.op = 2 → c.kick = some k → c.state = 5 →
          ((cmd.w 0).getLsbD 55 = false → c.third = false → exec (.cresume core eng) s = .next (s1.setChan core eng ch { c with
            state := 1, code := 0, badLen := none, moved := false, askFailed := false, entry := [], ahead := [] })) ∧
          ((cmd.w 0).getLsbD 55 = false → c.third = true →
            exec (.cresume core eng) s = .next (s1.setChan core eng ch (rerunPhase c 0 c.rcnt))) ∧
          (∀ len, (cmd.w 0).getLsbD 55 = true → c.badLen = some len → ∃ t, exec (.cresume core eng) s = .next t ∧
            (t.chan core eng ch).ptr = c.ptr + BitVec.ofNat 64 len ∧ (t.chan core eng ch).state = 1)) ∧
        (cmd.op = 2 → (c.kick = none ∨ c.state ≠ 5) → exec (.cresume core eng) s = .next s1) ∧
        (cmd.op = 3 → c.refill = none → ∃ t, exec (.cabort core eng) s = .next t ∧ (t.chan core eng ch).kick = none ∧
          (t.chan core eng ch).state = 0 ∧ (t.chan core eng ch).pend = [] ∧ (t.chan core eng ch).held = [] ∧
          (t.chan core eng ch).done = c.issued ∧ (t.chan core eng ch).issued = c.issued))) ∧
    ∀ (line : Nat) (forMat : Bool),
      (waitsFor s core line = some forMat → holderOf s core line = none →
        exec (.refillRequest core line) s = .next (answerLine s core line false)) ∧
      (∀ n h, waitsFor s core line = some forMat → holderOf s core line = some (n, h) →
        let d := s.chan core 1 n
        (d.state = 5 ∨ 3 ≤ h.runs → exec (.refillRequest core line) s = .next (answerLine s core line false)) ∧
        (d.state ≠ 5 → h.runs < 3 → d.refill = none → (d.state ≠ 3 ∨ d.moved = true) →
          ∃ t, exec (.refillRequest core line) s = .next t ∧ (t.chan core 1 n).rcnt = min 255 (d.rcnt + 1) ∧
            ∃ r, (t.chan core 1 n).refill = some r ∧ r.index = h.index ∧ r.line = line ∧ r.kick = h.kick ∧ r.ptr = h.first)) ∧
      ∀ n r ok, n < 4 → (s.chan core eng n).refill = some r → r.outcome = some ok →
        exec (.refillDone core eng n) s
          = .next (answerLine (s.setChan core eng n { s.chan core eng n with refill := none }) core r.line ok)

/-! ### Queue managers (10 R264-R297) -/

/-- 10 R266, R269, R270, R289-R297: a QMG stream's head, in its word count, is applied: PUBLISH accepts its record or carries it to
the other die, NEST generates its tasks, GRID creates, resets and destroys, LATTICE sets a mask, FRAME turns the counter, CANCEL
ends the tasks it matches, STATUS answers; a fault stops the stream. The clocks that STATUS's placement counters count are log 27's
(DESIGN CHOICE), and which tasks CANCEL's COUNT counts as removed and as stopped is log 40's (DEDUCED): the model's choices. -/
def Obligations.QmgCommandsApplied : Prop :=
  ∀ (s s' : State) (core : Nat) (c : Cmd), nextCmd s engQmg core = some c →
    (pushDenied s engQmg c = true → ∀ i ∈ [Instr.publish core, .nest core, .gridCreate core, .gridReset core, .gridDestroy core,
      .lattice core, .frameGo core, .frameStop core, .frameSetbase core, .cancel core, .status core],
      exec i s = .next (qmgStop s core c fltAccess)) ∧
    (pushDenied s engQmg c = false → c.words.length = qmgWords c.op → qmgWords c.op ≠ 0 →
    let die := dieOf core
    let q := s.qmg die
    let st := s.estream engQmg core
    let w := whoE engQmg core c.ctx
    let stops := fun (code : Code) => Host.Outcome.next (qmgStop s core c code)
    (c.op = 1 → st.prog ≠ 1 →
      (∀ code, recDie c.words = die → publishFault q c.ctx c.words false = some code → exec (.publish core) s = stops code) ∧
      (recDie c.words = die → publishFault q c.ctx c.words false = none → q.tasks.length < 65536 →
        exec (.publish core) s = .next (qmgDone (accept s die c.ctx c.words) core) ∧
        taskOf (accept s die c.ctx c.words) die (lowestFree q.tasks q.tasks.length 0) = some (evaluate q s.now
          { words := c.words, ctx := c.ctx, mask := (latticeMask q c.ctx (recSlot c.words)).getD [], seq := q.seq })) ∧
      (recDie c.words = die → publishFault q c.ctx c.words false = none → 65536 ≤ q.tasks.length →
        exec (.publish core) s = .next (qmgProg s core 0 2 [])) ∧
      (recDie c.words ≠ die → ∃ t, exec (.publish core) s = .next t ∧
        (t.qmg (1 - die)).carry = (s.qmg (1 - die)).carry ++ [⟨core, c.ctx, c.words, false⟩] ∧ (t.estream engQmg core).prog = 1)) ∧
    (∀ bs, c.op = 2 → bitsAt (c.w 0) 0 25 = 0 → bitsAt (c.w 2) 32 32 = 0 → (c.w 1).toNat % 64 = 0 →
      bitsAt (c.w 0) 49 8 ≤ bitsAt (c.w 0) 41 8 → bitsAt (c.w 0) 33 8 ≤ bitsAt (c.w 0) 25 8 →
      (st.data = [] → readMem s w (c.w 1) 64 = .ok (s', bs) →
        exec (.nest core) s = .next (match nestFault s' c (wordsOf 8 bs) with
          | some code => qmgStop s' core c code
          | none => qmgProg s' core 0 0 (wordsOf 8 bs))) ∧
      (st.data ≠ [] → let r := nestRecord st.data (c.w 0) (c.w 2) st.prog
        (∀ code, publish s (recDie r) c.ctx r = .fault code → exec (.nest core) s = stops code) ∧
        (publish s (recDie r) c.ctx r = .accepted s' → exec (.nest core) s
          = .next (if nestCount (c.w 0) ≤ st.prog + 1 then qmgDone s' core else qmgProg s' core (st.prog + 1) 0 st.data)))) ∧
    (c.op = 3 → let n := bitsAt (c.w 0) 50 6
      (gridOp c = 0 → bitsAt (c.w 0) 0 34 = 0 → (c.w 1).toNat % 8192 = 0 → Tab.find q.grids n = none →
        zeroJournal s w (c.w 1) = .ok s' → exec (.gridCreate core) s = .next (qmgDone (setGrid s' die n
          { ctx := c.ctx, w := bitsAt (c.w 0) 42 8 + 1, h := bitsAt (c.w 0) 34 8 + 1, journal := c.w 1 }) core)) ∧
      (∀ g, Tab.find q.grids n = some g → g.ctx = c.ctx → g.dead = false → bitsAt (c.w 0) 0 50 = 0 → c.w 1 = 0 →
        gridTasks s die n = [] →
        (gridOp c = 2 → zeroJournal s w g.journal = .ok s' →
          exec (.gridReset core) s = .next (qmgDone (setGrid s' die n { g with rows := [] }) core)) ∧
        (gridOp c = 1 → exec (.gridDestroy core) s = .next (qmgDone (s.setQmg die { q with grids := Tab.drop q.grids n }) core))) ∧
      (∀ g, Tab.find q.grids n = some g → g.ctx ≠ c.ctx →
        (bitsAt (c.w 0) 0 34 = 0 → (c.w 1).toNat % 8192 = 0 → gridOp c = 0 → exec (.gridCreate core) s = stops fltAccess) ∧
        (bitsAt (c.w 0) 0 50 = 0 → c.w 1 = 0 → st.prog = 0 → (gridOp c = 2 → exec (.gridReset core) s = stops fltAccess) ∧
          (gridOp c = 1 → exec (.gridDestroy core) s = stops fltAccess)))) ∧
    (∀ os, c.op = 4 → maskOffsets (leBytes (c.w 1).toNat 8 ++ leBytes (c.w 2).toNat 8) = some os →
      bitsAt (c.w 0) 50 8 ≠ 0 → bitsAt (c.w 0) 0 50 = 0 → exec (.lattice core) s = .next (qmgDone (s.setQmg die
        { q with lattice := Tab.set q.lattice (c.ctx * 256 + bitsAt (c.w 0) 50 8) os }) core)) ∧
    (c.op = 4 → maskOffsets (leBytes (c.w 1).toNat 8 ++ leBytes (c.w 2).toNat 8) = none ∨ bitsAt (c.w 0) 50 8 = 0 ∨ bitsAt (c.w 0) 0 50 ≠ 0 →
      exec (.lattice core) s = stops fltBadCmd) ∧
    (c.op = 5 → bitsAt (c.w 0) 0 56 = 0 →
      let settled := fun (u : State) (v : Qmg) => Host.Outcome.next (frameSettle (qmgDone (u.setQmg die v) core) die)
      (∀ u, readGrant s c.ctx 5 = .ok (u, true) → let v := u.qmg die
        (bitsAt (c.w 0) 56 2 = 0 → c.w 1 = 0 → exec (.frameGo core) s
          = settled u { v with hold := false, tick := if frameRuns v then v.tick else s.now / 128 }) ∧
        (bitsAt (c.w 0) 56 2 = 1 → c.w 1 = 0 → exec (.frameStop core) s = settled u { v with hold := true }) ∧
        (bitsAt (c.w 0) 56 2 = 2 → exec (.frameSetbase core) s = settled u { v with frame := c.w 1 })) ∧
      (∀ u, readGrant s c.ctx 5 = .ok (u, false) → bitsAt (c.w 0) 56 2 = 2 →
        exec (.frameSetbase core) s = .next (qmgStop u core c fltAccess)) ∧
      (∀ u bad, readDesc s c.ctx = (u, some bad) → bitsAt (c.w 0) 56 2 = 2 →
        exec (.frameSetbase core) s = .next (qmgStop u core c bad))) ∧
    (c.op = 6 → st.data = [] →
      (∀ code, cancelFault s core c = some code → exec (.cancel core) s = stops code) ∧
      (cancelFault s core c = none →
        let live := q.tasks.filter fun kv => cancelMatch c kv.2 && !kv.2.cancelled && ownTask s c != some (die, kv.1)
        let u := cancelAll s die (live.map Prod.fst)
        let gone := live.countP fun kv => kv.2.state != 4
        let count := BitVec.ofNat 64 (gone % 65536 + (live.length - gone) % 65536 * 65536)
        let seqs := live.map fun kv => BitVec.ofNat 64 kv.2.seq
        exec (.cancel core) s = .next (if (u.qmg die).tasks.any fun kv => seqs.contains (BitVec.ofNat 64 kv.2.seq)
          then qmgProg u core 1 0 (count :: seqs) else qmgElem u core c [count]))) ∧
    (∀ e t, taskOf s die e = some t → t.state ≠ 4 → taskOf (cancelTask s die e) die e = none ∧
      ∀ e', e' ≠ e → taskOf (cancelTask s die e) die e' = taskOf s die e') ∧
    (∀ e t, taskOf s die e = some t → t.state = 4 → recKind t.words = 0 → runsEntry (s.thread t.core t.slot) die e t = true →
      let h := s.thread t.core t.slot
      let h' := (cancelTask s die e).thread t.core t.slot
      h'.cancelled = true ∧ h'.saq = dropUnfed (h.setAside ++ h.saq) ∧ h'.setAside = []) ∧
    (c.op = 7 → bitsAt (c.w 0) 0 36 = 0 → let g := Tab.find q.grids (bitsAt (c.w 0) 49 6)
      (bitsAt (c.w 0) 55 3 = 1 → exec (.status core) s = .next (qmgElem s core c [q.frame, qstatWord s die,
        BitVec.ofNat 64 (q.tasks.countP fun kv => kv.2.ctx == c.ctx && recTimed kv.2.words)])) ∧
      (∀ v, g = some v → v.ctx = c.ctx →
        (bitsAt (c.w 0) 55 3 = 0 → bitsAt (c.w 0) 41 8 < v.h →
          exec (.status core) s = .next (qmgElem s core c (rowWords (Tab.get 0 v.rows (bitsAt (c.w 0) 41 8))))) ∧
        (bitsAt (c.w 0) 55 3 = 3 → exec (.status core) s = .next (qmgElem s core c
          [BitVec.ofNat 64 ((v.w - 1) * 256 + (v.h - 1) + v.dead.toNat * 2 ^ 16 + (!v.dead).toNat * 2 ^ 17),
            BitVec.ofNat 64 (gridTasks s die (bitsAt (c.w 0) 49 6)).length]))) ∧
      (∀ v, g = some v → v.ctx ≠ c.ctx → bitsAt (c.w 0) 55 3 = 0 ∨ bitsAt (c.w 0) 55 3 = 3 →
        exec (.status core) s = stops fltAccess) ∧
      (bitsAt (c.w 0) 55 3 = 2 → bitsAt (c.w 0) 41 8 < 16 →
        let u := chargePlace s (16 * die + bitsAt (c.w 0) 41 8)
        let i := 16 * bitsAt (c.w 0) 41 8 + bitsAt (c.w 0) 37 4
        let v := Tab.get (0, 0) (u.qmg die).place i
        exec (.status core) s = .next (qmgElem (if (c.w 0).getLsbD 36 then u.setQmg die { u.qmg die with
          place := Tab.set (u.qmg die).place i (0, 0) } else u) core c [placeCount v.1, placeCount v.2]))))

/-- 05 R121, 10 R266, R267, R272, R273, R276-R284: what the queue managers' own events do: a carried record is checked and
accepted, the frame counter rises and releases, a task is placed, stolen, dispatched, aged and retired, a row rebuilt. The clause on
chargePlace is the model's choice (log 27, DESIGN CHOICE: counts from the machine time at the island's rate, idle slots in the
phase last dispatched); that the stray thread of an image retires by the record it carries is log 33's. -/
def Obligations.QmgEventsServe : Prop :=
  ∀ (s s' s1 s2 s3 s4 : State) (die core entry : Nat) (t : Task),
    let q := s.qmg die
    (∀ r rest, q.carry = r :: rest → q.tasks.length < 65536 →
      publish (s.setQmg die { q with carry := rest }) die r.ctx r.words = .accepted s' →
      exec (.publishCarry die) s = .next (qmgDone s' r.core)) ∧
    (∀ k r, 65536 ≤ q.tasks.length → q.carry.findIdx (fun r => !r.full) = k → q.carry[k]? = some r →
      (publishFault q r.ctx r.words false = none → ∃ u, exec (.publishCarry die) s = .next u ∧
        (u.qmg die).carry = updAt (fun r => { r with full := true }) q.carry k ∧ (u.estream engQmg r.core).wait = 2) ∧
      (∀ code c, publishFault q r.ctx r.words false = some code → let v := s.setQmg die { q with carry := removeAt q.carry k }
        nextCmd v engQmg r.core = some c → exec (.publishCarry die) s = .next (qmgStop v r.core c code))) ∧
    (s.shut.phase = 0 → q.tick < s.now / 128 → frameRuns q = true →
      exec (.frameTick die) s = .next (frameSettle (s.setQmg die { q with frame := q.frame + 1, tick := q.tick + 1 }) die)) ∧
    (s.shut.phase = 0 → q.tick < s.now / 128 → frameRuns q = false →
      exec (.frameTick die) s = .next (frameSettle (s.setQmg die { q with tick := s.now / 128 }) die)) ∧
    (q.tasks = [(entry, t)] → recTimed t.words = true → t.overrun = false → t.cancelled = false → deadline t ≤ q.frame.toNat →
      ∃ u t', exec (.taskOverrun die) s = .next u ∧ taskOf u die entry = some t' ∧ t'.overrun = true ∧
        (u.qmg die).slips = min 65535 (q.slips + 1)) ∧
    (∀ c rot, firstPlace s die = some (entry, t, c, rot) → ∃ u, exec (.taskPlace die) s = .next u ∧
      taskOf u die entry = some { t with state := 3, core := c, readyFor := s.now - t.readyAt } ∧ (u.qmg die).rot = rot ∧
      (u.core c).queue = if recTimed t.words then entry :: (s.core c).queue else (s.core c).queue ++ [entry]) ∧
    (let k := s.core core
      let x := stealNext (if k.steal = 0 then BitVec.ofNat 32 (core + 1) else k.steal)
      let victim := core / 8 * 8 + (core % 8 + 1 + x.toNat % 7) % 8
      slotFree s core ≠ none → k.queue = [] → s.masks.cores.getLsbD core = false → s.masks.cores.getLsbD victim = false →
      (s.core victim).suspect = false → (s.core victim).queue.getLast? = some entry → taskOf s (dieOf core) entry = some t →
      recSteal t.words = true → coreTakes s t.ctx core = true →
      ∃ u, exec (.stealAttempt core) s = .next u ∧ (u.core core).queue = [entry] ∧ (u.core core).steal = x ∧
        (u.core victim).queue = (s.core victim).queue.dropLast ∧ taskOf u (dieOf core) entry = some { t with core := core }) ∧
    (∀ i slot, localHead s core = some i → slotFree s core = some slot → (s.core core).queue.getD i 0 = entry →
      taskOf s (dieOf core) entry = some t → s.shut.phase = 0 → s.islandOn (clusterOf core) = true →
      ∃ u, exec (.tileDispatch core false) s = .next u ∧ taskOf u (dieOf core) entry = some { t with state := 4, core := core, slot := slot } ∧
        (u.core core).queue = removeAt (s.core core).queue i ∧
        let h := u.thread core slot
        h.live = true ∧ h.halted = false ∧ h.inh = false ∧ h.ctx = t.ctx ∧ h.task = (dieOf core, entry) ∧
          h.apc = recWord t.words 3 ∧ h.epc = recWord t.words 4 ∧ h.rd .a 0 = BitVec.ofNat 64 (recX t.words) ∧
          h.rd .a 1 = BitVec.ofNat 64 (recY t.words) ∧ h.rd .a 2 = recWord t.words 5 ∧ h.rd .a 3 = recWord t.words 6 ∧
          (∀ r, 4 ≤ r.toNat → h.rd .a r = 0) ∧ (∀ r, h.rd .e r = 0) ∧ h.phase = recPhase t.words ∧ h.record = some t ∧
          let from_ := reportPends (setTask (s.setCore core { s.core core with queue := removeAt (s.core core).queue i }) (dieOf core)
            entry { t with state := 4, core := core, slot := slot }) core slot
          (∀ v, readDesc from_ t.ctx = (v, none) → h.tveca = ctxWord v t.ctx 2 &&& ~~~63 ∧ h.tvece = ctxWord v t.ctx 3 &&& ~~~63 ∧
            h.traprec = ctxWord v t.ctx 4 &&& ~~~63) ∧
          ((s.core core).owner = 0 → (u.core core).owner = t.ctx ∧ (u.core core).mailbox = [])) ∧
    (∀ bs, s.shut.phase = 0 → taskOf s die entry = some t → t.state = 2 → recKind t.words ≠ 0 →
      let e := kindEngine (recKind t.words)
      let k := taskStream e.1 die
      entriesUsed s e.1 die < e.2 → firstOfEngine s die entry t = true → bitsAt (recWord t.words 4) 0 3 = 0 →
      readMem (setTask s die entry { t with state := 4 }) (whoE e.1 0 t.ctx) (recWord t.words 3) 8 = .ok (s', bs) →
      exec (.engineTaskDispatch die entry) s = .next (s'.setEstream e.1 k { s'.estream e.1 k with
        queue := (s'.estream e.1 k).queue ++ [({
          words := [BitVec.ofNat 64 (leValue bs)], core := 0, slot := 0, disp := 0, hand := false, ctx := t.ctx
          scope := recScope t.words, task := some (die, entry) } : Cmd)] })) ∧
    (let stray := s.threads.find? fun kv => kv.2.task == (die, entry) && strayEnded s (kv.1 / 16) (kv.1 % 16)
    (∀ i th, stray = some (i, th) → exec (.taskRetire die entry) s = .next (retireStray s (i / 16) (i % 16))) ∧
    (stray = none → taskOf s die entry = some t → t.state = 4 → recKind t.words = 0 →
      let th := s.thread t.core t.slot
      th.live = true → runsEntry th die entry t = true →
      (th.failed = none → t.cancelled = false → th.halted = true → releaseHeld s t.core t.slot (recScope t.words) = false →
        exec (.taskRetire die entry) s
          = .next (retireTask (freeSlot (reportPends s t.core t.slot) t.core t.slot) die entry t)) ∧
      (∀ code, th.failed = some code → ∃ u, exec (.taskRetire die entry) s = .next u ∧ taskOf u die entry = none ∧
        u.thread t.core t.slot = {}) ∧
      (th.failed = none → t.cancelled = false → th.halted = true → releaseHeld s t.core t.slot (recScope t.words) = true →
        exec (.taskRetire die entry) s = .next s)) ∧
    (stray = none → taskOf s die entry = some t → t.state = 4 → recKind t.words ≠ 0 → t.ended = some 0 → t.cancelled = false →
      (engineTaskHeld s die entry t = false → exec (.taskRetire die entry) s = .next (retireTask s die entry t)) ∧
      (engineTaskHeld s die entry t = true → exec (.taskRetire die entry) s = .next s))) ∧
    (setTile s die (recGrid t.words) (recX t.words) (recY t.words) = (s', none) →
      retireTask s die entry t = evaluateGrid (freeTask (decrements s' die t) die entry) die (recGrid t.words) ∧
        taskOf (retireTask s die entry t) die entry = none) ∧
    (∀ code, setTile s die (recGrid t.words) (recX t.words) (recY t.words) = (s', some code) →
      retireTask s die entry t = killGrid (freeTask s' die entry) die (recGrid t.words) code) ∧
    (∀ grid row g b1 b2 b3 b4, Tab.find q.grids grid = some g → row < g.h →
      let a := fun (i : Nat) => g.journal + BitVec.ofNat 64 (32 * row + 8 * i)
      exec (.scoreboardRebuild die grid row true) s = .next (killGrid s die grid fltScoreboard) ∧
      (readMem s (whoQ g.ctx) (a 0) 8 = .ok (s1, b1) → readMem s1 (whoQ g.ctx) (a 1) 8 = .ok (s2, b2) →
        readMem s2 (whoQ g.ctx) (a 2) 8 = .ok (s3, b3) → readMem s3 (whoQ g.ctx) (a 3) 8 = .ok (s4, b4) →
        exec (.scoreboardRebuild die grid row false) s = .next (setGrid s4 die grid
          { g with rows := Tab.set g.rows row (leValue (b1 ++ b2 ++ b3 ++ b4) % 2 ^ g.w) }))) ∧
    (taskOf s die entry = some t → t.state = 2 → recTimed t.words = false → effPrio t < 3 → 4000000 * (t.age + 1) ≤ s.now - t.readyAt →
      exec (.priorityAge die entry) s = .next (setTask s die entry { t with age := t.age + 1 }) ∧
        effPrio { t with age := t.age + 1 } = effPrio t + 1) ∧
    (∀ cl ph, cl < 32 → ph < 16 →
      let i := 16 * (cl % 16) + ph
      let v := Tab.get (0, 0) (s.qmg (cl / 16)).place i
      let n := (s.now - Tab.get 0 (s.qmg (cl / 16)).placeAt (cl % 16)) * clockRate s cl
      let slots := clusterSlots s cl
      Tab.get (0, 0) ((chargePlace s cl).qmg (cl / 16)).place i = (v.1 + n * slots.countP (fun t => t.live && t.phase == ph),
        if Tab.get 0 (s.qmg (cl / 16)).lastPhase (cl % 16) = ph then v.2 + n * slots.countP fun t => !t.live else v.2)) ∧
    (taskOf s die entry = some t → recKind t.words = 0 → ((∀ u, reloadTask s die entry t = some u → u.words.length = 8 ∧
      entryLost s die entry = setTask s die entry u) ∧
      (reloadTask s die entry t = none → entryLost s die entry = killGrid s die (recGrid t.words) fltTaskPoison)))

/-! ### The search-tree engine (13 R345-R365) -/

/-- 13 R352-R356, R358-R362: the steps of a descent, an expansion, a backup and a re-root, the end of their waits, the reclaiming of
groups, and what TCFG (INIT, SETP, RELEASE) and TSTAT do. -/
def Obligations.TreeCommandsResults : Prop :=
  ∀ (s s1 s2 s3 s4 s5 : State) (src : Nat) (c : Cmd),
    let die := dieOfSrc src
    let w := whoT c.ctx
    let t := s.tree die c.tid
    let k := s.walkOf src
    let r := c.treeRef die k.words
    let rt := c.treeRef die t.words
    let st := s.estream engTre src
    let ends := fun (u : State) (ws : List W64) => Host.Outcome.next (workDone u engTre src c (noted c ws))
    let close := (c.w 0).getLsbD 42
    (∀ ws, Runs s engTre src c → c.op = 5 → c.cfgOp = 0 → t.live = false → readCfg c.ctx (c.w 1) s = (.ok ws, s1) →
      let n := cfgNgrp ws - 1
      writeNode (c.treeRef die ws) 0 [0, 0x3F800000, 0xFFFFFFFF00100000, 0] s1 = (.ok (), s2) →
      engWrite w (cfgFree ws) ((List.range n).flatMap fun i => leBytes (n - i) 4) s2 = (.ok (), s3) →
      exec (.tcfgInit src) s = ends (s3.setTree die c.tid { live := true, ctx := c.ctx, words := ws, fcnt := n }) [0]) ∧
    (t.live = true → t.ctx = c.ctx →
    (Runs s engTre src c → c.op = 1 →
      (st.prog = 0 → t.drain = true → ∃ u, exec (.tdesc src) s = .next u ∧ (u.estream engTre src).wait = treWaitDrain) ∧
      (st.prog = 0 → t.drain = false → t.infl < 65535 → t.bcnt ≠ 0 → exec (.tdesc src) s
        = .next (goPhase (s.setTree die c.tid { t with infl := t.infl + 1, dser := t.dser + 1 }) src 1
          { words := t.words, node := t.root, ser := t.dser })) ∧
      (∀ n, st.prog = 1 → readNode r k.node s = (.ok n, s1) →
        let fresh := !ndFlag n 0 && !ndFlag n 2 && !ndFlag n 1
        let k1 := { k with path := k.node :: k.path, child := 0 }
        writeNode r k.node (ndSet (if fresh then ndSetFlag n 1 true else n) 1 0 16 (ndVl n + 1)) s1 = (.ok (), s2) →
        exec (.tdesc src) s = .next (
          if ndFlag n 2 then goPhase s2 src 4 { k1 with status := 2 }
          else if ndFlag n 0 then
            if k1.path.length = cfgDmax k.words + 1 then goPhase s2 src 3 { k1 with fault := some (fltPathDepth, nodeAt k.words k.node) }
            else goPhase s2 src 2 { k1 with snap := n, best := none }
          else if ndFlag n 1 then goPhase s2 src 3 { k1 with status := 1 }
          else goPhase s2 src 4 { k1 with status := 0, snap := n })) ∧
      (∀ n, st.prog = 2 → readNode r (ndCbase k.snap + k.child) s = (.ok n, s1) →
        let i := ndCbase k.snap + k.child
        let x := nodeScore k.words (ndN k.snap) n
        let best := if beats x k.best then some (x, i) else k.best
        let k1 := { k with best := best, child := k.child + 1 }
        exec (.tdesc src) s = .next (if k.child + 1 < ndCcnt k.snap then goPhase s1 src 2 k1
          else goPhase s1 src 1 { k1 with scored := k.scored + k1.child, node := match best with | some (_, j) => j | none => i })) ∧
      (st.prog = 4 → k.status ≠ 0 → (close = true → t.closing = false ∧ t.bcnt = 0) →
        exec (.tdesc src) s = .next (workDone s engTre src c (descentElem c { k with batch := t.k }))) ∧
      (st.prog = 4 → t.closing = true → (k.status = 0 ∨ close = true) →
        ∃ u, exec (.tdesc src) s = .next u ∧ (u.estream engTre src).wait = treWaitQ ∧ (u.estream engTre src).prog = 4) ∧
      (let bw := t.batchWords
        let at_ := batchBuf bw t.k.toNat + BitVec.ofNat 64 (16 * t.bcnt)
        st.prog = 4 → k.status = 0 → t.closing = false → notLocal s c.ctx at_ = false →
        engWrite w at_ (leBytes k.node 4 ++ leBytes (ndAction k.snap) 4
          ++ leBytes (k.path.length - 1) 2 ++ leBytes 0 2 ++ leBytes k.ser.toNat 4) s = (.ok (), s1) → s1.tree die c.tid = t →
        (close = false → t.bcnt + 1 < cfgBatch bw →
          exec (.tdesc src) s = .next (workDone (s1.setTree die c.tid { t with bcnt := t.bcnt + 1, batch := bw }) engTre src c
            (descentElem c { k with batch := t.k, pos := t.bcnt }))) ∧
        (close = true ∨ cfgBatch bw ≤ t.bcnt + 1 → ∃ u, exec (.tdesc src) s = .next u ∧ (u.estream engTre src).prog = 5 ∧
          u.tree die c.tid = { t with bcnt := t.bcnt + 1, batch := bw, closing := true } ∧
          u.walkOf src = { k with batch := t.k, pos := t.bcnt, closed := true, buf := batchBuf bw t.k.toNat,
                                  count := BitVec.ofNat 64 (t.k.toNat * 2 ^ 32 + (t.bcnt + 1)) }))) ∧
    (st.run = some c → c.op = 1 → st.wait = treWaitQ → st.prog = 4 → t.closing = false → runRoom s engTre src = true →
      exec (.batchQueueWaitEnd src) s = .next (tdescWork src (endWait s engTre src) c)) ∧
    (∀ i u ws, (i = Instr.batchQueueWaitEnd src ∧ st.run = some c ∧ c.op = 1 ∧ st.wait = treWaitQ ∧ runRoom s engTre src = true ∧
        u = endWait s engTre src ∧ (s.qmg (recDie k.record)).tasks.length < 65536) ∨
        (i = Instr.tdesc src ∧ Runs s engTre src c ∧ c.op = 1 ∧ u = s) → st.prog = 5 →
      (k.record = [] ∧ checkTemplate c.ctx (wordAt k.words 4) u = (.ok ws, s1)) ∨ (k.record ≠ [] ∧ ws = k.record ∧ s1 = u) →
      let v := s1.setWalk src { k with record := ws }
      let may := mayCommand v (engineTarget engQmg (128 * recDie ws)) c.ctx (2 + engTre)
      (may = true → publish v (recDie ws) c.ctx (ws.take 5 ++ [k.buf, k.count] ++ ws.drop 7) = .accepted s2 →
        exec i s = .next (workDone (countBatch die c.tid s2) engTre src c (descentElem c k))) ∧
      (may = false → exec i s = .next (stopCmd (countBatch die c.tid v) engTre src c fltAccess 0 (treStatus src)))) ∧
    ((s.tree die c.tid).closing = true → (countBatch die c.tid s).tree die c.tid
      = { s.tree die c.tid with k := t.k + 1, bcnt := 0, closing := false }) ∧
    (∀ kids n b, Runs s engTre src c → c.op = 2 → st.prog = 0 → let leaf := (c.w 1).toNat
      engRead w (c.w 2) (8 * bitsAt (c.w 0) 32 9) s = (.ok kids, s1) → (words64 kids).all childOk = true → inPool t.words leaf = true →
      readNode rt leaf s1 = (.ok n, s2) → ndFlag n 0 = false → ndFlag n 2 = false → ndFlag n 3 = false →
      (∀ m, close = true → updateNode rt leaf (fun n => ndSetFlag (ndSetFlag n 2 true) 1 false) s2 = (.ok m, s3) →
        exec (.texpand src) s = ends s3 [0xFFFFFFFF]) ∧
      (close = false → s2.tree die c.tid = t → t.fcnt = 0 → t.reclaim = [] →
        exec (.texpand src) s = .next (stopCmd s2 engTre src c fltNodePool (nodeAt t.words leaf) (treStatus src))) ∧
      (close = false → s2.tree die c.tid = t → t.fcnt = 0 → t.reclaim ≠ [] →
        ∃ u, exec (.texpand src) s = .next u ∧ (u.estream engTre src).wait = treWaitPool ∧ (u.estream engTre src).prog = 1 ∧
          u.walkOf src = { words := t.words, node := leaf, kids := words64 kids }) ∧
      (∀ g m, let at_ := cfgFree t.words + BitVec.ofNat 64 (4 * (t.fcnt - 1))
        close = false → s2.tree die c.tid = t → t.fcnt ≠ 0 → notLocal s2 c.ctx at_ = false → engVal w at_ 4 s2 = (.ok g, s3) →
        b = g * cfgGsz t.words →
        writeChildren rt leaf b (words64 kids) 0 (s3.setTree die c.tid { s3.tree die c.tid with fcnt := (s3.tree die c.tid).fcnt - 1 })
          = (.ok (), s4) →
        updateNode rt leaf (fun n => ndSetFlag (ndSetFlag (ndSet (ndSet n 1 32 32 b) 2 0 16 (words64 kids).length) 0 true) 1 false) s4
          = (.ok m, s5) →
        exec (.texpand src) s = ends s5 [BitVec.ofNat 64 b])) ∧
    (∀ n, Runs s engTre src c → c.op = 2 → st.prog = 1 → readNode r k.node s = (.ok n, s1) →
      (ndFlag n 0 = true → exec (.texpand src) s = .next (stopCmd s1 engTre src c fltBadCmd (nodeAt k.words k.node) (treStatus src))) ∧
      (∀ ws, ndFlag n 0 = false → growLeaf src c k s1 = (.ok ws, s2) → exec (.texpand src) s = .next (workDone s2 engTre src c ws))) ∧
    (st.run = some c → st.wait = treWaitPool → runRoom s engTre src = true → t.fcnt ≠ 0 ∨ t.reclaim = [] →
      exec (.poolWaitEnd src) s = .next (texpandWork src (endWait s engTre src) c)) ∧
    (Runs s engTre src c → c.op = 3 →
      (st.prog = 0 → exec (.tback src) s = .next (goPhase s src 1 { words := t.words, node := bitsAt (c.w 1) 0 32 })) ∧
      (∀ n l, st.prog = 1 → inPool k.words k.node = true → readNode r k.node s = (.ok n, s1) →
        writablePlace r k.node s1 = (.ok l, s2) → ndFlag n 3 = false → k.path.length ≤ cfgDmax k.words →
        (ndParent n ≠ noNode →
          exec (.tback src) s
            = .next (goPhase s2 src 1 { k with path := k.path ++ [k.node], places := k.places ++ [l], node := ndParent n })) ∧
        (ndParent n = noNode → ndFlag n 4 = true →
          exec (.tback src) s
            = .next (goPhase s2 src 2 { k with path := k.path ++ [k.node], places := k.places ++ [l], child := 0 }))) ∧
      (∀ i l n, 2 ≤ st.prog → (k.path.zip k.places)[k.child]? = some (i, l) →
        let v := BitVec.ofNat 32 (bitsAt (c.w 1) 32 32)
        updateAt r i l (backNode close (if k.neg then neg32 v else v) (i == bitsAt (c.w 1) 0 32)) s = (.ok n, s1) →
        ∃ k1 : Walk, exec (.tback src) s = .next (goPhase s1 src 2 k1) ∧ k1.child = k.child + 1 ∧ k1.neg = (k.neg != cfgTwo k.words)
          ∧ k1.path = k.path ∧ k1.places = k.places ∧ k1.under = (k.under || ndVl n == 0)) ∧
      (2 ≤ st.prog → (k.path.zip k.places)[k.child]? = none → exec (.tback src) s = ends (s.setTree die c.tid { t with infl := t.infl - 1 })
        [BitVec.ofNat 64 (k.path.length % 256 + (k.under || t.infl == 0).toNat * 256 + k.nsat.toNat * 512)])) ∧
    (∀ n, Runs s engTre src c → c.op = 4 → st.prog = 0 → readNode rt t.root s = (.ok n, s1) → ndFlag n 0 = true →
      bitsAt (c.w 0) 0 16 < ndCcnt n → exec (.treuse src) s = .next (goPhase (s1.setTree die c.tid
        { s1.tree die c.tid with drain := true }) src 1 { words := t.words, node := t.root, snap := n })) ∧
    (Runs s engTre src c → c.op = 4 → st.prog = 1 →
      (t.infl ≠ 0 → ∃ u, exec (.treuse src) s = .next u ∧ (u.estream engTre src).wait = treWaitDrain) ∧
      (∀ ws, rerootEng die c k s = (.ok (.ends ws), s1) → exec (.treuse src) s = .next (workDone s1 engTre src c ws))) ∧
    (∀ new n gs, t.infl = 0 → t.bcnt = 0 → new = ndCbase k.snap + bitsAt (c.w 0) 0 16 →
      let others := ((List.range (ndCcnt k.snap)).map (ndCbase k.snap + ·)).filter (· != new)
      updateNode r new (fun n => ndSetFlag (ndSet n 2 32 32 noNode) 4 true) s = (.ok n, s1) →
      markDead r others s1 = (.ok (), s2) →
      subtreeGroups r (cfgNgrp k.words * cfgGsz k.words + 1) others s2 = (.ok gs, s3) → s3.tree die c.tid = t →
      rerootEng die c k s = (.ok (.ends (noted c [BitVec.ofNat 64 new])), s3.setTree die c.tid
        { t with root := new, drain := false, reclaim := t.reclaim ++ k.node / cfgGsz k.words :: gs })) ∧
    (st.run = some c → c.op = 4 → st.wait = treWaitDrain → t.infl = 0 → runRoom s engTre src = true →
      exec (.drainEnd src) s = .next (treuseWork src (endWait s engTre src) c)) ∧
    (∀ g rest, t.reclaim = g :: rest → writeVal s w (cfgFree t.words + BitVec.ofNat 64 (4 * t.fcnt)) 4 g = .ok s1 →
      exec (.treeReclaim die c.tid) s = .next (s1.setTree die c.tid { t with fcnt := t.fcnt + 1, reclaim := rest })) ∧
    (∀ ws, Runs s engTre src c → c.op = 5 → c.cfgOp = 1 → readCfg c.ctx (c.w 1) s = (.ok ws, s1) → ws.take 6 = t.words.take 6 →
      exec (.tcfgSetp src) s = ends (s1.setTree die c.tid { s1.tree die c.tid with words := ws }) [0]) ∧
    (Runs s engTre src c → c.op = 5 → c.cfgOp = 2 →
      (t.infl = 0 → t.reclaim = [] → exec (.tcfgRelease src) s = ends (s.setTree die c.tid {}) [0]) ∧
      (t.infl ≠ 0 ∨ t.reclaim ≠ [] → ∃ u, exec (.tcfgRelease src) s = .next u ∧ (u.estream engTre src).wait = treWaitDrain)) ∧
    (Runs s engTre src c → c.op = 6 →
      (close = true → exec (.tstat src) s = .next (workDone s engTre src c (some [BitVec.ofNat 64 (t.root + t.fcnt * 2 ^ 32),
        BitVec.ofNat 64 (t.k.toNat + t.bcnt * 2 ^ 32 + t.infl * 2 ^ 48), BitVec.ofNat 64 (t.dser.toNat + t.reclaim.length * 2 ^ 32),
        BitVec.ofNat 64 (1 + t.drain.toNat * 2)]))) ∧
      (∀ n, close = false → inPool t.words (c.w 1).toNat = true → readNode rt (c.w 1).toNat s = (.ok n, s1) →
        exec (.tstat src) s = .next (workDone s1 engTre src c (some n)))))

/-! ### Retrieval (14 R367-R393) -/

/-- 14 R367-R369, R375-R379: hops are read and joined, retried and given up; a search starts, goes from round to round and ends with
its results. -/
def Obligations.SearchRuns : Prop :=
  ∀ (s s1 s2 : State) (src : Nat) (c : Cmd),
    let o := s.obj c.xid
    let w := whoS c.ctx
    let k := s.look src
    let st := s.estream engSch src
    let phase := fun (u : State) (p : Nat) (k : Look) =>
      State.setEstream (u.setLook src k) engSch src { (u.setLook src k).estream engSch src with prog := p }
    let hops := fun (u : State) (pgs : List Page) => let v := pgs.foldl (fun u p => queueHop u src c.xid p) u
      v.setEstream engSch src ((v.estream engSch src).pause (engClock v engSch src))
    let bind := fun (u : State) (es : List LogEnt) =>
      phase (leaveOrder u src c) 4 { set := o.set, bound := o.sealPos, log := deciding es, wild := ((leaveOrder u src c).obj c.xid).spoiled }
    (∀ es, nextCmd s engSch src = some c → pushDenied s engSch c = false → c.op = 1 → searchCheck s c = none →
      let u := enterOrder ((startCmd s engSch src).setLook src {}) src c
      (schTurn u src c = true → readLog c.xid (u.obj c.xid) (o.sealPos - o.set.merged) o.set.merged u = (.ok es, s1) →
        (u.obj c.xid).set = o.set → (u.obj c.xid).sealPos = o.sealPos → exec (.search src) s = .next (bind s1 es)) ∧
      (schTurn u src c = false → exec (.search src) s = .next (queueTurn u src))) ∧
    (∀ es, Runs s engSch src c → c.op = 1 → st.prog = 0 →
      (schTurn s src c = true → readLog c.xid o (o.sealPos - o.set.merged) o.set.merged (takeTurn s src) = (.ok es, s1) →
        exec (.search src) s = .next (bind s1 es)) ∧
      (schTurn s src c = false → exec (.search src) s = .next (phase s 0 k))) ∧
    (∀ q, Runs s engSch src c → c.op = 1 → st.prog = 4 → engRead w (c.w 1) o.codeBytes s = (.ok q, s1) →
      let k0 : Look := { k with query := q }
      (∀ p k1, o.img.kind = 0 → nextRound src c { k0 with keys := [(k.set.entry, negInf32)] } s1 = (.ok (p, k1, none), s2) →
        exec (.search src) s = .next (phase s2 p k1)) ∧
      (∀ cs, o.img.kind ≠ 0 → centroids o q k.set.entry 0 s1 = (.ok cs, s2) →
        let ls := ((sortBy pairLe cs).take c.probes).map Prod.fst
        let pgs := listPages k0 ls
        exec (.search src) s = .next (phase (hops s2 pgs) 1 { k0 with lists := ls, left := pgs.length }))) ∧
    (∀ k0 : Look, let f := frontier c k0
      let pgs := f.filterMap fun r => (vecOf k0 r.1).map Vec.page
      (k0.rounds < c.maxr → f ≠ [] → nextRound src c k0 s = (.ok (1, { k0 with front := f, left := pgs.length }, none), hops s pgs)) ∧
      (f = [] ∨ c.maxr ≤ k0.rounds → nextRound src c k0 s = (.ok (2, { k0 with front := [] }, none), s))) ∧
    (Runs s engSch src c → c.op = 1 → st.prog = 2 →
      let rs := results o c k
      let hd := searchHeader k rs.length
      engWrite w (c.w 2 + 64) (rs.flatMap fun r => leBytes r.1 8 ++ leBytes r.2.toNat 4 ++ leBytes 0 4) s = (.ok (), s1) →
      engWrite w (c.w 2) hd s1 = (.ok (), s2) →
      let ws := [BitVec.ofNat 64 (leValue (hd.take 8)), BitVec.ofNat 64 k.bound]
      (k.wild = false → exec (.search src) s = .next (workDone s2 engSch src c (noted c ws))) ∧
      (∀ u vs, k.wild = true → spoilResults c ws s2 = (.ok vs, u) → exec (.search src) s = .next (workDone u engSch src c (noted c vs)))) ∧
    (st.run = some c → c.op = 1 → st.stopped = false → st.done = false → st.prog = 1 → k.left = 0 →
      (∀ p k1, o.img.kind = 0 → nextRound src c (endRound o k) s = (.ok (p, k1, none), s1) →
        exec (.searchRoundEnd src) s = .next (phase s1 p k1)) ∧
      (o.img.kind ≠ 0 → exec (.searchRoundEnd src) s = .next (phase s 2 { k with
        rounds := 1, seen := (k.set.vecs.filter fun v => k.lists.contains v.list).map fun v => (v.id, o.dist k.query v.code) }))) ∧
    (∀ (ctl i : Nat) (h : Hop), let q := s.ctlr ctl
      (q.queue.findIdx? fun h => !q.reading.any fun r => r.page.nand == h.page.nand) = some i → q.queue[i]? = some h →
      s.masks.ctls.getLsbD ctl = false →
      let j := joinHops h (q.queue.drop (i + 1)) h.riders
      (s.islandOn (36 + ctl / 8) = true → exec (.hopIssue ctl h.page.nand) s = .next (s.setCtlr ctl
        { queue := q.queue.take i ++ j.2, reading := q.reading ++ [{ h with riders := h.riders ++ j.1 }] })) ∧
      (s.islandOn (36 + ctl / 8) = false → exec (.hopIssue ctl h.page.nand) s = .next s) ∧
      (h.riders.eraseDups.length ≤ 64 → (h.riders ++ j.1).eraseDups.length ≤ 64)) ∧
    ∀ (ctl idx : Nat) (h : Hop), (s.ctlr ctl).reading[idx]? = some h → h.riders = [src] → s.islandOn (36 + ctl / 8) = true →
      (∃ u, exec (.hopReadDone ctl idx true) s = .next u ∧ (u.look src).left = k.left - 1 ∧ (u.look src).pages = k.pages + 1 ∧
        (u.ctlr ctl).reading = removeAt (s.ctlr ctl).reading idx) ∧
      (h.retries < 8 → ∃ u, exec (.hopReadDone ctl idx false) s = .next u ∧ (u.look src).retries = min 255 (k.retries + 1) ∧
        u.schRetry = min (s.schRetry + 1) (2 ^ 32 - 1) ∧
        (u.ctlr ctl).queue = (s.ctlr ctl).queue ++ [{ h with retries := h.retries + 1 }]) ∧
      (8 ≤ h.retries → st.run = some c → c.task = none → k.claimed = none → ∃ u, exec (.hopReadDone ctl idx false) s = .next u ∧
        (u.estream engSch src).stopped = true ∧ (u.estream engSch src).code = fltReadRetry ∧ u.schLimit = min (s.schLimit + 1) (2 ^ 32 - 1))

/-- 14 R380-R386, R392: appends and deletes enter the log or wait for room, a seal and a merge move their marks, the log reaches
flash, a merge ends, and FETCHKV fetches blocks and posts them. -/
def Obligations.IndexCommandsResults : Prop :=
  ∀ (s s1 s2 s3 s4 s5 : State) (src : Nat) (c : Cmd),
    let o := s.obj c.xid
    let w := whoS c.ctx
    let st := s.estream engSch src
    let ends := fun (u : State) (ws : List W64) => Host.Outcome.next (workDone u engSch src c (noted c ws))
    let turn := schTurn s src c = true ∧ (s.look src).queued = false
    (∀ (del : Bool) rs,
      ((s.look src).recs = some rs → recordsOf del src c s = (.ok rs, s)) ∧
      ((s.look src).recs = none → readRecords w o del (c.w 1) (bitsAt (c.w 0) 0 13 + 1) 0 s = (.ok rs, s1) →
        recordsOf del src c s = (.ok rs, updLook s1 src fun k => { k with recs := some rs }))) ∧
    (∀ p ∈ [(3, Instr.idxappend src), (4, .idxdelete src), (5, .idxseal src), (6, .idxmerge src)], Runs s engSch src c → c.op = p.1 →
      (schTurn s src c = false → exec p.2 s = .next s) ∧ (schTurn s src c = true → exec p.2 s = exec p.2 (takeTurn s src))) ∧
    (∀ p ∈ [(3, Instr.idxappend src, false), (4, .idxdelete src, true)], Runs s engSch src c → c.op = p.1 → turn →
      let n := bitsAt (c.w 0) 0 13 + 1
      ∀ rs, recordsOf p.2.2 src c s = (.ok rs, s1) →
      (o.head + n - o.set.merged ≤ o.img.logcap → writeLog o p.2.2 o.head rs s1 = (.ok (), s2) →
        let u := leaveOrder s2 src c
        exec p.2.1 s = ends (putObj u c.xid { u.obj c.xid with
          head := o.head + n
          writers := (u.obj c.xid).writers ++ [(c.writer.1, c.writer.2.1, c.writer.2.2, o.head + n)]
          tail := (u.obj c.xid).tail ++ rs.zipIdx.map fun (r, i) => ⟨o.head + i, r.1, p.2.2, r.2⟩ })
          [BitVec.ofNat 64 o.head]) ∧
      (o.img.logcap < o.head + n - o.set.merged → o.merging = false →
        exec p.2.1 s = .next (stopCmd s1 engSch src c fltSeal (statusAt s1 c.xid) (schStatus src))) ∧
      (o.img.logcap < o.head + n - o.set.merged → o.merging = true →
        ∃ u, exec p.2.1 s = .next u ∧ (u.estream engSch src).wait = waitLog)) ∧
    (st.run = some c → st.wait = waitLog → logFrees o (bitsAt (c.w 0) 0 13 + 1) = true →
      exec (.waitlogEnd src) s = .next (schWork src (appendEng (c.op == 4)) (endWait s engSch src) c)) ∧
    (Runs s engSch src c → c.op = 5 → turn → let mark := if (c.w 0).getLsbD 40 then o.head else (c.w 1).toNat
      (o.sealPos ≤ mark → mark ≤ o.head →
        exec (.idxseal src) s = ends (putObj (leaveOrder s src c) c.xid { (leaveOrder s src c).obj c.xid with sealPos := mark }) [BitVec.ofNat 64 mark]) ∧
      (mark < o.sealPos ∨ o.head < mark →
        exec (.idxseal src) s = .next (stopCmd s engSch src c fltSeal (statusAt s c.xid) (schStatus src)))) ∧
    (Runs s engSch src c → c.op = 6 → turn →
      (o.sealPos = o.set.merged → exec (.idxmerge src) s = ends (leaveOrder s src c) [BitVec.ofNat 64 o.sealPos]) ∧
      (o.sealPos ≠ o.set.merged → o.merging = false → exec (.idxmerge src) s
        = ends (leaveOrder (putObj s c.xid { o with target := o.sealPos, merging := true, mfail := false }) src c) [BitVec.ofNat 64 o.sealPos]) ∧
      (o.sealPos ≠ o.set.merged → o.merging = true → ∃ u, exec (.idxmerge src) s = .next u ∧ (u.estream engSch src).wait = waitMerge)) ∧
    (st.run = some c → st.wait = waitMerge → o.merging = false →
      exec (.waitmergeEnd src) s = .next (schWork src mergeEng (endWait s engSch src) c)) ∧
    (o.restoring = true → exec (.logEntryProgram c.xid) s = .next s) ∧
    (∀ e, o.live = true → o.flushed < o.head → o.restoring = false → readLogEnt c.xid o o.flushed s = (.ok e, s1) →
      exec (.logEntryProgram c.xid) s = .next (putObj s1 c.xid { s1.obj c.xid with
        flushed := o.flushed + 1, flash := o.flash ++ [e], writers := o.writers.filter fun x => decide (o.flushed + 1 < x.2.2.2) })) ∧
    (o.merging = true → o.target ≤ o.flushed →
      let made := mergedSet s.takeFree.1 o (o.flash.filter fun e => decide (e.pos < o.target)) o.target
      made.merged = o.target ∧
      (vectorsBeside s c.xid + made.vecs.length ≤ 16000000000 → ∃ u, exec (.mergeDone c.xid true) s = .next u ∧
        (u.obj c.xid).merging = false ∧ (u.obj c.xid).set = made ∧
        (u.obj c.xid).flash = o.flash.filter (fun e => !decide (e.pos < o.target)) ∧ (u.obj c.xid).head = o.head) ∧
      (16000000000 < vectorsBeside s c.xid + made.vecs.length →
        exec (.mergeDone c.xid true) s = .next (putObj s c.xid { o with merging := false, mfail := true })) ∧
      exec (.mergeDone c.xid false) s = .next (putObj s c.xid { o with merging := false, mfail := true })) ∧
    (Runs s engSch src c → c.op = 2 →
      let s0 := s.setLook src {}
      ∀ sd p k0, (st.prog = 0 ∧ readSeq w (c.w 1) s0 = (.ok sd, s1) ∧ readPool w sd.pool s1 = (.ok p, s2) ∧ p.geom = o.img.pgeom ∧
          k0 = { (s0.look src) with index := bitsAt (c.w 0) 8 16, desc := some (sd, p) }) ∨
        (st.prog = 3 ∧ (s.look src).desc = some (sd, p) ∧ k0 = s.look src ∧ s2 = s) →
      (∀ len, nextBlock w o c 257 k0 s2 = (.ok none, s3) → engVal w sd.addr 8 s3 = (.ok len, s4) →
        exec (.fetchkv src) s = ends s4 [BitVec.ofNat 64 (k0.posted + len % 2 ^ 32 * 2 ^ 32)]) ∧
      (∀ b k n len, nextBlock w o c 257 k0 s2 = (.ok (some (b, k)), s3) → engVal w sd.addr 8 s3 = (.ok len, s4) → k.index < sd.tcap →
        (c.adv = true → len % 2 ^ 32 = 64 * k.index) → claimBlock w p (entryAt sd.tbl k.index) s4 = (.ok n, s5) → c.early = false →
        ∃ u, exec (.fetchkv src) s = .next u ∧ (u.estream engSch src).prog = 1 ∧
          u.look src = { k with cur := some b, pblk := n, layer := 0, left := b.pages.length,
                                  claimed := some (entryAt sd.tbl k.index) })) ∧
    (Runs s engSch src c → c.op = 2 → st.prog = 1 → (s.look src).left = 0 →
      ∃ u, exec (.fetchkv src) s = .next u ∧ (u.estream engSch src).prog = 2 ∧ u.look src = s.look src) ∧
    (Runs s engSch src c → c.op = 2 → st.prog = 2 → c.early = false → c.adv = false →
      let k := s.look src
      ∀ sd p b, k.cur = some b → k.desc = some (sd, p) →
      let part := fun (bs : List Byte) (row : Nat) => (bs.drop (k.layer * p.heads * 64 * row)).take (p.heads * 64 * row)
      engWrite w (p.keyAt k.pblk k.layer 0 0) (part b.keys p.rowK) s = (.ok (), s3) →
      engWrite w (p.valAt k.pblk k.layer 0 0) (part b.vals p.rowV) s3 = (.ok (), s4) →
      (k.layer + 1 < p.layers → ∃ u, exec (.fetchkv src) s = .next u ∧ (u.estream engSch src).prog = 2 ∧
        u.look src = { k with layer := k.layer + 1 }) ∧
      (∀ s6, p.layers ≤ k.layer + 1 →
        engWrite w (entryAt sd.tbl k.index + 8) (leBytes b.mask.toNat 8 ++ leBytes 0 16) s4 = (.ok (), s5) →
        engPut w (entryAt sd.tbl k.index) 8 (mappedWord false k.pblk) s5 = (.ok (), s6) →
        ∃ u, exec (.fetchkv src) s = .next u ∧ (u.estream engSch src).prog = 3 ∧
          u.look src = { k with index := k.index + 1, posted := k.posted + 1, cur := none, claimed := none }))

/-! ### Memory ports (15 R394-R411, 18 R492) -/

/-- 15 R397, R399-R405, R407-R411, R413, R415, 18 R492: what a port does with reads, writes, atomics, fills, drains, activations,
refreshes, its retirement and the patrol, and the entries it writes in its event log. That a read the port has made waits for its
reader (`seen`), and when the counting windows end, are the model's (log 7, log 8). -/
def Obligations.PortsServe : Prop :=
  ∀ (s : State) (port line bank co : Nat),
    let pt := s.port port
    let b := Tab.get {} pt.banks bank
    let setBank := fun (v : Bank) => s.setPort port { pt with banks := Tab.set pt.banks bank v }
    let s1 := settleLine s line
    let p1 := s1.port port
    (∀ kind p bk wher, let lg := Tab.get {} s.mplog (p / 96)
      let t := portLog s kind p bk wher
      (lg.base = 0 → t.dev = s.dev ∧ t.ports = s.ports) ∧
      (lg.base ≠ 0 → lg.base % 16 = 0 → EntryWritten s t lg (Tab.get {} t.mplog (p / 96)) 1024 (leBytes kind 1 ++ leBytes (p / 96) 1
        ++ leBytes (p % 96) 1 ++ leBytes bk 1 ++ leBytes wher 4 ++ leBytes s.now 8))) ∧
    (portOf s (line * 64) = some (port, co) →
      (wholeEntry s1 port line = true → ∀ err retries, exec (.portRead port line err retries) s = .next s1 ∧
        (pt.retired = false → exec (.patrolScrub port line err) s = .next s1)) ∧
      (∀ err retries, wholeEntry s1 port line = false →
        let e := if 4 ≤ retries then 9 else err
        let bad := decide (9 ≤ e) || linePoisoned s1 line
        ∃ u, u.dev = s1.dev ∧ (u.port port).lretry = min (p1.lretry + min retries 3) 65535 ∧
          (bad = false → (u.port port).ce = min (p1.ce + e) (2 ^ 32 - 1) ∧ (u.port port).ue = p1.ue ∧ u.poison = s1.poison) ∧
          (bad = true → (u.port port).ue = min (p1.ue + 1) 65535 ∧ (u.port port).ce = p1.ce ∧ (9 ≤ e → line ∈ u.poison)) ∧
          let v := if bad && !p1.retired then portLog u 1 port (bankOf co) (co / 64) else u
          let w := if 9 ≤ e then softLog v 1 port (bankOf co) (co / 64)
            else if e = 0 || linePoisoned v line then v else softLog v 0 port (bankOf co) (co / 64)
          exec (.portRead port line err retries) s
            = .next (w.setPort port { w.port port with seen := line :: (w.port port).seen.filter (· != line) })) ∧
      (∀ err, pt.retired = false → wholeEntry s1 port line = false →
        let u := arrayRead (bankEnqueue s1 line 0) port co line err
        exec (.patrolScrub port line err) s = .next (if linePoisoned u line then softLog u 1 port (bankOf co) (co / 64)
          else if err = 0 then u
          else softLog (portWrite u (line * 64) (u.dev.bytes (line * 64) 64)) 2 port (bankOf co) (co / 64)) ∧
        (9 ≤ err → (Tab.get {} s1.mplog (port / 96)).base = 0 → line ∈ u.poison ∧ u.dev = s1.dev ∧
          (u.port port).ue = min (p1.ue + 1) 65535) ∧
        (err < 9 → linePoisoned s1 line = false → linePoisoned u line = false ∧ u.dev = s1.dev ∧
          (u.port port).ce = min (p1.ce + err) (2 ^ 32 - 1))) ∧
      (wholeEntry s port line = false → readSeen s port line = false →
        (linePoisoned s line = false → noteRead s (line * 64) true = bankEnqueue s line 0) ∧
        (linePoisoned s line = true → ∃ u, u.dev = s.dev ∧ (u.port port).ue = min (pt.ue + 1) 65535 ∧
          noteRead s (line * 64) true = if pt.retired then u else portLog u 1 port (bankOf co) (co / 64))) ∧
      (readSeen s port line = true →
        noteRead s (line * 64) true = s.setPort port { pt with seen := pt.seen.filter (· != line) }) ∧
      (line ∈ pt.slices → noteRead s (line * 64) false = s) ∧
      (∀ kind, let b0 := Tab.get {} pt.banks (bankOf co)
        let v := Tab.get {} ((bankEnqueue s line kind).port port).banks (bankOf co)
        v.queue = b0.queue ++ [⟨kind, line⟩] ∧
        (∀ fin, b0.rfm = some fin → s.now < fin → b0.queue = [] → v.rfmWait = some s.now) ∧
        (∀ fin, b0.rfm = some fin → fin ≤ s.now → v.rfmWait = b0.rfmWait))) ∧
    (∀ pa bs bad rest, pt.arr = .write pa bs bad :: rest → portBusy s port (lineOf pa) = false → portOf s pa = some (port, co) →
      (pt.retired = false → ∃ t, exec (.portWrite port) s = .next t ∧ t.dev = s.dev.writeBytes pa bs ∧ (t.port port).arr = rest ∧
        (bad = true → lineOf pa ∈ t.poison) ∧
        ∃ e, entryOf t port (lineOf pa) = some e ∧
          e.valid &&& byteMask pa bs.length = if bad then 0 else byteMask pa bs.length) ∧
      (pt.retired = true → ∃ t, exec (.portWrite port) s = .next t ∧ t.dev = s.dev ∧ (t.port port).arr = rest)) ∧
    (∀ pa n op v v2 rest e, pt.arr = .atomic pa n op v v2 none :: rest → entryOf s port (lineOf pa) = some e →
      portOf s pa = some (port, co) → pt.retired = false →
      (e.pend = [] → portBusy s port (lineOf pa) = false → wordValid s pa n = true →
        ∃ t, exec (.portAtomic port) s = .next t ∧ (t.port port).arr = rest ∧
          t.dev = s.dev.writeBytes pa (leBytes (atomicResult op (8 * n) (s.dev.readLE pa n) v v2) n)) ∧
      (e.pend = [] → portBusy s port (lineOf pa) = false → wordValid s pa n = false → portOf s (lineOf pa * 64) = some (port, co) →
        readSeen s port (lineOf pa) = false →
        ∃ t, exec (.portAtomic port) s = .next t ∧ t.dev = s.dev ∧ (t.port port).arr = rest ∧
          (Tab.get {} (t.port port).banks (bankOf co)).queue = (Tab.get {} pt.banks (bankOf co)).queue ++ [⟨2, lineOf pa⟩] ∧
          ∃ e', entryOf t port (lineOf pa) = some e' ∧ e'.pend = [.atomic pa n op v v2 none] ∧ e'.state = 2) ∧
      (e.pend ≠ [] → e.pend.length < 16 → ∃ t, exec (.portAtomic port) s = .next t ∧ t.dev = s.dev ∧ (t.port port).arr = rest ∧
        ∃ e', entryOf t port (lineOf pa) = some e' ∧ e'.pend = e.pend ++ [.atomic pa n op v v2 none] ∧ e'.state = 2)) ∧
    (∀ e pa n op v v2, entryOf s port line = some e → e.state = 2 → pt.retired = false → e.pend = [.atomic pa n op v v2 none] →
      portOf s pa = some (port, co) → lineOf pa = line →
      (bankHolds s port line 2 = true → exec (.fillReturn port line) s = .next s) ∧
      (bankHolds s port line 2 = false →
        (linePoisoned s line = false → ∃ t, exec (.fillReturn port line) s = .next t ∧
          t.dev = s.dev.writeBytes pa (leBytes (atomicResult op (8 * n) (s.dev.readLE pa n) v v2) n)) ∧
        (∀ at_, linePoisoned s line = true → e.valid &&& byteMask pa n ≠ byteMask pa n → readSeen s port line = false →
          portOf s (line * 64) = some (port, at_) → ∃ u, u.dev = s.dev ∧ (u.port port).ue = min (pt.ue + 1) 65535 ∧
          exec (.fillReturn port line) s = .next (portLog u 1 port (bankOf at_) (at_ / 64))))) ∧
    (∀ e, (pt.entries.find? fun e => e.line == line && e.state == 1) = some e →
      let drains := exec (.entryDrain port line) s = .next (bankEnqueue (updEntry s port line fun e => { e with state := 3 }) line 1)
      (e.last + 2000 ≤ s.now → drains) ∧
      (∀ x, entryWanted s port = true → idlest pt.entries = some x → x.line = line → drains) ∧
      (s.now < e.last + 2000 → entryWanted s port = false → exec (.entryDrain port line) s = .next s)) ∧
    (bankHolds s port line 1 = false → exec (.drainDone port line) s
      = .next (s.setPort port { pt with entries := pt.entries.filter fun e => !(e.line == line && e.state == 3) })) ∧
    (bankHolds s port line 1 = true → exec (.drainDone port line) s = .next s) ∧
    (∀ r rest, b.queue = r :: rest → portOf s (r.line * 64) = some (port, co) → b.rfm = none → b.busy ≤ s.now →
      let row := rowOf co
      let counted := countRow b.rows row
      (b.openRow = some row → exec (.bankActivate port bank) s = .next (setBank { b with queue := rest })) ∧
      (b.openRow ≠ some row → b.ready ≤ s.now → counted.2 < pt.thr → exec (.bankActivate port bank) s
        = .next (setBank { b with queue := rest, openRow := some row, ready := s.now + 60, rows := counted.1 })) ∧
      (b.openRow ≠ some row → b.ready ≤ s.now → pt.thr ≤ counted.2 →
        ∃ t, exec (.bankActivate port bank) s = .next (portLog t 0 port bank row) ∧ t.dev = s.dev ∧ (t.port port).alerts = min (pt.alerts + 1) 65535 ∧
          (t.port port).rfms = min (pt.rfms + 1) 65535 ∧ (Tab.get {} (t.port port).banks bank).openRow = none ∧
          (Tab.get {} (t.port port).banks bank).rfm = some (s.now + 270) ∧
          ∀ rc ∈ (Tab.get {} (t.port port).banks bank).rows, rc.1 = row → rc.2 = 0)) ∧
    (∀ fin, b.rfm = some fin → fin ≤ s.now →
      (b.rfmWait = none → exec (.rfmWindowEnd port bank) s = .next (setBank { b with rfm := none, rfmWait := none })) ∧
      (∀ w, b.rfmWait = some w → ∃ t, exec (.rfmWindowEnd port bank) s = .next t ∧
        (t.port port).bocnt = min (pt.bocnt + 1) 65535 ∧
        (t.port port).boff = min (pt.boff + (fin - max w (fin - 210))) (2 ^ 64 - 1) ∧ (Tab.get {} (t.port port).banks bank).rfm = none)) ∧
    (∀ t0, b.refreshed = some t0 → s.now < t0 + 3900 → exec (.refresh port bank) s = .next s) ∧
    ((∀ t0, b.refreshed = some t0 → t0 + 3900 ≤ s.now) →
      (b.rfm = none → exec (.refresh port bank) s
        = .next (setBank { b with ready := max b.ready (s.now + 120), busy := s.now + 120, refreshed := some s.now })) ∧
      (∀ fin, b.rfm = some fin → s.now < fin - 210 → exec (.refresh port bank) s = .next (setBank { b with
        ready := max b.ready (s.now + 330), busy := s.now + 120, rfm := some (max fin (s.now + 330)), refreshed := some s.now }))) ∧
    (∀ fin, b.rfm = some fin → fin - 210 ≤ s.now → exec (.refresh port bank) s = .next s) ∧
    (s.now < b.window + 32000000 → exec (.countWindowEnd port bank) s = .next s) ∧
    (b.window + 32000000 ≤ s.now → exec (.countWindowEnd port bank) s
      = .next (setBank { b with rows := [], window := b.window + (s.now - b.window) / 32000000 * 32000000 })) ∧
    (pt.retired = false → 16 < (pt.ueTimes.filter fun t => decide (s.now < t + 1000000000)).length →
      ∃ t, exec (.channelRetire port) s = .next (portLog t 2 port 0 0) ∧
      (t.port port).retired = true ∧ (t.port port).entries = [] ∧ (t.port port).arr = [] ∧ t.dev = s.dev)

/-! ### Links, the fabric, LNK and XFR (16 R417-R441) -/

/-- 16 R419-R421, R429-R433, R450: what flits, replays, retrainings, failed lanes, failed routes and the time exchange do to a module,
a port, a package, the link event log and the count of time. That a flit moves only the sequence number, the wait for a replay and
the counts, and that the whole slew is added at once, a negative one adding nothing, is log 39's (DEDUCED): the model's reading. -/
def Obligations.LinksServe : Prop :=
  ∀ (s : State) (lk lane : Nat),
    let m := s.mod lk
    (m.paused = false → m.nak = false → m.state ≠ 2 →
      exec (.flitReceive lk false) s = .next (s.setMod lk { m with seq := m.seq + 1 }) ∧
      exec (.flitReceive lk true) s = .next (s.setMod lk { m with nak := true })) ∧
    (m.paused = true ∨ m.nak = true ∨ m.state = 2 → ∀ bad, exec (.flitReceive lk bad) s = .next s) ∧
    (m.nak = true → m.paused = false → ∃ t, exec (.flitReplay lk) s = .next t ∧ (t.mod lk).nak = false ∧
      (t.mod lk).count = m.count + 1 ∧ (m.replays = [] → (t.mod lk).retrain = m.retrain) ∧
      (64 ≤ (m.replays.filter fun x => decide (s.now < x + 1000000)).length → (t.mod lk).retrain = true)) ∧
    (m.retrain = true → exec (.moduleRetrain lk) s = .next (s.setMod lk { m with retrain := false, replays := [], paused := true })) ∧
    exec (.modulePauseEnd lk) s = .next (s.setMod lk { m with paused := false }) ∧
    (∀ kind what unit width code, let t := linkLog s kind what unit width code
      (s.lnklog.base = 0 → t.dev = s.dev ∧ t.ports = s.ports) ∧
      (s.lnklog.base ≠ 0 → s.lnklog.base % 16 = 0 → EntryWritten s t s.lnklog t.lnklog 1024 (leBytes kind 1 ++ leBytes what 1
        ++ leBytes unit 1 ++ leBytes width 1 ++ leBytes code.toNat 2 ++ leBytes 0 2 ++ leBytes s.now 8))) ∧
    (m.failed.getLsbD lane = false → m.state ≠ 2 → lk < 160 →
      let f := m.failed ||| BitVec.twoPow 66 lane
      let half := s.halfMode.getLsbD (linkOf lk).1
      let width := max m.state (widthState half f)
      let moved := (!half && m.state == 0 && width == 0) || width != m.state
      let u := s.setMod lk { m with failed := f, state := width, paused := m.paused || moved }
      let v := if moved then linkLog u 0 (linkOf lk).1 (linkOf lk).2 (lanesAt lk width) evtLane else u
      ((linkOf lk).1 = 0 ∨ width ≠ 2 → exec (.laneFail lk lane) s = .next v) ∧
      ((linkOf lk).1 ≠ 0 → (∀ x ∈ linkMods (linkOf lk).1, (v.mod x).state = 2) → exec (.laneFail lk lane) s = .next (stopFree v) ∧
        (stopFree v).svState = 4)) ∧
    (∀ f, widthState true f = 0 ↔ failedBelow f 0 32 + failedBelow f 32 32 = 0) ∧
    (∀ f, failedBelow f 0 32 + failedBelow f 32 32 + failedBelow f 64 2 ≤ 2 → widthState false f = 0) ∧
    (∀ port, let p := s.mod (160 + port)
      p.failed.getLsbD lane = false → p.state ≠ 2 →
      let f := p.failed ||| BitVec.twoPow 66 lane
      let width := if failedBelow f 0 4 ≠ 0 ∧ failedBelow f 4 4 ≠ 0 then 2 else 1
      let u := s.setMod (160 + port) { p with failed := f, state := width, paused := p.paused || width != p.state }
      let v := if width ≠ p.state then linkLog u 0 3 port (lanesAt (160 + port) width) evtLane else u
      exec (.fabricLaneFail port lane) s = .next ((List.range 64).foldl checkRoutes v) ∧
      (v.indom = false → exec (.fabricLaneFail port lane) s = .next v)) ∧
    (∀ pkg, (s.indom = true → pkg ≠ s.pkg.toNat → Tab.get 0 s.routes pkg ≠ 0 → liveRoutes s pkg = [] →
        checkRoutes s pkg = declareUnreach s pkg) ∧
      (liveRoutes s pkg ≠ [] ∨ s.indom = false → checkRoutes s pkg = s) ∧
      (let u := linkLog { s with unreach := s.unreach ||| BitVec.twoPow 64 pkg } 1 3 pkg 0 fltRemote
       s.unreach.getLsbD pkg = false → u.threads = [] → u.groups = [] →
        declareUnreach s pkg = { u with bars := u.bars.map (loseBar pkg) })) ∧
    (∀ pkg port, (Tab.get 0 s.routes pkg).testBit port = true →
      (∃ i, i ∈ liveRoutes s pkg ∧ i ≠ port) → ∃ t, exec (.routeFail pkg port) s = .next t ∧ t.unreach = s.unreach ∧
        (Tab.get 0 t.routeDown pkg).testBit port = true) ∧
    (∀ pkg port, (Tab.get 0 s.routes pkg).testBit port = true → s.indom = true → pkg ≠ s.pkg.toNat →
      (∀ i ∈ liveRoutes s pkg, i = port) → exec (.routeFail pkg port) s = .next (declareUnreach
        { s with routeDown := Tab.set s.routeDown pkg (Tab.get 0 s.routeDown pkg ||| 2 ^ port) } pkg)) ∧
    ∀ slew : Int, (s.indom = true → exec (.timeExchange slew) s = .next { s with time := s.time + BitVec.ofNat 64 slew.toNat }) ∧
      (s.indom = false → exec (.timeExchange slew) s = .next s)

/-- 16 R424-R427, R434-R439, R448: the queues between dies give and take windows and verdicts or wait, collectives gather their
members' data, WAKEPOST writes, adds or interrupts, and LNKSTAT reports. WHAT 3 of a WITHDRAW entry, and the entry that a further
notice to a withdrawn group writes, are log 39's (DEDUCED): the model's reading. -/
def Obligations.LinkCommandsResults : Prop :=
  ∀ (s s1 s2 : State) (src : Nat) (c : Cmd),
    let w := whoL c.ctx
    let p := s.dq c.dqid
    let st := s.estream engLnk src
    let ends := fun (u : State) (ws : List W64) => Host.Outcome.next (workDone u engLnk src c (noted c ws))
    let waits := fun (i : Instr) (kind : Nat) => ∃ u, exec i s = .next u ∧ (u.estream engLnk src).wait = kind
    let win := BitVec.ofNat 32 (bitsAt (c.w 1) 0 32)
    (Runs s engLnk src c → p.opened = true →
      (c.op = 1 → c.kind1 = false → win = p.nextw → let n := bitsAt (c.w 0) 38 4 + 1
        (2 < winDiff win p.vw ∨ 4 ≤ p.drafts.length → waits (.dqputDraft src) waitDq) ∧
        (∀ toks, winDiff win p.vw ≤ 2 → p.drafts.length < 4 → engRead w (c.w 2) (4 * n) s = (.ok toks, s1) →
          exec (.dqputDraft src) s = ends (s1.setDq c.dqid { p with nextw := win + 1, drafts := p.drafts ++ [⟨win, n, toks, p.wep⟩] })
            [BitVec.ofNat 64 win.toNat])) ∧
      (c.op = 1 → c.kind1 = false → win ≠ p.nextw →
        exec (.dqputDraft src) s = .next (stopCmd s engLnk src c fltBadCmd 0 (lnkStatus src))) ∧
      (∀ x count, c.op = 1 → c.kind1 = true → 0 < winDiff win p.vw → winDiff win p.tw ≤ 0 →
        (p.taken.find? fun t => t.1 == win) = some (x, count) → let acc := bitsAt (c.w 1) 32 5
        acc ≤ count → (4 ≤ p.verdicts.length → waits (.dqputVerdict src) waitDq) ∧
        (p.verdicts.length < 4 → exec (.dqputVerdict src) s = ends (s.setDq c.dqid { p with
          eep := if acc = count then p.eep else p.eep + 1
          vw := win
          verdicts := p.verdicts ++ [⟨win, acc, acc == count, BitVec.ofNat 32 (bitsAt (c.w 2) 0 32)⟩]
          taken := p.taken.filter fun t => decide (0 < winDiff t.1 win) }) [BitVec.ofNat 64 win.toNat])) ∧
      (∀ rest n, c.op = 2 → c.kind1 = false → takeDraft p.eep p.drafts p.stale = (none, rest, n) →
        ∃ u, exec (.dqgetDraft src) s = .next u ∧ (u.estream engLnk src).wait = waitDq ∧ (u.dq c.dqid).drafts = rest ∧
          (u.dq c.dqid).stale = n) ∧
      (∀ x rest n, c.op = 2 → c.kind1 = false → takeDraft p.eep p.drafts p.stale = (some x, rest, n) →
        let bs := leBytes x.win.toNat 4 ++ leBytes x.count 1 ++ leBytes 0 59 ++ x.tokens
        let taken := (s.setDq c.dqid { p with drafts := rest, stale := n }).setDq c.dqid
          { p with drafts := rest, stale := n, tw := x.win, taken := p.taken ++ [(x.win, x.count)] }
        engWrite w (c.w 1) (bs ++ List.replicate (128 - bs.length) 0) taken = (.ok (), s1) →
        exec (.dqgetDraft src) s = ends s1 [BitVec.ofNat 64 (x.win.toNat + x.count * 2 ^ 32), 0]) ∧
      (c.op = 2 → c.kind1 = true → p.verdicts = [] → waits (.dqgetVerdict src) waitDq) ∧
      (∀ x rest, c.op = 2 → c.kind1 = true → p.verdicts = x :: rest → c.w 1 = 0 →
        exec (.dqgetVerdict src) s = ends (s.setDq c.dqid { p with verdicts := rest, wep := if x.full then p.wep else p.wep + 1 })
          [BitVec.ofNat 64 (x.win.toNat + x.acc * 2 ^ 32 + x.full.toNat * 2 ^ 37), BitVec.ofNat 64 x.ctok.toNat])) ∧
    (st.run = some c → st.wait = waitDq → runRoom s engLnk src = true → exec (.waitdqEnd src) s = .next (lnkWork src
      (if c.op = 1 then (if c.kind1 then putVerdict else putDraft) else (if c.kind1 then getVerdict else getDraft))
      (endWait s engLnk src) c)) ∧
    (∀ bs, Runs s engLnk src c → c.op = 3 → c.seq = (s.group c.gid).seq →
      let s0 := s.setGroup c.gid { s.group c.gid with seq := (s.group c.gid).seq + 1 }
      (if c.collOp = 8 then bs = [] ∧ s1 = s0 else engRead w (c.w 1) c.len s0 = (.ok bs, s1)) →
      ∃ u, exec (.coll src) s = .next u ∧ (u.estream engLnk src).wait = waitPeer ∧
        u.peers = s1.peers ++ [⟨c.gid, s1.pkg.toNat, c.seq, c.collOp, c.root, bs⟩]) ∧
    (let all := s.peers.filter fun x => x.gid == c.gid && x.seq == c.seq
     let got := (s.group c.gid).list.filterMap fun m => all.find? fun x => x.pkg == m
     let s0 := endWait { s with peers := s.peers.filter fun x => !(x.gid == c.gid && x.seq == c.seq) } engLnk src
     st.run = some c → c.op = 3 → st.wait = waitPeer → got.length = (s.group c.gid).list.length →
     ((got.all fun x => x.op == c.collOp && x.root == c.root && x.bytes.length == c.len) = true →
       engWrite w (c.w 2) (collResult c.collOp c.root c.len got) s0 = (.ok (), s1) →
       exec (.collComplete src) s = .next (workDone s1.takeFree.2 engLnk src c (noted c [Config.freeWord s1.takeFree.1]))) ∧
     ((got.all fun x => x.op == c.collOp && x.root == c.root && x.bytes.length == c.len) = false →
       exec (.collComplete src) s = .next (stopCmd s0 engLnk src c fltBadCmd 0 (lnkStatus src)))) ∧
    (∀ gid, (s.group gid).opened = true → (s.group gid).withdrawn = false → exec (.withdrawNotice gid) s = .next (endColl
      (linkLog (s.setGroup gid { s.group gid with withdrawn := true }) 2 3 gid 0 fltWithdrawn) gid fltWithdrawn lnkStatus)) ∧
    (∀ gid, (s.group gid).opened = true → (s.group gid).withdrawn = false → s.streams = [] → s.lnklog.base = 0 →
      ∃ u, exec (.withdrawNotice gid) s = .next u ∧ (u.group gid).withdrawn = true ∧ (u.group gid).opened = true) ∧
    (∀ gid, (s.group gid).opened = true → (s.group gid).withdrawn = true →
      exec (.withdrawNotice gid) s = .next (linkLog (s.setGroup gid (s.group gid)) 2 3 gid 0 fltWithdrawn)) ∧
    (∀ a, nextCmd s engLnk src = some c → c.op = 3 → pushDenied s engLnk c = false → (collCheck s c).map Prod.fst = some fltWithdrawn →
      let u := freeRange s w (c.w 2) (collSpan s c)
      nextCmd u engLnk src = some c → pushDenied u engLnk c = false → collCheck u c = some (fltWithdrawn, a) →
      exec (.coll src) s = .next (stopCmd (startCmd u engLnk src) engLnk src c fltWithdrawn a (lnkStatus src))) ∧
    (Runs s engLnk src c → c.op = 4 →
      (c.kind1 = true → exec (.wakepost src) s = ends { s with msix := (c.w 1).toNat :: s.msix } [0]) ∧
      (c.kind1 = false → (c.w 0).getLsbD 45 = false → engPut w (c.w 1) 8 (c.w 2).toNat s = (.ok (), s1) →
        exec (.wakepost src) s = ends s1 [0]) ∧
      (∀ old, c.kind1 = false → (c.w 0).getLsbD 45 = true → hostPlace w (c.w 1) s = (.ok none, s1) →
        engAtomic w (c.w 1) 8 0 (c.w 2).toNat 0 s1 = (.ok old, s2) → exec (.wakepost src) s = ends s2 [BitVec.ofNat 64 old]) ∧
      (∀ pa, c.kind1 = false → (c.w 0).getLsbD 45 = true → hostPlace w (c.w 1) s = (.ok (some pa), s1) →
        ∃ u, exec (.wakepost src) s = .next u ∧ (u.estream engLnk src).wait = waitHost ∧
          Tab.find u.hostReqs src = some { kind := if s1.hostFb then 2 else 1, addr := pa, ea := c.w 1, size := 8,
                                           val := (c.w 2).toNat })) ∧
    (Runs s engLnk src c → c.op = 5 → let idx := bitsAt (c.w 0) 36 8
      (bitsAt (c.w 0) 44 3 = 0 → let ms := (linkMods idx).map s.mod
        let at_ := fun (k : Nat) => BitVec.ofNat 64 (ms.countP fun m => m.state == k)
        exec (.lnkstat src) s = .next (workDone s engLnk src c (some [at_ 0, at_ 1, at_ 2, BitVec.ofNat 64 (ms.foldl (fun n m =>
          n + if m.state == 0 && !s.halfMode.getLsbD idx then failedBelow m.failed 0 64 else 0) 0)]))) ∧
      (bitsAt (c.w 0) 44 3 = 3 → let g := s.group idx
        exec (.lnkstat src) s = .next (workDone s engLnk src c (some [g.members, BitVec.ofNat 64 g.seq.toNat,
          if !g.opened then 2 else if g.withdrawn then 1 else 0, 0]))) ∧
      (bitsAt (c.w 0) 44 3 = 1 → ∃ u, exec (.lnkstat src) s = .next u ∧ (u.mod (160 + idx)).count = 0 ∧
        ∃ e, (u.estream engLnk src).held = some e ∧ e.words = [BitVec.ofNat 64 (lanesAt (160 + idx) (s.mod (160 + idx)).state),
          BitVec.ofNat 64 (s.mod (160 + idx)).count, BitVec.ofNat 64 (s.mod (160 + idx)).state, 0]) ∧
      (bitsAt (c.w 0) 44 3 = 2 → let q := s.dq idx
        exec (.lnkstat src) s = .next (workDone s engLnk src c (some [BitVec.ofNat 64 q.nextw.toNat, BitVec.ofNat 64 q.vw.toNat,
          BitVec.ofNat 64 (q.wep.toNat + q.eep.toNat * 2 ^ 32), BitVec.ofNat 64 q.stale]))))

/-- 16 R440, R441: XFERL sends its blocks, each with its ARRIVE bit ORed once its rows are performed, and ends when every bit is
ORed; it waits for a source layer that has not arrived. -/
def Obligations.TransferSendsBlocks : Prop :=
  ∀ (s s1 s2 s3 s4 s5 s6 s7 : State) (src : Nat) (c : Cmd) (ss ds : SeqDesc) (sp dp : Pool),
    let w := whoX c.ctx
    let st := s.estream engXfr src
    let x := s.xrun src
    let left := bitsAt (c.w 0) 8 16
    (x.seqs = some (ss, sp, ds, dp) → xferFirst src c s = (.ok (ss, sp, ds, dp), s)) ∧
    (x.seqs = none → readSeq w (c.w 1) s = (.ok ss, s1) → readPool w ss.pool s1 = (.ok sp, s2) → readSeq w (c.w 2) s2 = (.ok ds, s3) →
      readPool w ds.pool s3 = (.ok dp, s4) → sp.geom = dp.geom → c.layer < sp.layers →
      xferFirst src c s = (.ok (ss, sp, ds, dp), s4.setXrun src { s4.xrun src with seqs := some (ss, sp, ds, dp) })) ∧
    (∀ i e lev, let notes := fun (lev : Nat) (d : SeqDesc) => keepXrun src fun x => { x with here := some (lev, d) }
      (x.found = some e → xferSource src c ss sp i s = (.ok e, s)) ∧
      (x.found = none → x.here = none → resolveFrom w sp.nblk i notes 5 0 ss s = (.ok (some (e, lev)), s1) →
        (e.xfr = false ∨ e.arrive.testBit c.layer = true → xferSource src c ss sp i s = (.ok e, s1)) ∧
        (e.xfr = true → e.arrive.testBit c.layer = false → xferSource src c ss sp i s
          = (.error (.wait waitArr [e.addr]), s1.setXrun src { s1.xrun src with found := some e })))) ∧
    (Runs s engXfr src c → c.op = 1 → st.prog = 1 →
      (∀ e d ks vs, x.next ≤ left → xferFirst src c s = (.ok (ss, sp, ds, dp), s1) →
        let i := bitsAt (c.w 0) 24 16 + (s1.xrun src).next
        xferSource src c ss sp i s1 = (.ok e, s2) → i < ds.tcap → readEntry w ds.tbl i s2 = (.ok d, s3) →
        d.v = true → d.xfr = true → d.pblk < dp.nblk →
        engRead w (sp.keyAt e.pblk c.layer 0 0) (sp.heads * 64 * sp.rowK) s3 = (.ok ks, s4) →
        engRead w (sp.valAt e.pblk c.layer 0 0) (sp.heads * 64 * sp.rowV) s4 = (.ok vs, s5) →
        engWrite w (dp.keyAt d.pblk c.layer 0 0) ks s5 = (.ok (), s6) →
        engWrite w (dp.valAt d.pblk c.layer 0 0) vs s6 = (.ok (), s7) →
        exec (.xferl src) s = .next (s7.setXrun src { s7.xrun src with
          next := (s7.xrun src).next + 1, ors := (s7.xrun src).ors ++ [⟨c, d.addr, dp, d.pblk⟩], here := none, found := none })) ∧
      (left < x.next → x.ors = [] →
        exec (.xferl src) s = .next (workDone s.takeFree.2 engXfr src c (noted c [Config.freeWord s.takeFree.1]))) ∧
      (left < x.next → x.ors ≠ [] → exec (.xferl src) s = .next s)) ∧
    (∀ o rest r, s.shut.phase = 0 → x.ors = o :: rest →
      engAtomic (whoX o.cmd.ctx) (o.entry + 16 + BitVec.ofNat 64 (8 * (o.cmd.layer / 64))) 8 7 (2 ^ (o.cmd.layer % 64)) 0 (freeTrimmed s o)
        = (r, s1) →
      let u := s1.setXrun src { s1.xrun src with ors := rest }
      (∀ old, r = .ok old → exec (.arriveOr src) s = .next u) ∧
      (∀ code a, r = .error (.flt code a) → (s1.estream engXfr src).run = some o.cmd → (s1.estream engXfr src).stopped = false →
        exec (.arriveOr src) s = .next (stopCmd u engXfr src o.cmd code a (xfrStatus src)))) ∧
    (∀ (o : XferOr) d, readEntry (whoX o.cmd.ctx) o.entry 0 s = (.ok d, s1) →
      (d.v = true → d.pblk = o.blk → freeTrimmed s o = s1) ∧
      (d.v = false ∨ d.pblk ≠ o.blk → freeTrimmed s o = freeLayer s1 o.cmd o.pool o.blk)) ∧
    (st.run = some c → st.wait = waitArr → runRoom s engXfr src = true →
      (∀ e, readEntry w (carried s engXfr src 8) 0 s = (.ok e, s1) → exec (.xfrArriveWaitEnd src) s
        = .next (if e.arrive.testBit c.layer then endWait s1 engXfr src else s1)) ∧
      (∀ code a, readEntry w (carried s engXfr src 8) 0 s = (.error (.flt code a), s1) →
        exec (.xfrArriveWaitEnd src) s = .next (stopCmd s1 engXfr src c code a (xfrStatus src))))

/-! ### The host interface and other packages (04 R99, 16 R430, R442-R447) -/

/-- 04 R99, 16 R430: a request of another package that passes its checks here is performed and answered, one that fails them is
answered with its fault; the answers to this package's requests perform the access or bring its fault. -/
def Obligations.RemoteRequestsServed : Prop :=
  ∀ (s s' : State) (ctx unit off n v v2 op : Nat) (l : Loc), n ≠ 0 → off % 64 + n ≤ 64 → unit < 14 →
    let reads := arriving s ctx unit off n (if unit = 1 then .fetch else .read)
    let writes := arriving s ctx unit off n .write
    (reads = (s', .ok l) →
      let r := readLoc s' n l
      exec (.remoteRequest ctx unit off 0 op n v v2) s
        = .next (if locPoisoned r.1 l n then answered r.1 fltUncorr.toNat [] else answered r.1 0 r.2)) ∧
    (writes = (s', .ok l) →
      exec (.remoteRequest ctx unit off 1 op n v v2) s = .next (answered (writeLoc s' (leBytes v n) l) 0 [])) ∧
    (∀ pa b u, writes = (s', .ok (.dev pa b)) →
      (∀ old, portAtomic s' pa n op v v2 = (u, some old) →
        exec (.remoteRequest ctx unit off 2 op n v v2) s = .next (answered u 0 (leBytes old n))) ∧
      (portAtomic s' pa n op v v2 = (u, none) →
        exec (.remoteRequest ctx unit off 2 op n v v2) s = .next (answered u fltUncorr.toNat []))) ∧
    (∀ pa, writes = (s', .ok (.host pa)) →
      exec (.remoteRequest ctx unit off 2 op n v v2) s = .next (answered s' fltAccess.toNat [])) ∧
    (∀ code, reads = (s', .error code) → exec (.remoteRequest ctx unit off 0 op n v v2) s = .next (answered s' code.toNat [])) ∧
    (∀ code, writes = (s', .error code) → exec (.remoteRequest ctx unit off 1 op n v v2) s = .next (answered s' code.toNat []) ∧
      exec (.remoteRequest ctx unit off 2 op n v v2) s = .next (answered s' code.toNat [])) ∧
    (readDesc s ctx = (s', none) → ctxLive s' ctx = false → ∀ kind, arriving s ctx unit off n kind = (s', .error fltRemote)) ∧
    ∀ (core slot : Nat) (r : OutReq), let t := s.thread core slot
      t.out = some r → 3 ≤ r.kind → r.kind ≤ 5 → r.reply = none →
      let old := s.remote.readLE r.addr r.size
      (r.kind ≠ 4 → exec (.remoteResponse core slot 0 0) s
        = .next (s.setThread core slot { t with out := some { r with reply := some (0, old) } })) ∧
      (r.kind = 4 → exec (.remoteResponse core slot 0 0) s
        = .next (State.setThread { s with remote := s.remote.writeLE r.addr r.size (atomicResult r.op (8 * r.size) old r.val r.val2) }
          core slot { t with out := some { r with reply := some (0, old) } })) ∧
      (∀ code, 1 ≤ code → exec (.remoteResponse core slot 0 code) s
        = .next (s.setThread core slot { t with out := some { r with reply := some (remoteCode code, 0) } })) ∧
      ∀ i (e : StoreEnt), t.saq[i]? = some (.store e) → e.sent = true →
        exec (.remoteResponse core slot (i + 1) 0) s = .next (settle (State.setThread
          { s with remote := s.remote.writeLE e.ea.toNat e.size.bytes (e.data.getD 0) } core slot (dropOp t i)) core slot) ∧
        ∀ code, 1 ≤ code → (guardOf s core t 0 (t.saq.take i) = .clear ∨ t.cancelled = true →
            exec (.remoteResponse core slot (i + 1) code) s = .next (failSent s core slot i (remoteCode code))) ∧
          (guardOf s core t 0 (t.saq.take i) ≠ .clear → t.cancelled = false →
            exec (.remoteResponse core slot (i + 1) code) s = .next s)

/-- 16 R442-R447: the host's requests through BAR2 are performed where its windows map them and refused elsewhere; completions of
reads and AtomicOps reach who waits for them; a refused or timed-out AtomicOp traps, or falls back to a read and a write. -/
def Obligations.HostRequestsServed : Prop :=
  ∀ (s : State),
    (∀ off bytes pa, (barPlace s off bytes.length = (pa, 2) → exec (.hostMemWrite off bytes) s = .next (devWrite s pa bytes)) ∧
      (barPlace s off bytes.length = (pa, 1) → exec (.hostMemWrite off bytes) s = .next s) ∧
      (barPlace s off bytes.length = (pa, 0) → exec (.hostMemWrite off bytes) s = .next (answered s unsupported []))) ∧
    (∀ off len pa mode, barPlace s off len = (pa, mode) → mode ≠ 0 → len ≠ 0 →
      let u := devTouch s pa len true
      exec (.hostMemRead off len) s
        = .next (if devPoisoned u pa len then answered u fltUncorr.toNat [] else answered u 0 (u.dev.bytes pa len))) ∧
    (∀ off op n v v2 pa u, n = 4 ∨ n = 8 → off % n = 0 → op = 0 ∨ op = 9 ∨ op = 10 → barPlace s off n = (pa, 2) →
      (∀ old, portAtomic s pa n op v v2 = (u, some old) → exec (.hostAtomicop off op n v v2) s = .next (answered u 0 (leBytes old n))) ∧
      (portAtomic s pa n op v v2 = (u, none) → exec (.hostAtomicop off op n v v2) s = .next (answered u fltUncorr.toNat []))) ∧
    (s.svState = 4 → ∀ off n, barPlace s off n = (0, 0)) ∧
    (∀ (core slot : Nat) (r : OutReq), (s.thread core slot).out = some r → r.kind = 0 → r.reply = none →
      exec (.hostReadCompletion core slot) s = .next (s.setThread core slot { s.thread core slot with
        out := some { r with reply := some (0, s.host.readLE r.addr r.size) } })) ∧
    (∀ (who : Nat) (r : OutReq), hostReq s who = some r → r.kind = 1 → r.reply = none →
      exec (.hostAtomicCompletion who 0) s = .next (hostReply (hostAdd s r).1 who r 0 (hostAdd s r).2) ∧
      (∀ status, status ≠ 0 → exec (.hostAtomicCompletion who status) s = .next (hostRefused s who r (status != 1))) ∧
      ∀ applied, exec (.hostAtomicTimeout who applied) s
        = .next (hostRefused (if applied then (hostAdd s r).1 else s) who r true)) ∧
    (∀ (who : Nat) (r : OutReq) (rest : List Nat), s.fbq = who :: rest → hostReq s who = some r → r.reply = none →
      (r.kind = 2 → exec (.fallbackReadDone who 0) s
          = .next (setHostReq s who { r with kind := 6, val2 := s.host.readLE r.addr r.size }) ∧
        exec (.fallbackReadDone who 1) s = .next (hostReply { s with fbq := rest } who r fltHostUr 0) ∧
        ∀ status, 2 ≤ status → exec (.fallbackReadDone who status) s = .next (hostReply { s with fbq := rest } who r fltHostCa 0)) ∧
      (r.kind = 6 → ∀ status, exec (.fallbackReadDone who status) s = .next (hostReply { s with
        host := s.host.writeLE r.addr r.size ((r.val2 + r.val) % 2 ^ (8 * r.size)), fbq := rest, fbcnt := min 65535 (s.fbcnt + 1) }
        who r 0 r.val2))) ∧
    (∀ (core slot : Nat) (r : OutReq) (code : Code) (old : Nat), slot < 16 → core < 256 → (s.thread core slot).out = some r →
      hostReply s (core * 16 + slot) r code old
        = s.setThread core slot { s.thread core slot with out := some { r with reply := some (code, old) } }) ∧
    ∀ (r : OutReq), (hostAdd s r).2 = s.host.readLE r.addr r.size ∧
      (hostAdd s r).1.host = s.host.writeLE r.addr r.size ((s.host.readLE r.addr r.size + r.val) % 2 ^ (8 * r.size))

/-! ### Exchanges of a core, must-save declarations (17 R455-R468) -/

/-- 17 R460-R465: CTXSWAP and CTXSPILL join their core's line and, first in it, pass their checks and begin; each step of an
exchange moves it on; what a swapped-out thread is owed is appended to its image. -/
def Obligations.ContextExchangeRuns : Prop :=
  ∀ (s s1 s2 s3 : State) (core src : Nat) (c : Cmd),
    let w := s.swap core
    let who := whoC c.ctx
    (∀ p ∈ [(1, Instr.ctxswap src), (2, .ctxspill src)], c.op = p.1 →
      (Heads s engCtx src c →
        (swapCheck s c = none → ∃ t, exec p.2 s = .next t ∧ (t.estream engCtx src).run = some c ∧
          (t.estream engCtx src).wait = (if (s.swap c.swapCore).line = [] then 0 else waitCore) ∧
          (t.swap c.swapCore).line = (s.swap c.swapCore).line ++ [src]) ∧
        (∀ code a, swapCheck s c = some (code, a) →
          exec p.2 s = .next (stopCmd (startCmd s engCtx src) engCtx src c code a (ctxStatus src)))) ∧
      (Runs s engCtx src c → (s.swap c.swapCore).phase = 0 →
        (∀ u, readGrant s c.ctx 3 = .ok (u, false) →
          exec p.2 s = .next (leaveLine (stopCmd u engCtx src c fltPriv 0 (ctxStatus src)) c.swapCore src)) ∧
        (let k := c.swapCore
         let old := (s.core k).owner
         let begun : Swap := { s.swap k with src := src, old := old, swaps := c.swaps, held := (s.core k).gate }
         ∀ u, readGrant s c.ctx 3 = .ok (u, true) → (if c.op = 1 then old = 0 ∨ c.outAt ≠ 0 else old ≠ 0 ∧ c.outAt ≠ 0) →
         (c.inAt = 0 → exec p.2 s = .next (stopThreads (u.setSwap k { begun with cid := if c.op = 1 then 0 else old }) k)) ∧
         (∀ h rest, c.inAt ≠ 0 → checkImage who k c.inAt u = (.ok (h, rest), s2) → exec p.2 s
           = .next (pauseSwap (s2.setSwap k { begun with
               phase := 1, cid := hdrField h 4 4, spadIn := (hdrField h 0x0A 2).testBit 1
               image := imageContent s2 (rest.take sectionLen) }) k)) ∧
         (∀ code a, c.inAt ≠ 0 → checkImage who k c.inAt u = (.error (.flt code a), s2) →
           exec p.2 s = .next (leaveLine (stopCmd s2 engCtx src c code c.inAt (ctxStatus src)) k src))))) ∧
    (∀ bs, Swaps s core 1 c → readRange s who (c.inAt + 0x10000) 0x100000 = .ok (s1, bs) →
      exec (.shadowFillDone core) s = .next (stopThreads (goOnSwap (s1.setSwap core { w with bank := w.image.threads }) core) core)) ∧
    (Swaps s core 2 c →
      ((∀ k, k < 16 → atBoundary (s.thread core k) = true) → c.outAt = 0 → exec (.slotsStopped core) s = .next (s.setSwap core { w with
        phase := 3, frame := (s.qmg (dieOf core)).frame, time := s.time
        bankEnd := s.now + if Tab.get 0 s.islands (clusterOf core) = 1 then 69 else 46 })) ∧
      ((∃ k, k < 16 ∧ atBoundary (s.thread core k) = false) → exec (.slotsStopped core) s = .next s)) ∧
    (Swaps s core 3 c →
      (s.now < w.bankEnd → exec (.bankExchangeDone core) s = .next s) ∧
      (w.bankEnd ≤ s.now → c.swaps = false → ∃ t, exec (.bankExchangeDone core) s = .next (pauseSwap t core) ∧
        (t.swap core).phase = 4 ∧ (t.swap core).bank = bankNow s core ∧ (t.core core).stopped = false ∧
        (t.core core).gate = (s.core core).gate ∧ SameBytes s t ∧ ∀ k, k < 16 → t.thread core k = atGroup (s.thread core k)) ∧
      (w.bankEnd ≤ s.now → c.swaps = true → ∃ t, (t.swap core).phase = 4 ∧ (t.swap core).bank = bankNow s core ∧
        (t.core core).stopped = false ∧ (t.core core).gate = (s.core core).gate ∧ SameBytes s t ∧
        (∀ k, k < 16 → t.thread core k = arrives s core k (w.bank.getD k {})) ∧
        (∀ x ∈ w.image.elems, (t.thread core x.2.slot).live = true → x.2 ∈ t.result core x.1) ∧
        let u := bringParks t core c
        exec (.bankExchangeDone core) s
          = .next (pauseSwap { u with outs := u.outs ++ leaving core c (bankNow s core) } core))) ∧
    (c.inAt = 0 → bringParks s core c = s) ∧
    (∀ parks, c.inAt ≠ 0 → parkArea who c.inAt s = (.ok parks, s1) → let v := s1.swap core
      bringParks s core c = comeBack (s1.setSwap core { v with parked := parks.length }) core v.image 0 parks) ∧
    (∀ e, c.inAt ≠ 0 → parkArea who c.inAt s = (.error e, s1) → bringParks s core c = s1) ∧
    (Swaps s core 4 c → exec (.coreDrainDone core) s
      = .next (if coreAtRest s core then goOnSwap (s.setSwap core { w with phase := 5 }) core else s)) ∧
    (Swaps s core 5 c → let chk := if c.swaps then w.chk else s.estream engChk core
      let img := takeImage s core w.bank w.elems chk
      (c.outAt = 0 → s1 = s) →
      (c.outAt ≠ 0 → writeImage who core c.outAt img c.swapSpad w.old 0 w.frame w.time s = (.ok (), s1)) →
      exec (.imageSaveDone core) s = .next
        (if c.swaps then emptyMail (s1.setSwap core { s1.swap core with phase := 6 }) core else doneSwap s1 core w c)) ∧
    (Swaps s core 6 c →
      (c.inAt = 0 → exec (.imageRestoreDone core) s = .next (doneSwap (restoreCore s core none []) core w c)) ∧
      (∀ n bs, c.inAt ≠ 0 → w.spadIn = false → engVal who (c.inAt + 12) 4 s = (.ok n, s1) →
        engRead who (c.inAt + 0x100) (32 * min n 2040) s1 = (.ok bs, s2) → exec (.imageRestoreDone core) s
          = .next (doneSwap (restoreCore s2 core none (chunk 32 (min n 2040 + 1) bs)) core w c)) ∧
      (∀ pad n bs, c.inAt ≠ 0 → w.spadIn = true → engRead who (c.inAt + 0x180000) spadSize s = (.ok pad, s1) →
        engVal who (c.inAt + 12) 4 s1 = (.ok n, s2) → engRead who (c.inAt + 0x100) (32 * min n 2040) s2 = (.ok bs, s3) →
        exec (.imageRestoreDone core) s
          = .next (doneSwap (restoreCore s3 core (some pad) (chunk 32 (min n 2040 + 1) bs)) core w c))) ∧
    (let t := doneSwap s core w c
     (t.swap core).phase = 0 ∧ (t.core core).gate = (!c.swaps && w.held) ∧ (t.core core).stopped = false ∧ (t.estream engCtx w.src).done = true) ∧
    (∀ i p, s.parks.findIdx? (fun p => p.core == core) = some i → s.parks[i]? = some p →
      let rest : State := { s with parks := removeAt s.parks i }
      (outOf s p.core p.slot p.disp = none → exec (.parkEntry core) s = .next rest) ∧
      (∀ o n, outOf s p.core p.slot p.disp = some o → parkReady s o = true → engVal (whoC o.ctx) (o.image + 12) 4 rest = (.ok n, s1) →
        let es := parkEntries p
        n + es.length ≤ 2040 →
        engWrite (whoC o.ctx) (o.image + BitVec.ofNat 64 (0x100 + 32 * n)) (es.flatMap id) s1 = (.ok (), s2) →
        engPut (whoC o.ctx) (o.image + 12) 4 (n + es.length) s2 = (.ok (), s3) →
        exec (.parkEntry core) s
          = .next { s3 with outs := s3.outs.map fun x => if x = o then { x with
              parked := x.parked + es.length, hands := x.hands ++ if p.hand && p.isElem then [n] else [] } else x }))

/-- 17 R466-R468: MUSTSAVE admits a declaration that passes its checks under the lowest free handle, removes one of its own
context, or all of its context's; SHUTSTAT reads the totals, or copies what the restart report saved of its own context. -/
def Obligations.DeclarationsKept : Prop :=
  ∀ (s s1 s2 s3 : State) (src : Nat) (c : Cmd), Runs s engCtx src c →
    let who := whoC c.ctx
    let ends := fun (u : State) (ws : Option (List W64)) => Host.Outcome.next (workDone u engCtx src c ws)
    let stops := fun (u : State) (code : Code) (a : W64) => Host.Outcome.next (stopCmd u engCtx src c code a (ctxStatus src))
    let tells := fun (u : State) (h : Nat) => noted c [BitVec.ofNat 64 (admitted u.extents % 2 ^ 32 + h * 2 ^ 32)]
    (c.op = 3 → c.op2 = 0 → let a := c.w 1
      (∀ u, readGrant s c.ctx 2 = .ok (u, false) → exec (.mustsaveAdd src) s = stops u fltPriv 0) ∧
      ∀ u bs, readGrant s c.ctx 2 = .ok (u, true) → engRead who a 32 u = (.ok bs, s1) →
        let d := words64 bs
        let size := (wordAt d 1).toNat
        let k := wordAt d 2
        (declOk s1 c.ctx d = false → exec (.mustsaveAdd src) s = stops s1 fltBadCmd a) ∧
        ∀ ps, declOk s1 c.ctx d = true → localRange who (wordAt d 0) size .write s1 = (.ok ps, s2) →
          (s2.extents.any (fun x => piecesMeet ps x.pieces) = true → exec (.mustsaveAdd src) s = stops s2 fltMustSave a) ∧
          let fits := admitted (s2.extents.filter fun x => x.ctx == c.ctx) + size ≤ (ctxWord s2 c.ctx 5).toNat ∧
            admitted s2.extents + size ≤ extentLimit
          (s2.extents.any (fun x => piecesMeet ps x.pieces) = false → ¬ fits → exec (.mustsaveAdd src) s = stops s2 fltMustSave a) ∧
          ∀ h, s2.extents.any (fun x => piecesMeet ps x.pieces) = false → fits → freeHandle s2.extents = some h →
            let t : State := { s2 with extents := s2.extents ++ [⟨h, c.ctx, wordAt d 0, size, bitsAt k 32 32, k.getLsbD 8, bitsAt k 16 8,
              k.getLsbD 9, bitsAt k 0 3, ps⟩] }
            exec (.mustsaveAdd src) s = ends t (tells t h)) ∧
    (c.op = 3 → c.op2 = 1 → let h := bitsAt (c.w 1) 0 16
      ((∀ x ∈ s.extents, x.handle ≠ h) → exec (.mustsaveRemove src) s = stops s fltBadCmd (c.w 1)) ∧
      ∀ x, s.extents.find? (fun x => x.handle == h) = some x →
        (x.ctx ≠ c.ctx → exec (.mustsaveRemove src) s = stops s fltAccess (c.w 1)) ∧
        (x.ctx = c.ctx → let t : State := { s with extents := s.extents.filter fun x => x.handle != h }
          exec (.mustsaveRemove src) s = ends t (tells t 0))) ∧
    (c.op = 3 → c.op2 = 2 → let t : State := { s with extents := s.extents.filter fun x => x.ctx != c.ctx }
      exec (.mustsaveClear src) s = ends t (tells t 0)) ∧
    (c.op = 4 → c.op2 = 0 → exec (.shutstatStatus src) s = ends s (some [
      BitVec.ofNat 64 (s.extents.length * 2 ^ 32 + admitted s.extents),
      BitVec.ofNat 64 (s.cap % 65536 * 2 ^ 48 + s.vbank % 65536 * 2 ^ 32 + usable s.cap s.vbank / 1000 % 2 ^ 32),
      BitVec.ofNat 64 (admitted (s.extents.filter fun x => x.ctx == c.ctx)),
      BitVec.ofNat 64 (match s.report with | some r => r.epoch | none => 0)])) ∧
    (c.op = 4 → c.op2 = 1 →
      (∀ bad, s.report = none → exec (.shutstatLoad src bad) s = stops s fltBadCmd 0) ∧
      ∀ r e, s.report = some r → r.entries[bitsAt (c.w 0) 32 10]? = some e →
        (∀ bad, e.cls = 2 → exec (.shutstatLoad src bad) s = stops s fltBadCmd 0) ∧
        (∀ bad, e.cls ≠ 2 → e.ctx ≠ c.ctx → exec (.shutstatLoad src bad) s = stops s fltAccess 0) ∧
        (let ps := recordPages (Tab.get [] s.halves r.half) r.epoch e.seq
         e.cls ≠ 2 → e.ctx = c.ctx →
         (∀ ex, localRange who (c.w 1) e.written .write s = (.ok ex, s2) →
           engWrite who (c.w 1) (((ps.flatMap SPage.bytes).drop 64).take e.written) s2 = (.ok (), s3) →
           exec (.shutstatLoad src 0) s = ends (restored s3 e (c.w 1)) (noted c [BitVec.ofNat 64 e.written])) ∧
         ∀ p i, ps.find? (fun p => p.idx == i) = some p → exec (.shutstatLoad src (i + 1)) s
           = stops s fltUncorr (BitVec.ofNat 64 ((r.half * halfPages + p.num) * pageBytes))))

/-! ### The shutter sequence and the supervisor (17 R470-R477, 18 R482-R496) -/

/-- 17 R471-R473: the trap stops all issue and every engine; the switch to the bank plans what its energy can write and turns the
compute islands off; the watch cuts the plan; power-down leaves the store and forgets what power held. -/
def Obligations.ShutterSequence : Prop :=
  ∀ (s : State) (cap vb bytes idx vend : Nat),
    (s.shut.phase = 0 → ∃ t, exec .shutterTrap s = .next t ∧ t.shut.phase = 1 ∧ t.shut.time = t.time ∧ mayIssue t = false ∧
      (∀ eng src, mayStart t eng src = false) ∧ ∀ i, (t.dq i).drafts = [] ∧ (t.dq i).verdicts = []) ∧
    (s.shut.phase ≠ 0 → exec .shutterTrap s = .next s) ∧
    (s.shut.phase = 1 → (allAtRest s = false → exec (.shutterSwitchIn cap vb) s = .next s) ∧
      (allAtRest s = true → ∃ t, exec (.shutterSwitchIn cap vb) s = .next t ∧ t.shut.phase = 2 ∧ t.cap = cap ∧ t.vbank = vb ∧
        t.shut.planB = planBytes cap vb (admitted (writeOrder t.extents)) ∧ t.shut.recs.map Prod.fst = writeOrder t.extents ∧
        ∀ i, i < 32 ∨ i = 35 → Tab.get 0 t.islands i = 2)) ∧
    (s.shut.phase = 2 → s.shut.cut = none → bytes ≤ s.shut.planB →
      exec (.bankWatchCut bytes) s = .next { s with shut := { s.shut with cut := some bytes } }) ∧
    (s.shut.phase = 2 → exec (.pageProgramFail idx) s = .next { s with shut := { s.shut with fails := idx :: s.shut.fails } }) ∧
    (s.shut.phase = 2 → ∃ t, exec (.shutterPowerDown vend) s = .next t ∧ t.epoch = s.epoch + 1 ∧
      Tab.get [] t.halves s.target = (storePages s.shut (s.epoch + 1)).1 ∧ t.shut.written = (storePages s.shut (s.epoch + 1)).2 ∧
      (∀ h, h ≠ s.target → Tab.get [] t.halves h = Tab.get [] s.halves h) ∧ t.threads = [] ∧ t.dev = [] ∧ t.spad = [] ∧ t.host = s.host ∧
      t.svState = 0 ∧ t.vbank = vend ∧ t.svn = s.svn ∧ t.maskRec = s.maskRec) ∧
    (∀ n xs, (shares n xs).sum = min n xs.sum) ∧
    ∀ a, planBytes cap vb a ≤ a ∧ (cap * (vb * vb - 9000000) / 20 ≤ 20000000 → planBytes cap vb a = 0)

/-- 18 R485-R488, R492-R494, 16 R424, R434, R442, 14 R370, 15 R411: the supervisor serves the request at the head of its ring,
each as its row of R486 gives, and answers it. -/
def Obligations.SupervisorRequestsServed : Prop :=
  ∀ (s : State) (fails : BitVec 16),
    let w := request s
    let x := (w 1).toNat
    (∀ p ∈ [(1, Instr.ctxopen), (2, .ctxclose), (3, .inval), (4, .accset), (5, .mapbar), (6, .objopen), (7, .dqopen), (8, .ownset),
        (9, .retire), (10, .clrsuspect fails), (11, .island), (12, .setmask), (13, .quote), (14, .loadfw), (15, .objclose), (16, .dqclose),
        (17, .grpopen), (18, .grpclose)],
      (∀ code, Asked s code → code = 0 ∨ 18 < code → exec p.2 s = replied s s 2) ∧
      (Asked s p.1 → bitsAt (w 0) 0 32 ≠ 0 → exec p.2 s = replied s s 2) ∧
      (Asked s p.1 → bitsAt (w 0) 0 32 = 0 → s.svState = 3 → p.1 ≠ 14 → exec p.2 s = replied s s 1) ∧
      (Asked s p.1 → bitsAt (w 0) 0 32 = 0 → s.svState = 4 → p.1 ≠ 13 → exec p.2 s = replied s s 1) ∧
      (∀ code, Asked s code → 1 ≤ code → code ≤ 18 → code ≠ p.1 → exec p.2 s = .next s) ∧
      (s.svState < 2 ∨ s.reqhead = s.reqtail → exec p.2 s = .next s)) ∧
    (Serves s 1 → cidOk (w 1) = true → bitsAt (w 2) 8 56 = 0 → bitsAt (w 2) 0 2 = 0 → bitsAt (w 3) 52 12 = 0 → bitsAt (w 3) 0 15 = 0 →
      (w 7).toNat % 64 = 0 → (w 7).toNat ≤ extentLimit →
      (ctxLive s x = true → exec .ctxopen s = replied s s 1) ∧
      (ctxLive s x = false → exec .ctxopen s = replied s (devWrite s (s.ctxtab + 64 * x)
        ([w 2 ||| 0x80, w 3, w 4, w 5, w 6, w 7, 0, 0].flatMap fun v => leBytes v.toNat 8)) 0)) ∧
    (Serves s 2 → cidOk (w 1) = true → zeroFrom w 2 = true → let u := endCtx s x
      (ctxTasks u x = false → exec .ctxclose s = replied s (closeCtx u x) 0) ∧ (ctxTasks u x = true → exec .ctxclose s = .next u)) ∧
    (Serves s 3 → x < 4096 → (w 2).toNat % 65536 = 0 → (w 3).toNat % 65536 = 0 → w 3 ≠ 0 → zeroFrom w 4 = true →
      (rangeInUse s x ((w 2).toNat % 2 ^ 51) (w 3).toNat none = false →
        exec .inval s = replied s (invalidate s x ((w 2).toNat % 2 ^ 51) (w 3).toNat) 0) ∧
      (rangeInUse s x ((w 2).toNat % 2 ^ 51) (w 3).toNat none = true → exec .inval s = .next s)) ∧
    (∀ ts, Serves s 4 → accTargets (w 1) = some ts → cidOk (w 2) = true → w 3 &&& 0xFFFFC000C000C000 = 0 → zeroFrom w 4 = true →
      exec .accset s = replied s { s with access := ts.foldl (fun t k => Tab.set t (4096 * k + (w 2).toNat) (w 3)) s.access } 0) ∧
    (Serves s 5 → x < 32768 → (w 2).toNat % 65536 = 0 → devMapped s (w 2).toNat 65536 = true → (w 3).toNat ≤ 2 → zeroFrom w 4 = true →
      exec .mapbar s = replied s { s with bar2 := Tab.set s.bar2 x ((w 2).toNat, (w 3).toNat) } 0) ∧
    (Serves s 6 → x < 64 → cidOk (w 2) = true → w 6 ≠ 0 ∨ w 5 = 0 → w 7 = 0 →
      ((s.obj x).live = true → exec .objopen s = replied s s 1) ∧
      ((s.obj x).live = false → let img := (Config.indexImage (s.host.bytes (w 3).toNat (w 4).toNat)
          (s.host.bytes (w 5).toNat (w 6).toNat)).bounded (16000000000 - vectorsBeside s x)
        exec .objopen s
          = replied s (putObj s x { live := true, owner := (w 2).toNat, pstore := w 6 != 0, img := img, set := img.set }) 0)) ∧
    (∀ (i : ObjImage) (room : Nat), let b := i.bounded room
      b.set.merged = 0 ∧ b.set.vecs.length ≤ room ∧ (b.set.vecs.map Vec.id).Nodup ∧ 64 ≤ b.logcap ∧ b.logcap ≤ 2 ^ 24 ∧
        ∀ v ∈ b.set.vecs, v.id < 2 ^ 40 ∧ v.page.ctl < 32 ∧ v.page.nand < 8 ∧ v.nbrs.length ≤ b.degm1 + 1) ∧
    (Serves s 7 → x < 16 → cidOk (w 2) = true → zeroFrom w 3 = true →
      ((s.dq x).opened = true → exec .dqopen s = replied s s 1) ∧
      ((s.dq x).opened = false → exec .dqopen s = replied s (s.setDq x { opened := true, ctx := (w 2).toNat }) 0)) ∧
    (Serves s 8 → x < 256 → (w 2).toNat < 4096 → zeroFrom w 3 = true → ∃ t, exec .ownset s = replied s t 0 ∧
      (t.core x).owner = (w 2).toNat ∧ ((s.core x).owner = (w 2).toNat → t = s) ∧
      ((s.core x).owner ≠ (w 2).toNat → ∀ a, spadSize * x ≤ a → a < spadSize * x + spadSize → t.spad.read a = 0)) ∧
    (Serves s 9 → bitsAt (w 1) 8 56 = 0 → bitsAt (w 1) 0 7 < 96 → zeroFrom w 2 = true →
      exec .retire s = replied s (retireChannel s (96 * bitsAt (w 1) 7 1 + bitsAt (w 1) 0 7)) 0) ∧
    (Serves s 10 → x < 256 → zeroFrom w 2 = true →
      let v := (List.range 16).foldl (fun s i => katVerdict s x (!fails.getLsbD i)) s
      (v.chk (clusterOf x)).run = (s.chk (clusterOf x)).run + 16 ∧
      (fails = 0 → exec (.clrsuspect fails) s = replied s (v.setCore x { v.core x with suspect := false }) 0) ∧
      (fails ≠ 0 → exec (.clrsuspect fails) s = replied s v 1 ∧ (v.core x).suspect = true)) ∧
    (Serves s 11 → zeroFrom w 3 = true →
      (pointOk x (w 2).toNat = true → exec .island s = replied s (setPoint s x (w 2).toNat) 0 ∧
        Tab.get 0 (setPoint s x (w 2).toNat).islands x = (w 2).toNat) ∧
      (pointOk x (w 2).toNat = false → exec .island s = replied s s 2)) ∧
    (Serves s 12 → x % 64 = 0 → zeroFrom w 2 = true → recordOk (s.host.bytes x 4096) = true →
      exec .setmask s = replied s { s with maskRec := s.host.bytes x 4096 } 0) ∧
    (Asked s 13 → bitsAt (w 0) 0 32 = 0 → s.svState = 2 ∨ s.svState = 4 → (w 5).toNat % 64 = 0 → zeroFrom w 6 = true →
      let u := s.takeFree.2
      let bs := quoteBytes s ([w 1, w 2, w 3, w 4].flatMap fun v => leBytes v.toNat 8) s.takeFree.1
      exec .quote s = replied s { u with host := u.host.writeBytes (w 5).toNat bs } 0) ∧
    (Asked s 14 → bitsAt (w 0) 0 32 = 0 → s.svState = 2 ∨ s.svState = 3 → zeroFrom w 3 = true →
      let img := s.host.bytes x (w 2).toNat
      (firmwareAccepted s img = false → exec .loadfw s = replied s s 1) ∧
      (firmwareAccepted s img = true → let t : State := { s with firmware := img, svn := Config.imageSvn img }
        exec .loadfw s = replied s (if s.svState = 3 then coldState t else t) 0)) ∧
    (Serves s 15 → x < 64 → zeroFrom w 2 = true → (s.obj x).merging = false →
      (∀ kv ∈ s.streams, kv.1 / 512 = engSch → (∀ c ∈ kv.2.queue, c.xid ≠ x) ∧ (kv.2.stopped = true ∨ ∀ c, kv.2.run = some c → c.xid ≠ x)) →
      exec .objclose s = replied s (if (s.obj x).live then putObj s x { s.obj x with live := false } else s) 0) ∧
    (Serves s 16 → x < 16 → zeroFrom w 2 = true → exec .dqclose s = replied s (closePair s x) 0) ∧
    (Serves s 17 → x < 256 → cidOk (w 2) = true → zeroFrom w 4 = true →
      ((s.group x).opened = true → exec .grpopen s = replied s s 1) ∧
      ((s.group x).opened = false → exec .grpopen s = replied s (s.setGroup x { opened := true, ctx := (w 2).toNat, members := w 3 }) 0)) ∧
    (Serves s 18 → x < 256 → zeroFrom w 2 = true → exec .grpclose s = replied s (closeGroup s x) 0)

/-- 18 R482-R484, R489, R491, R496, 01 R17, R31: boot checks the firmware, applies masks, checks cores and links, sets the bases
and reaches RUNNING, in the two acts of log 36; R485: what BAR0 reads and takes, and a host reset (log 36); heat, the power limit, health
entries and the bring-up of a domain act on their state alone. -/
def Obligations.SupervisorEventsAct : Prop :=
  ∀ (s : State),
    (∀ half bases thrs fused train unread, let boots := Instr.boot half bases thrs fused train unread
      (1 < s.svState ∨ (s.shut.phase ≠ 0 ∧ s.shut.phase ≠ 3) → exec boots s = .next s) ∧
      (s.svState = 0 → s.shut.phase = 0 ∨ s.shut.phase = 3 →
        (firmwareAccepted s s.firmware = false → exec boots s = .next { s with time := 0, svState := 3, svCode := fltSignature }) ∧
        (firmwareAccepted s s.firmware = true → ∃ t, exec boots s = .next t ∧ t.time = 0 ∧ t.svState = 1 ∧
          t.svn = Config.imageSvn s.firmware ∧ t.running = s.firmware)) ∧
      (s.svState = 1 → s.shut.phase = 0 ∨ s.shut.phase = 3 → let u := bootMasks s half fused train
        let left := clusterLeft u 0 = true ∧ clusterLeft u 1 = true ∧ linkLeft u 1 = true ∧ linkLeft u 2 = true
        (¬ left → exec boots s = .next (stopFree u) ∧ (stopFree u).svState = 4 ∧
          ((stopFree u).svCode = 0 ∨ (stopFree u).svCode ∈ faultCodes)) ∧
        (left → ¬(basesOk u bases = true ∧ thrsOk thrs = true) → exec boots s = .next s) ∧
        (left → basesOk u bases = true → thrsOk thrs = true →
          ∃ t, exec boots s = .next t ∧ t = bootRest u bases thrs unread ∧ t.svState = 2 ∧ t.svCode = 0 ∧ t.shut = {}))) ∧
    (∀ img, firmwareAccepted s img = true ↔ shaOf (Config.imageBody img) = Config.imageDigest img ∧
      shaOf (Config.imageRsaKey img) = s.rsaHash ∧ Config.rsaVerifies (Config.imageRsaKey img) (Config.imageDigest img) img = true ∧
      shaOf (Config.imageSlhKey img) = s.slhHash ∧ Config.slhVerifies (Config.imageSlhKey img) (Config.imageDigest img) img = true ∧
      s.svn ≤ Config.imageSvn img) ∧
    (∀ off, barRead s off = (match barWord s off with
      | some v => answered s 0 (leBytes v.toNat 8)
      | none => answered s unsupported [])) ∧
    (∀ i, i < 40 → barWord s (0x100 + 8 * i)
      = some (BitVec.ofNat 64 (Tab.get 0 s.temps i % 256 * 256 + Tab.get 0 s.islands i % 4))) ∧
    barWord s 0 = some (BitVec.ofNat 64 (s.svn.toNat * 2 ^ 48 + s.svState % 8 * 2 ^ 32 + s.svCode.toNat)) ∧
    barWord s 0x1000 = some (BitVec.ofNat 64 s.health) ∧
    barWord s 0x1008 = some (BitVec.ofNat 64 (s.selog.base + s.selog.head % 4096)) ∧
    (∀ v, (barPoke s 0 v).reqbase = v &&& ~~~0xFFF ∧ (barPoke s 1 v).reqtail = v) ∧
    (s.shut.phase = 1 ∨ s.shut.phase = 2 → hostReset s = s) ∧
    (s.shut.phase = 0 ∨ s.shut.phase = 3 → (hostReset s).svState = 0 ∧ (hostReset s).threads = [] ∧ (hostReset s).dev = [] ∧
      (hostReset s).svn = s.svn ∧ (hostReset s).firmware = s.firmware ∧ (hostReset s).halves = s.halves) ∧
    (∀ isl temp, isl < 40 → let u : State := { s with temps := Tab.set s.temps isl (temp % 256) }
      (temp < 105 → exec (.islandThermal isl temp) s = .next u) ∧
      (105 ≤ temp → temp < 115 → exec (.islandThermal isl temp) s = .next (economize u isl)) ∧
      (115 ≤ temp → exec (.islandThermal isl temp) s = .next (stopPackage u 0))) ∧
    (∀ isl, exec (.powerLimit isl) s = .next (economize s isl) ∧
      (isl < 32 → Tab.get 0 s.islands isl = 0 → Tab.get 0 (economize s isl).islands isl = 1) ∧
      ∀ k, k ≠ isl → Tab.get 0 (economize s isl).islands k = Tab.get 0 s.islands k) ∧
    (∀ entry wear days cap vb, s.health ≠ 0 → entry < 94 → (entry = 40 → (1000 ≤ wear ↔ cap ≤ 1984)) →
      let u : State := if entry = 40 then { s with cap := cap, vbank := vb } else s
      exec (.healthUpdate entry wear days cap vb) s = .next (devWrite u (s.health + 16 * entry)
        (leBytes wear 2 ++ leBytes days 4 ++ leBytes 0 2 ++ leBytes s.time.toNat 8))) ∧
    ∀ pkg now routes, pkg < 64 →
      ((∀ k, k < 4096 → ctxLive s k = false) ∨ s.pkg.toNat = pkg → ∃ t, exec (.domainBringUp pkg now routes) s = .next t ∧
        t.pkg.toNat = pkg ∧ t.indom = true ∧ (∀ p, p < routes.length → Tab.get 0 t.routes p = routes.getD p 0)) ∧
      ((∃ k, k < 4096 ∧ ctxLive s k = true) → s.pkg.toNat ≠ pkg → exec (.domainBringUp pkg now routes) s = .next s)
end

