-- ==== Sys2Proof/Laws/Eng.lean ====
section
/-! SUPPORT. How an engine's command runs part by part: each part of a command's work, where it goes on and where it stops, and
how the work ends in the stream. -/

namespace Sys2Proof.Machine

namespace Eng

theorem bind_ok {α β : Type} {m : Eng α} {f : α → Eng β} {s s' : State} {a : α} (h : m s = (.ok a, s')) :
    (m >>= f) s = f a s' := by
  show ExceptT.bindCont f (m s).1 (m s).2 = f a s'
  rw [h]
  rfl

theorem bind_error {α β : Type} {m : Eng α} {f : α → Eng β} {s s' : State} {e : Stop} (h : m s = (.error e, s')) :
    (m >>= f) s = (.error e, s') := by
  show ExceptT.bindCont f (m s).1 (m s).2 = (.error e, s')
  rw [h]
  rfl

@[simp] theorem pure_run {α : Type} (a : α) (s : State) : (pure a : Eng α) s = (.ok a, s) := rfl

@[simp] theorem now_run (s : State) : Eng.now s = (.ok s, s) := rfl

@[simp] theorem change_run (f : State → State) (s : State) : Eng.change f s = (.ok (), f s) := rfl

@[simp] theorem check_true (code : Code) (a : W64) (s : State) : Eng.check true code a s = (.ok (), s) := rfl

@[simp] theorem check_false (code : Code) (a : W64) (s : State) : Eng.check false code a s = (.error (.flt code a), s) := rfl

@[simp] theorem fail_run {α : Type} (code : Code) (a : W64) (s : State) : (Eng.fail code a : Eng α) s = (.error (.flt code a), s) := rfl

@[simp] theorem hold_run {α : Type} (k : Nat) (d : List W64) (s : State) : (Eng.hold k d : Eng α) s = (.error (.wait k d), s) := rfl

theorem cleanup_ok {α : Type} {m : Eng α} {f : State → State} {s s' : State} {a : α} (h : m s = (.ok a, s')) :
    Eng.cleanup m f s = (.ok a, s') := by simp only [Eng.cleanup, h]

/-- A part whose first act is the state itself. -/
@[simp] theorem now_bind {β : Type} (f : State → Eng β) (s : State) : (Eng.now >>= f) s = f s s := rfl

@[simp] theorem change_bind {β : Type} (g : State → State) (f : Unit → Eng β) (s : State) : (Eng.change g >>= f) s = f () (g s) := rfl

theorem check_bind {β : Type} {b : Bool} {code : Code} {a : W64} {f : Unit → Eng β} {s : State} (h : b = true) :
    (Eng.check b code a >>= f) s = f () s := by subst h; rfl

end Eng

/-- A command whose work succeeds has done it. -/
theorem runEng_ok {s s' : State} {eng src : Nat} {c : Cmd} {st : State → W64} {m : Eng (Option (List W64))} {ws : Option (List W64)}
    (h : m s = (.ok ws, s')) : runEng s eng src c st m = workDone s' eng src c ws := by simp only [runEng, h]

/-- A command whose work faults stops its stream. -/
theorem runEng_fault {s s' : State} {eng src : Nat} {c : Cmd} {st : State → W64} {m : Eng (Option (List W64))} {code : Code} {a : W64}
    (h : m s = (.error (.flt code a), s')) : runEng s eng src c st m = stopCmd s' eng src c code a st := by simp only [runEng, h]

/-- A head whose code the engine knows, and which its access table does not deny, meets its own checks. -/
theorem headFault_none {s : State} {eng : Nat} {known : Nat → Bool} {c : Cmd} (hp : pushDenied s eng c = false)
    (hk : known c.op = true) : headFault s eng known c = none := by simp [headFault, hp, hk]

/-- A step of the row that runs the stream's command does its work. -/
theorem runOrStart_runs {s : State} {eng src : Nat} {known mine : Nat → Bool} {st : State → W64}
    {check : State → Cmd → Option (Code × W64)} {work begins : State → Cmd → State} {c : Cmd} (h : (s.estream eng src).run = some c)
    (hs : (s.estream eng src).stopped = false) (hd : (s.estream eng src).done = false) (hw : (s.estream eng src).wait = 0)
    (hm : mine c.op = true) : runOrStart s eng src known mine st check work begins = .next (work s c) := by
  simp [runOrStart, h, hs, hd, hw, hm]

/-- A step of the row of a stream's head starts it, or stops the stream with the fault of its checks. -/
theorem runOrStart_heads {s : State} {eng src : Nat} {known mine : Nat → Bool} {st : State → W64}
    {check : State → Cmd → Option (Code × W64)} {work begins : State → Cmd → State} {c : Cmd} (h : (s.estream eng src).run = none)
    (hq : (s.estream eng src).queue.head? = some c) (hg : mayStart s eng src = true) (hp : pushDenied s eng c = false)
    (hk : known c.op = true) (hm : mine c.op = true) :
    runOrStart s eng src known mine st check work begins = .next (match check s c with
      | some (code, a) => stopCmd (startCmd s eng src) eng src c code a st
      | none => begins (startCmd s eng src) c) := by
  simp only [runOrStart, h, hq, hg, headFault_none hp hk, hm]
  cases check s c <;> rfl

end Sys2Proof.Machine
end

