-- ==== Sys2Proof/Laws/Words.lean ====
section
/-! SUPPORT. The fields of words written as appended parts, by the widths of the parts (03 R61-R63), and the instructions that
have no word. -/

namespace Sys2Proof.Laws

open Sys2Proof.Machine

/-- A field that lies above the last part. -/
theorem fieldAbove {n m lo len : Nat} {x : BitVec n} {y : BitVec m} (h : m ≤ lo) :
    (x ++ y).extractLsb' lo len = x.extractLsb' (lo - m) len := BitVec.extractLsb'_append_eq_of_le h

/-- A field inside the last part. -/
theorem fieldBelow {n m lo len : Nat} {x : BitVec n} {y : BitVec m} (h : lo + len ≤ m) :
    (x ++ y).extractLsb' lo len = y.extractLsb' lo len := BitVec.extractLsb'_append_eq_of_add_le h

/-- The word of zeros is NOP's in either stream (03 R65). -/
theorem candidate_zero (st : Stream) : candidate st 0 = some .nop := by
  cases st <;> simp only [candidate, candCommon, candAlu, candPlog, candSys, candTileT, candTileS, candA, candE, majorOf] <;> rfl

/-- A step has no word to issue. -/
theorem noWord (st : Stream) (i : Instr) (hw : encode i = 0) (hn : i ≠ .nop) (h : i.issuesIn st = true) : False := by
  unfold Instr.issuesIn at h
  split at h
  · exact hn rfl
  · simp [hw] at h

theorem part_6_5_21_at_0 (x0 : BitVec 6) (x1 : BitVec 5) (x2 : BitVec 21) :
    fld (x0 ++ x1 ++ x2) 26 6 = x0 := by
  show (x0 ++ x1 ++ x2 : BitVec (6+5+21)).extractLsb' 26 6 = x0
  rw [fieldAbove (by decide), fieldAbove (by decide)]
  exact BitVec.extractLsb'_eq_self

theorem part_6_5_21_at_1 (x0 : BitVec 6) (x1 : BitVec 5) (x2 : BitVec 21) :
    fld (x0 ++ x1 ++ x2) 21 5 = x1 := by
  show (x0 ++ x1 ++ x2 : BitVec (6+5+21)).extractLsb' 21 5 = x1
  rw [fieldAbove (by decide), fieldBelow (by decide)]
  exact BitVec.extractLsb'_eq_self

theorem part_6_5_7_14_at_0 (x0 : BitVec 6) (x1 : BitVec 5) (x2 : BitVec 7) (x3 : BitVec 14) :
    fld (x0 ++ x1 ++ x2 ++ x3) 26 6 = x0 := by
  show (x0 ++ x1 ++ x2 ++ x3 : BitVec (6+5+7+14)).extractLsb' 26 6 = x0
  rw [fieldAbove (by decide), fieldAbove (by decide), fieldAbove (by decide)]
  exact BitVec.extractLsb'_eq_self

theorem part_6_5_7_14_at_1 (x0 : BitVec 6) (x1 : BitVec 5) (x2 : BitVec 7) (x3 : BitVec 14) :
    fld (x0 ++ x1 ++ x2 ++ x3) 21 5 = x1 := by
  show (x0 ++ x1 ++ x2 ++ x3 : BitVec (6+5+7+14)).extractLsb' 21 5 = x1
  rw [fieldAbove (by decide), fieldAbove (by decide), fieldBelow (by decide)]
  exact BitVec.extractLsb'_eq_self

theorem part_6_5_7_14_at_2 (x0 : BitVec 6) (x1 : BitVec 5) (x2 : BitVec 7) (x3 : BitVec 14) :
    fld (x0 ++ x1 ++ x2 ++ x3) 14 7 = x2 := by
  show (x0 ++ x1 ++ x2 ++ x3 : BitVec (6+5+7+14)).extractLsb' 14 7 = x2
  rw [fieldAbove (by decide), fieldBelow (by decide)]
  exact BitVec.extractLsb'_eq_self

theorem part_6_5_7_5_9_at_0 (x0 : BitVec 6) (x1 : BitVec 5) (x2 : BitVec 7) (x3 : BitVec 5) (x4 : BitVec 9) :
    fld (x0 ++ x1 ++ x2 ++ x3 ++ x4) 26 6 = x0 := by
  show (x0 ++ x1 ++ x2 ++ x3 ++ x4 : BitVec (6+5+7+5+9)).extractLsb' 26 6 = x0
  rw [fieldAbove (by decide), fieldAbove (by decide), fieldAbove (by decide), fieldAbove (by decide)]
  exact BitVec.extractLsb'_eq_self

theorem part_6_5_7_5_9_at_1 (x0 : BitVec 6) (x1 : BitVec 5) (x2 : BitVec 7) (x3 : BitVec 5) (x4 : BitVec 9) :
    fld (x0 ++ x1 ++ x2 ++ x3 ++ x4) 21 5 = x1 := by
  show (x0 ++ x1 ++ x2 ++ x3 ++ x4 : BitVec (6+5+7+5+9)).extractLsb' 21 5 = x1
  rw [fieldAbove (by decide), fieldAbove (by decide), fieldAbove (by decide), fieldBelow (by decide)]
  exact BitVec.extractLsb'_eq_self

theorem part_6_5_7_5_9_at_3 (x0 : BitVec 6) (x1 : BitVec 5) (x2 : BitVec 7) (x3 : BitVec 5) (x4 : BitVec 9) :
    fld (x0 ++ x1 ++ x2 ++ x3 ++ x4) 9 5 = x3 := by
  show (x0 ++ x1 ++ x2 ++ x3 ++ x4 : BitVec (6+5+7+5+9)).extractLsb' 9 5 = x3
  rw [fieldAbove (by decide), fieldBelow (by decide)]
  exact BitVec.extractLsb'_eq_self

theorem part_6_7_1_18_at_0 (x0 : BitVec 6) (x1 : BitVec 7) (x2 : BitVec 1) (x3 : BitVec 18) :
    fld (x0 ++ x1 ++ x2 ++ x3) 26 6 = x0 := by
  show (x0 ++ x1 ++ x2 ++ x3 : BitVec (6+7+1+18)).extractLsb' 26 6 = x0
  rw [fieldAbove (by decide), fieldAbove (by decide), fieldAbove (by decide)]
  exact BitVec.extractLsb'_eq_self

theorem part_6_7_1_18_at_1 (x0 : BitVec 6) (x1 : BitVec 7) (x2 : BitVec 1) (x3 : BitVec 18) :
    fld (x0 ++ x1 ++ x2 ++ x3) 19 7 = x1 := by
  show (x0 ++ x1 ++ x2 ++ x3 : BitVec (6+7+1+18)).extractLsb' 19 7 = x1
  rw [fieldAbove (by decide), fieldAbove (by decide), fieldBelow (by decide)]
  exact BitVec.extractLsb'_eq_self

theorem part_6_7_1_18_at_2 (x0 : BitVec 6) (x1 : BitVec 7) (x2 : BitVec 1) (x3 : BitVec 18) :
    fld (x0 ++ x1 ++ x2 ++ x3) 18 1 = x2 := by
  show (x0 ++ x1 ++ x2 ++ x3 : BitVec (6+7+1+18)).extractLsb' 18 1 = x2
  rw [fieldAbove (by decide), fieldBelow (by decide)]
  exact BitVec.extractLsb'_eq_self

theorem part_6_8_4_4_4_6_at_0 (x0 : BitVec 6) (x1 : BitVec 8) (x2 : BitVec 4) (x3 : BitVec 4) (x4 : BitVec 4) (x5 : BitVec 6) :
    fld (x0 ++ x1 ++ x2 ++ x3 ++ x4 ++ x5) 26 6 = x0 := by
  show (x0 ++ x1 ++ x2 ++ x3 ++ x4 ++ x5 : BitVec (6+8+4+4+4+6)).extractLsb' 26 6 = x0
  rw [fieldAbove (by decide), fieldAbove (by decide), fieldAbove (by decide), fieldAbove (by decide), fieldAbove (by decide)]
  exact BitVec.extractLsb'_eq_self

theorem part_6_8_4_4_4_6_at_1 (x0 : BitVec 6) (x1 : BitVec 8) (x2 : BitVec 4) (x3 : BitVec 4) (x4 : BitVec 4) (x5 : BitVec 6) :
    fld (x0 ++ x1 ++ x2 ++ x3 ++ x4 ++ x5) 18 8 = x1 := by
  show (x0 ++ x1 ++ x2 ++ x3 ++ x4 ++ x5 : BitVec (6+8+4+4+4+6)).extractLsb' 18 8 = x1
  rw [fieldAbove (by decide), fieldAbove (by decide), fieldAbove (by decide), fieldAbove (by decide), fieldBelow (by decide)]
  exact BitVec.extractLsb'_eq_self

theorem part_6_8_4_4_4_6_at_2 (x0 : BitVec 6) (x1 : BitVec 8) (x2 : BitVec 4) (x3 : BitVec 4) (x4 : BitVec 4) (x5 : BitVec 6) :
    fld (x0 ++ x1 ++ x2 ++ x3 ++ x4 ++ x5) 14 4 = x2 := by
  show (x0 ++ x1 ++ x2 ++ x3 ++ x4 ++ x5 : BitVec (6+8+4+4+4+6)).extractLsb' 14 4 = x2
  rw [fieldAbove (by decide), fieldAbove (by decide), fieldAbove (by decide), fieldBelow (by decide)]
  exact BitVec.extractLsb'_eq_self

theorem part_6_8_4_4_4_6_at_3 (x0 : BitVec 6) (x1 : BitVec 8) (x2 : BitVec 4) (x3 : BitVec 4) (x4 : BitVec 4) (x5 : BitVec 6) :
    fld (x0 ++ x1 ++ x2 ++ x3 ++ x4 ++ x5) 10 4 = x3 := by
  show (x0 ++ x1 ++ x2 ++ x3 ++ x4 ++ x5 : BitVec (6+8+4+4+4+6)).extractLsb' 10 4 = x3
  rw [fieldAbove (by decide), fieldAbove (by decide), fieldBelow (by decide)]
  exact BitVec.extractLsb'_eq_self

theorem part_6_8_4_4_4_6_at_4 (x0 : BitVec 6) (x1 : BitVec 8) (x2 : BitVec 4) (x3 : BitVec 4) (x4 : BitVec 4) (x5 : BitVec 6) :
    fld (x0 ++ x1 ++ x2 ++ x3 ++ x4 ++ x5) 6 4 = x4 := by
  show (x0 ++ x1 ++ x2 ++ x3 ++ x4 ++ x5 : BitVec (6+8+4+4+4+6)).extractLsb' 6 4 = x4
  rw [fieldAbove (by decide), fieldBelow (by decide)]
  exact BitVec.extractLsb'_eq_self

theorem part_6_5_5_5_11_at_0 (x0 : BitVec 6) (x1 : BitVec 5) (x2 : BitVec 5) (x3 : BitVec 5) (x4 : BitVec 11) :
    fld (x0 ++ x1 ++ x2 ++ x3 ++ x4) 26 6 = x0 := by
  show (x0 ++ x1 ++ x2 ++ x3 ++ x4 : BitVec (6+5+5+5+11)).extractLsb' 26 6 = x0
  rw [fieldAbove (by decide), fieldAbove (by decide), fieldAbove (by decide), fieldAbove (by decide)]
  exact BitVec.extractLsb'_eq_self

theorem part_6_5_5_5_11_at_4 (x0 : BitVec 6) (x1 : BitVec 5) (x2 : BitVec 5) (x3 : BitVec 5) (x4 : BitVec 11) :
    fld (x0 ++ x1 ++ x2 ++ x3 ++ x4) 0 11 = x4 := by
  show (x0 ++ x1 ++ x2 ++ x3 ++ x4 : BitVec (6+5+5+5+11)).extractLsb' 0 11 = x4
  rw [fieldBelow (by decide)]
  exact BitVec.extractLsb'_eq_self

theorem part_6_5_5_5_11_at_1 (x0 : BitVec 6) (x1 : BitVec 5) (x2 : BitVec 5) (x3 : BitVec 5) (x4 : BitVec 11) :
    fld (x0 ++ x1 ++ x2 ++ x3 ++ x4) 21 5 = x1 := by
  show (x0 ++ x1 ++ x2 ++ x3 ++ x4 : BitVec (6+5+5+5+11)).extractLsb' 21 5 = x1
  rw [fieldAbove (by decide), fieldAbove (by decide), fieldAbove (by decide), fieldBelow (by decide)]
  exact BitVec.extractLsb'_eq_self

theorem part_6_5_5_5_11_at_2 (x0 : BitVec 6) (x1 : BitVec 5) (x2 : BitVec 5) (x3 : BitVec 5) (x4 : BitVec 11) :
    fld (x0 ++ x1 ++ x2 ++ x3 ++ x4) 16 5 = x2 := by
  show (x0 ++ x1 ++ x2 ++ x3 ++ x4 : BitVec (6+5+5+5+11)).extractLsb' 16 5 = x2
  rw [fieldAbove (by decide), fieldAbove (by decide), fieldBelow (by decide)]
  exact BitVec.extractLsb'_eq_self

theorem part_6_5_5_5_11_at_3 (x0 : BitVec 6) (x1 : BitVec 5) (x2 : BitVec 5) (x3 : BitVec 5) (x4 : BitVec 11) :
    fld (x0 ++ x1 ++ x2 ++ x3 ++ x4) 11 5 = x3 := by
  show (x0 ++ x1 ++ x2 ++ x3 ++ x4 : BitVec (6+5+5+5+11)).extractLsb' 11 5 = x3
  rw [fieldAbove (by decide), fieldBelow (by decide)]
  exact BitVec.extractLsb'_eq_self

theorem part_6_5_5_16_at_0 (x0 : BitVec 6) (x1 : BitVec 5) (x2 : BitVec 5) (x3 : BitVec 16) :
    fld (x0 ++ x1 ++ x2 ++ x3) 26 6 = x0 := by
  show (x0 ++ x1 ++ x2 ++ x3 : BitVec (6+5+5+16)).extractLsb' 26 6 = x0
  rw [fieldAbove (by decide), fieldAbove (by decide), fieldAbove (by decide)]
  exact BitVec.extractLsb'_eq_self

theorem part_6_5_5_16_at_1 (x0 : BitVec 6) (x1 : BitVec 5) (x2 : BitVec 5) (x3 : BitVec 16) :
    fld (x0 ++ x1 ++ x2 ++ x3) 21 5 = x1 := by
  show (x0 ++ x1 ++ x2 ++ x3 : BitVec (6+5+5+16)).extractLsb' 21 5 = x1
  rw [fieldAbove (by decide), fieldAbove (by decide), fieldBelow (by decide)]
  exact BitVec.extractLsb'_eq_self

theorem part_6_5_5_16_at_2 (x0 : BitVec 6) (x1 : BitVec 5) (x2 : BitVec 5) (x3 : BitVec 16) :
    fld (x0 ++ x1 ++ x2 ++ x3) 16 5 = x2 := by
  show (x0 ++ x1 ++ x2 ++ x3 : BitVec (6+5+5+16)).extractLsb' 16 5 = x2
  rw [fieldAbove (by decide), fieldBelow (by decide)]
  exact BitVec.extractLsb'_eq_self

theorem part_6_5_5_16_at_3 (x0 : BitVec 6) (x1 : BitVec 5) (x2 : BitVec 5) (x3 : BitVec 16) :
    fld (x0 ++ x1 ++ x2 ++ x3) 0 16 = x3 := by
  show (x0 ++ x1 ++ x2 ++ x3 : BitVec (6+5+5+16)).extractLsb' 0 16 = x3
  rw [fieldBelow (by decide)]
  exact BitVec.extractLsb'_eq_self

theorem part_6_7_5_5_6_3_at_0 (x0 : BitVec 6) (x1 : BitVec 7) (x2 : BitVec 5) (x3 : BitVec 5) (x4 : BitVec 6) (x5 : BitVec 3) :
    fld (x0 ++ x1 ++ x2 ++ x3 ++ x4 ++ x5) 26 6 = x0 := by
  show (x0 ++ x1 ++ x2 ++ x3 ++ x4 ++ x5 : BitVec (6+7+5+5+6+3)).extractLsb' 26 6 = x0
  rw [fieldAbove (by decide), fieldAbove (by decide), fieldAbove (by decide), fieldAbove (by decide), fieldAbove (by decide)]
  exact BitVec.extractLsb'_eq_self

theorem part_6_7_5_5_6_3_at_1 (x0 : BitVec 6) (x1 : BitVec 7) (x2 : BitVec 5) (x3 : BitVec 5) (x4 : BitVec 6) (x5 : BitVec 3) :
    fld (x0 ++ x1 ++ x2 ++ x3 ++ x4 ++ x5) 19 7 = x1 := by
  show (x0 ++ x1 ++ x2 ++ x3 ++ x4 ++ x5 : BitVec (6+7+5+5+6+3)).extractLsb' 19 7 = x1
  rw [fieldAbove (by decide), fieldAbove (by decide), fieldAbove (by decide), fieldAbove (by decide), fieldBelow (by decide)]
  exact BitVec.extractLsb'_eq_self

theorem part_6_7_5_5_6_3_at_2 (x0 : BitVec 6) (x1 : BitVec 7) (x2 : BitVec 5) (x3 : BitVec 5) (x4 : BitVec 6) (x5 : BitVec 3) :
    fld (x0 ++ x1 ++ x2 ++ x3 ++ x4 ++ x5) 14 5 = x2 := by
  show (x0 ++ x1 ++ x2 ++ x3 ++ x4 ++ x5 : BitVec (6+7+5+5+6+3)).extractLsb' 14 5 = x2
  rw [fieldAbove (by decide), fieldAbove (by decide), fieldAbove (by decide), fieldBelow (by decide)]
  exact BitVec.extractLsb'_eq_self

theorem part_6_7_5_5_6_3_at_3 (x0 : BitVec 6) (x1 : BitVec 7) (x2 : BitVec 5) (x3 : BitVec 5) (x4 : BitVec 6) (x5 : BitVec 3) :
    fld (x0 ++ x1 ++ x2 ++ x3 ++ x4 ++ x5) 9 5 = x3 := by
  show (x0 ++ x1 ++ x2 ++ x3 ++ x4 ++ x5 : BitVec (6+7+5+5+6+3)).extractLsb' 9 5 = x3
  rw [fieldAbove (by decide), fieldAbove (by decide), fieldBelow (by decide)]
  exact BitVec.extractLsb'_eq_self

theorem part_6_7_5_5_6_3_at_5 (x0 : BitVec 6) (x1 : BitVec 7) (x2 : BitVec 5) (x3 : BitVec 5) (x4 : BitVec 6) (x5 : BitVec 3) :
    fld (x0 ++ x1 ++ x2 ++ x3 ++ x4 ++ x5) 0 3 = x5 := by
  show (x0 ++ x1 ++ x2 ++ x3 ++ x4 ++ x5 : BitVec (6+7+5+5+6+3)).extractLsb' 0 3 = x5
  rw [fieldBelow (by decide)]
  exact BitVec.extractLsb'_eq_self

theorem part_6_7_5_3_11_at_0 (x0 : BitVec 6) (x1 : BitVec 7) (x2 : BitVec 5) (x3 : BitVec 3) (x4 : BitVec 11) :
    fld (x0 ++ x1 ++ x2 ++ x3 ++ x4) 26 6 = x0 := by
  show (x0 ++ x1 ++ x2 ++ x3 ++ x4 : BitVec (6+7+5+3+11)).extractLsb' 26 6 = x0
  rw [fieldAbove (by decide), fieldAbove (by decide), fieldAbove (by decide), fieldAbove (by decide)]
  exact BitVec.extractLsb'_eq_self

theorem part_6_7_5_3_11_at_1 (x0 : BitVec 6) (x1 : BitVec 7) (x2 : BitVec 5) (x3 : BitVec 3) (x4 : BitVec 11) :
    fld (x0 ++ x1 ++ x2 ++ x3 ++ x4) 19 7 = x1 := by
  show (x0 ++ x1 ++ x2 ++ x3 ++ x4 : BitVec (6+7+5+3+11)).extractLsb' 19 7 = x1
  rw [fieldAbove (by decide), fieldAbove (by decide), fieldAbove (by decide), fieldBelow (by decide)]
  exact BitVec.extractLsb'_eq_self

theorem part_6_7_5_3_11_at_2 (x0 : BitVec 6) (x1 : BitVec 7) (x2 : BitVec 5) (x3 : BitVec 3) (x4 : BitVec 11) :
    fld (x0 ++ x1 ++ x2 ++ x3 ++ x4) 14 5 = x2 := by
  show (x0 ++ x1 ++ x2 ++ x3 ++ x4 : BitVec (6+7+5+3+11)).extractLsb' 14 5 = x2
  rw [fieldAbove (by decide), fieldAbove (by decide), fieldBelow (by decide)]
  exact BitVec.extractLsb'_eq_self

theorem part_6_7_5_3_11_at_3 (x0 : BitVec 6) (x1 : BitVec 7) (x2 : BitVec 5) (x3 : BitVec 3) (x4 : BitVec 11) :
    fld (x0 ++ x1 ++ x2 ++ x3 ++ x4) 11 3 = x3 := by
  show (x0 ++ x1 ++ x2 ++ x3 ++ x4 : BitVec (6+7+5+3+11)).extractLsb' 11 3 = x3
  rw [fieldAbove (by decide), fieldBelow (by decide)]
  exact BitVec.extractLsb'_eq_self

theorem part_6_7_5_3_11_at_4 (x0 : BitVec 6) (x1 : BitVec 7) (x2 : BitVec 5) (x3 : BitVec 3) (x4 : BitVec 11) :
    fld (x0 ++ x1 ++ x2 ++ x3 ++ x4) 0 11 = x4 := by
  show (x0 ++ x1 ++ x2 ++ x3 ++ x4 : BitVec (6+7+5+3+11)).extractLsb' 0 11 = x4
  rw [fieldBelow (by decide)]
  exact BitVec.extractLsb'_eq_self

theorem part_6_7_7_7_5_at_0 (x0 : BitVec 6) (x1 : BitVec 7) (x2 : BitVec 7) (x3 : BitVec 7) (x4 : BitVec 5) :
    fld (x0 ++ x1 ++ x2 ++ x3 ++ x4) 26 6 = x0 := by
  show (x0 ++ x1 ++ x2 ++ x3 ++ x4 : BitVec (6+7+7+7+5)).extractLsb' 26 6 = x0
  rw [fieldAbove (by decide), fieldAbove (by decide), fieldAbove (by decide), fieldAbove (by decide)]
  exact BitVec.extractLsb'_eq_self

theorem part_6_7_7_7_5_at_4 (x0 : BitVec 6) (x1 : BitVec 7) (x2 : BitVec 7) (x3 : BitVec 7) (x4 : BitVec 5) :
    fld (x0 ++ x1 ++ x2 ++ x3 ++ x4) 0 5 = x4 := by
  show (x0 ++ x1 ++ x2 ++ x3 ++ x4 : BitVec (6+7+7+7+5)).extractLsb' 0 5 = x4
  rw [fieldBelow (by decide)]
  exact BitVec.extractLsb'_eq_self

theorem part_6_7_7_7_5_at_1 (x0 : BitVec 6) (x1 : BitVec 7) (x2 : BitVec 7) (x3 : BitVec 7) (x4 : BitVec 5) :
    fld (x0 ++ x1 ++ x2 ++ x3 ++ x4) 19 7 = x1 := by
  show (x0 ++ x1 ++ x2 ++ x3 ++ x4 : BitVec (6+7+7+7+5)).extractLsb' 19 7 = x1
  rw [fieldAbove (by decide), fieldAbove (by decide), fieldAbove (by decide), fieldBelow (by decide)]
  exact BitVec.extractLsb'_eq_self

theorem part_6_7_7_7_5_at_2 (x0 : BitVec 6) (x1 : BitVec 7) (x2 : BitVec 7) (x3 : BitVec 7) (x4 : BitVec 5) :
    fld (x0 ++ x1 ++ x2 ++ x3 ++ x4) 12 7 = x2 := by
  show (x0 ++ x1 ++ x2 ++ x3 ++ x4 : BitVec (6+7+7+7+5)).extractLsb' 12 7 = x2
  rw [fieldAbove (by decide), fieldAbove (by decide), fieldBelow (by decide)]
  exact BitVec.extractLsb'_eq_self

theorem part_6_7_7_7_5_at_3 (x0 : BitVec 6) (x1 : BitVec 7) (x2 : BitVec 7) (x3 : BitVec 7) (x4 : BitVec 5) :
    fld (x0 ++ x1 ++ x2 ++ x3 ++ x4) 5 7 = x3 := by
  show (x0 ++ x1 ++ x2 ++ x3 ++ x4 : BitVec (6+7+7+7+5)).extractLsb' 5 7 = x3
  rw [fieldAbove (by decide), fieldBelow (by decide)]
  exact BitVec.extractLsb'_eq_self

theorem part_6_5_5_5_7_4_at_0 (x0 : BitVec 6) (x1 : BitVec 5) (x2 : BitVec 5) (x3 : BitVec 5) (x4 : BitVec 7) (x5 : BitVec 4) :
    fld (x0 ++ x1 ++ x2 ++ x3 ++ x4 ++ x5) 26 6 = x0 := by
  show (x0 ++ x1 ++ x2 ++ x3 ++ x4 ++ x5 : BitVec (6+5+5+5+7+4)).extractLsb' 26 6 = x0
  rw [fieldAbove (by decide), fieldAbove (by decide), fieldAbove (by decide), fieldAbove (by decide), fieldAbove (by decide)]
  exact BitVec.extractLsb'_eq_self

theorem part_6_5_5_5_7_4_at_1 (x0 : BitVec 6) (x1 : BitVec 5) (x2 : BitVec 5) (x3 : BitVec 5) (x4 : BitVec 7) (x5 : BitVec 4) :
    fld (x0 ++ x1 ++ x2 ++ x3 ++ x4 ++ x5) 21 5 = x1 := by
  show (x0 ++ x1 ++ x2 ++ x3 ++ x4 ++ x5 : BitVec (6+5+5+5+7+4)).extractLsb' 21 5 = x1
  rw [fieldAbove (by decide), fieldAbove (by decide), fieldAbove (by decide), fieldAbove (by decide), fieldBelow (by decide)]
  exact BitVec.extractLsb'_eq_self

theorem part_6_5_5_5_7_4_at_2 (x0 : BitVec 6) (x1 : BitVec 5) (x2 : BitVec 5) (x3 : BitVec 5) (x4 : BitVec 7) (x5 : BitVec 4) :
    fld (x0 ++ x1 ++ x2 ++ x3 ++ x4 ++ x5) 16 5 = x2 := by
  show (x0 ++ x1 ++ x2 ++ x3 ++ x4 ++ x5 : BitVec (6+5+5+5+7+4)).extractLsb' 16 5 = x2
  rw [fieldAbove (by decide), fieldAbove (by decide), fieldAbove (by decide), fieldBelow (by decide)]
  exact BitVec.extractLsb'_eq_self

theorem part_6_5_5_5_7_4_at_3 (x0 : BitVec 6) (x1 : BitVec 5) (x2 : BitVec 5) (x3 : BitVec 5) (x4 : BitVec 7) (x5 : BitVec 4) :
    fld (x0 ++ x1 ++ x2 ++ x3 ++ x4 ++ x5) 11 5 = x3 := by
  show (x0 ++ x1 ++ x2 ++ x3 ++ x4 ++ x5 : BitVec (6+5+5+5+7+4)).extractLsb' 11 5 = x3
  rw [fieldAbove (by decide), fieldAbove (by decide), fieldBelow (by decide)]
  exact BitVec.extractLsb'_eq_self

theorem part_6_5_5_5_7_4_at_4 (x0 : BitVec 6) (x1 : BitVec 5) (x2 : BitVec 5) (x3 : BitVec 5) (x4 : BitVec 7) (x5 : BitVec 4) :
    fld (x0 ++ x1 ++ x2 ++ x3 ++ x4 ++ x5) 4 7 = x4 := by
  show (x0 ++ x1 ++ x2 ++ x3 ++ x4 ++ x5 : BitVec (6+5+5+5+7+4)).extractLsb' 4 7 = x4
  rw [fieldAbove (by decide), fieldBelow (by decide)]
  exact BitVec.extractLsb'_eq_self

theorem part_6_7_1_18_at_3 (x0 : BitVec 6) (x1 : BitVec 7) (x2 : BitVec 1) (x3 : BitVec 18) :
    fld (x0 ++ x1 ++ x2 ++ x3) 0 18 = x3 := by
  show (x0 ++ x1 ++ x2 ++ x3 : BitVec (6+7+1+18)).extractLsb' 0 18 = x3
  rw [fieldBelow (by decide)]
  exact BitVec.extractLsb'_eq_self

theorem part_6_26_at_0 (x0 : BitVec 6) (x1 : BitVec 26) :
    fld (x0 ++ x1) 26 6 = x0 := by
  show (x0 ++ x1 : BitVec (6+26)).extractLsb' 26 6 = x0
  rw [fieldAbove (by decide)]
  exact BitVec.extractLsb'_eq_self

theorem part_6_26_at_1 (x0 : BitVec 6) (x1 : BitVec 26) :
    fld (x0 ++ x1) 0 26 = x1 := by
  show (x0 ++ x1 : BitVec (6+26)).extractLsb' 0 26 = x1
  rw [fieldBelow (by decide)]
  exact BitVec.extractLsb'_eq_self

theorem part_6_5_2_1_18_at_0 (x0 : BitVec 6) (x1 : BitVec 5) (x2 : BitVec 2) (x3 : BitVec 1) (x4 : BitVec 18) :
    fld (x0 ++ x1 ++ x2 ++ x3 ++ x4) 26 6 = x0 := by
  show (x0 ++ x1 ++ x2 ++ x3 ++ x4 : BitVec (6+5+2+1+18)).extractLsb' 26 6 = x0
  rw [fieldAbove (by decide), fieldAbove (by decide), fieldAbove (by decide), fieldAbove (by decide)]
  exact BitVec.extractLsb'_eq_self

theorem part_6_5_2_1_18_at_2 (x0 : BitVec 6) (x1 : BitVec 5) (x2 : BitVec 2) (x3 : BitVec 1) (x4 : BitVec 18) :
    fld (x0 ++ x1 ++ x2 ++ x3 ++ x4) 19 2 = x2 := by
  show (x0 ++ x1 ++ x2 ++ x3 ++ x4 : BitVec (6+5+2+1+18)).extractLsb' 19 2 = x2
  rw [fieldAbove (by decide), fieldAbove (by decide), fieldBelow (by decide)]
  exact BitVec.extractLsb'_eq_self

theorem part_6_5_2_1_18_at_1 (x0 : BitVec 6) (x1 : BitVec 5) (x2 : BitVec 2) (x3 : BitVec 1) (x4 : BitVec 18) :
    fld (x0 ++ x1 ++ x2 ++ x3 ++ x4) 21 5 = x1 := by
  show (x0 ++ x1 ++ x2 ++ x3 ++ x4 : BitVec (6+5+2+1+18)).extractLsb' 21 5 = x1
  rw [fieldAbove (by decide), fieldAbove (by decide), fieldAbove (by decide), fieldBelow (by decide)]
  exact BitVec.extractLsb'_eq_self

theorem part_6_5_2_1_18_at_4 (x0 : BitVec 6) (x1 : BitVec 5) (x2 : BitVec 2) (x3 : BitVec 1) (x4 : BitVec 18) :
    fld (x0 ++ x1 ++ x2 ++ x3 ++ x4) 0 18 = x4 := by
  show (x0 ++ x1 ++ x2 ++ x3 ++ x4 : BitVec (6+5+2+1+18)).extractLsb' 0 18 = x4
  rw [fieldBelow (by decide)]
  exact BitVec.extractLsb'_eq_self

theorem part_6_5_5_2_14_at_0 (x0 : BitVec 6) (x1 : BitVec 5) (x2 : BitVec 5) (x3 : BitVec 2) (x4 : BitVec 14) :
    fld (x0 ++ x1 ++ x2 ++ x3 ++ x4) 26 6 = x0 := by
  show (x0 ++ x1 ++ x2 ++ x3 ++ x4 : BitVec (6+5+5+2+14)).extractLsb' 26 6 = x0
  rw [fieldAbove (by decide), fieldAbove (by decide), fieldAbove (by decide), fieldAbove (by decide)]
  exact BitVec.extractLsb'_eq_self

theorem part_6_5_5_2_14_at_1 (x0 : BitVec 6) (x1 : BitVec 5) (x2 : BitVec 5) (x3 : BitVec 2) (x4 : BitVec 14) :
    fld (x0 ++ x1 ++ x2 ++ x3 ++ x4) 21 5 = x1 := by
  show (x0 ++ x1 ++ x2 ++ x3 ++ x4 : BitVec (6+5+5+2+14)).extractLsb' 21 5 = x1
  rw [fieldAbove (by decide), fieldAbove (by decide), fieldAbove (by decide), fieldBelow (by decide)]
  exact BitVec.extractLsb'_eq_self

theorem part_6_5_5_2_14_at_2 (x0 : BitVec 6) (x1 : BitVec 5) (x2 : BitVec 5) (x3 : BitVec 2) (x4 : BitVec 14) :
    fld (x0 ++ x1 ++ x2 ++ x3 ++ x4) 16 5 = x2 := by
  show (x0 ++ x1 ++ x2 ++ x3 ++ x4 : BitVec (6+5+5+2+14)).extractLsb' 16 5 = x2
  rw [fieldAbove (by decide), fieldAbove (by decide), fieldBelow (by decide)]
  exact BitVec.extractLsb'_eq_self

theorem part_6_5_5_2_14_at_3 (x0 : BitVec 6) (x1 : BitVec 5) (x2 : BitVec 5) (x3 : BitVec 2) (x4 : BitVec 14) :
    fld (x0 ++ x1 ++ x2 ++ x3 ++ x4) 14 2 = x3 := by
  show (x0 ++ x1 ++ x2 ++ x3 ++ x4 : BitVec (6+5+5+2+14)).extractLsb' 14 2 = x3
  rw [fieldAbove (by decide), fieldBelow (by decide)]
  exact BitVec.extractLsb'_eq_self

theorem part_6_5_5_2_14_at_4 (x0 : BitVec 6) (x1 : BitVec 5) (x2 : BitVec 5) (x3 : BitVec 2) (x4 : BitVec 14) :
    fld (x0 ++ x1 ++ x2 ++ x3 ++ x4) 0 14 = x4 := by
  show (x0 ++ x1 ++ x2 ++ x3 ++ x4 : BitVec (6+5+5+2+14)).extractLsb' 0 14 = x4
  rw [fieldBelow (by decide)]
  exact BitVec.extractLsb'_eq_self

theorem part_6_5_5_2_4_10_at_0 (x0 : BitVec 6) (x1 : BitVec 5) (x2 : BitVec 5) (x3 : BitVec 2) (x4 : BitVec 4) (x5 : BitVec 10) :
    fld (x0 ++ x1 ++ x2 ++ x3 ++ x4 ++ x5) 26 6 = x0 := by
  show (x0 ++ x1 ++ x2 ++ x3 ++ x4 ++ x5 : BitVec (6+5+5+2+4+10)).extractLsb' 26 6 = x0
  rw [fieldAbove (by decide), fieldAbove (by decide), fieldAbove (by decide), fieldAbove (by decide), fieldAbove (by decide)]
  exact BitVec.extractLsb'_eq_self

theorem part_6_5_5_2_4_10_at_1 (x0 : BitVec 6) (x1 : BitVec 5) (x2 : BitVec 5) (x3 : BitVec 2) (x4 : BitVec 4) (x5 : BitVec 10) :
    fld (x0 ++ x1 ++ x2 ++ x3 ++ x4 ++ x5) 21 5 = x1 := by
  show (x0 ++ x1 ++ x2 ++ x3 ++ x4 ++ x5 : BitVec (6+5+5+2+4+10)).extractLsb' 21 5 = x1
  rw [fieldAbove (by decide), fieldAbove (by decide), fieldAbove (by decide), fieldAbove (by decide), fieldBelow (by decide)]
  exact BitVec.extractLsb'_eq_self

theorem part_6_5_5_2_4_10_at_2 (x0 : BitVec 6) (x1 : BitVec 5) (x2 : BitVec 5) (x3 : BitVec 2) (x4 : BitVec 4) (x5 : BitVec 10) :
    fld (x0 ++ x1 ++ x2 ++ x3 ++ x4 ++ x5) 16 5 = x2 := by
  show (x0 ++ x1 ++ x2 ++ x3 ++ x4 ++ x5 : BitVec (6+5+5+2+4+10)).extractLsb' 16 5 = x2
  rw [fieldAbove (by decide), fieldAbove (by decide), fieldAbove (by decide), fieldBelow (by decide)]
  exact BitVec.extractLsb'_eq_self

theorem part_6_5_5_2_4_10_at_3 (x0 : BitVec 6) (x1 : BitVec 5) (x2 : BitVec 5) (x3 : BitVec 2) (x4 : BitVec 4) (x5 : BitVec 10) :
    fld (x0 ++ x1 ++ x2 ++ x3 ++ x4 ++ x5) 14 2 = x3 := by
  show (x0 ++ x1 ++ x2 ++ x3 ++ x4 ++ x5 : BitVec (6+5+5+2+4+10)).extractLsb' 14 2 = x3
  rw [fieldAbove (by decide), fieldAbove (by decide), fieldBelow (by decide)]
  exact BitVec.extractLsb'_eq_self

theorem part_6_5_5_2_4_10_at_4 (x0 : BitVec 6) (x1 : BitVec 5) (x2 : BitVec 5) (x3 : BitVec 2) (x4 : BitVec 4) (x5 : BitVec 10) :
    fld (x0 ++ x1 ++ x2 ++ x3 ++ x4 ++ x5) 10 4 = x4 := by
  show (x0 ++ x1 ++ x2 ++ x3 ++ x4 ++ x5 : BitVec (6+5+5+2+4+10)).extractLsb' 10 4 = x4
  rw [fieldAbove (by decide), fieldBelow (by decide)]
  exact BitVec.extractLsb'_eq_self

theorem part_6_5_5_2_4_10_at_5 (x0 : BitVec 6) (x1 : BitVec 5) (x2 : BitVec 5) (x3 : BitVec 2) (x4 : BitVec 4) (x5 : BitVec 10) :
    fld (x0 ++ x1 ++ x2 ++ x3 ++ x4 ++ x5) 0 10 = x5 := by
  show (x0 ++ x1 ++ x2 ++ x3 ++ x4 ++ x5 : BitVec (6+5+5+2+4+10)).extractLsb' 0 10 = x5
  rw [fieldBelow (by decide)]
  exact BitVec.extractLsb'_eq_self

theorem part_6_1_1_3_5_2_4_10_at_0 (x0 : BitVec 6) (x1 : BitVec 1) (x2 : BitVec 1) (x3 : BitVec 3) (x4 : BitVec 5) (x5 : BitVec 2) (x6 : BitVec 4) (x7 : BitVec 10) :
    fld (x0 ++ x1 ++ x2 ++ x3 ++ x4 ++ x5 ++ x6 ++ x7) 26 6 = x0 := by
  show (x0 ++ x1 ++ x2 ++ x3 ++ x4 ++ x5 ++ x6 ++ x7 : BitVec (6+1+1+3+5+2+4+10)).extractLsb' 26 6 = x0
  rw [fieldAbove (by decide), fieldAbove (by decide), fieldAbove (by decide), fieldAbove (by decide), fieldAbove (by decide), fieldAbove (by decide), fieldAbove (by decide)]
  exact BitVec.extractLsb'_eq_self

theorem part_6_1_1_3_5_2_4_10_at_1 (x0 : BitVec 6) (x1 : BitVec 1) (x2 : BitVec 1) (x3 : BitVec 3) (x4 : BitVec 5) (x5 : BitVec 2) (x6 : BitVec 4) (x7 : BitVec 10) :
    fld (x0 ++ x1 ++ x2 ++ x3 ++ x4 ++ x5 ++ x6 ++ x7) 25 1 = x1 := by
  show (x0 ++ x1 ++ x2 ++ x3 ++ x4 ++ x5 ++ x6 ++ x7 : BitVec (6+1+1+3+5+2+4+10)).extractLsb' 25 1 = x1
  rw [fieldAbove (by decide), fieldAbove (by decide), fieldAbove (by decide), fieldAbove (by decide), fieldAbove (by decide), fieldAbove (by decide), fieldBelow (by decide)]
  exact BitVec.extractLsb'_eq_self

theorem part_6_1_1_3_5_2_4_10_at_2 (x0 : BitVec 6) (x1 : BitVec 1) (x2 : BitVec 1) (x3 : BitVec 3) (x4 : BitVec 5) (x5 : BitVec 2) (x6 : BitVec 4) (x7 : BitVec 10) :
    fld (x0 ++ x1 ++ x2 ++ x3 ++ x4 ++ x5 ++ x6 ++ x7) 24 1 = x2 := by
  show (x0 ++ x1 ++ x2 ++ x3 ++ x4 ++ x5 ++ x6 ++ x7 : BitVec (6+1+1+3+5+2+4+10)).extractLsb' 24 1 = x2
  rw [fieldAbove (by decide), fieldAbove (by decide), fieldAbove (by decide), fieldAbove (by decide), fieldAbove (by decide), fieldBelow (by decide)]
  exact BitVec.extractLsb'_eq_self

theorem part_6_1_1_3_5_2_4_10_at_4 (x0 : BitVec 6) (x1 : BitVec 1) (x2 : BitVec 1) (x3 : BitVec 3) (x4 : BitVec 5) (x5 : BitVec 2) (x6 : BitVec 4) (x7 : BitVec 10) :
    fld (x0 ++ x1 ++ x2 ++ x3 ++ x4 ++ x5 ++ x6 ++ x7) 16 5 = x4 := by
  show (x0 ++ x1 ++ x2 ++ x3 ++ x4 ++ x5 ++ x6 ++ x7 : BitVec (6+1+1+3+5+2+4+10)).extractLsb' 16 5 = x4
  rw [fieldAbove (by decide), fieldAbove (by decide), fieldAbove (by decide), fieldBelow (by decide)]
  exact BitVec.extractLsb'_eq_self

theorem part_6_1_1_3_5_2_4_10_at_5 (x0 : BitVec 6) (x1 : BitVec 1) (x2 : BitVec 1) (x3 : BitVec 3) (x4 : BitVec 5) (x5 : BitVec 2) (x6 : BitVec 4) (x7 : BitVec 10) :
    fld (x0 ++ x1 ++ x2 ++ x3 ++ x4 ++ x5 ++ x6 ++ x7) 14 2 = x5 := by
  show (x0 ++ x1 ++ x2 ++ x3 ++ x4 ++ x5 ++ x6 ++ x7 : BitVec (6+1+1+3+5+2+4+10)).extractLsb' 14 2 = x5
  rw [fieldAbove (by decide), fieldAbove (by decide), fieldBelow (by decide)]
  exact BitVec.extractLsb'_eq_self

theorem part_6_1_1_3_5_2_4_10_at_6 (x0 : BitVec 6) (x1 : BitVec 1) (x2 : BitVec 1) (x3 : BitVec 3) (x4 : BitVec 5) (x5 : BitVec 2) (x6 : BitVec 4) (x7 : BitVec 10) :
    fld (x0 ++ x1 ++ x2 ++ x3 ++ x4 ++ x5 ++ x6 ++ x7) 10 4 = x6 := by
  show (x0 ++ x1 ++ x2 ++ x3 ++ x4 ++ x5 ++ x6 ++ x7 : BitVec (6+1+1+3+5+2+4+10)).extractLsb' 10 4 = x6
  rw [fieldAbove (by decide), fieldBelow (by decide)]
  exact BitVec.extractLsb'_eq_self

theorem part_6_1_1_3_5_2_4_10_at_7 (x0 : BitVec 6) (x1 : BitVec 1) (x2 : BitVec 1) (x3 : BitVec 3) (x4 : BitVec 5) (x5 : BitVec 2) (x6 : BitVec 4) (x7 : BitVec 10) :
    fld (x0 ++ x1 ++ x2 ++ x3 ++ x4 ++ x5 ++ x6 ++ x7) 0 10 = x7 := by
  show (x0 ++ x1 ++ x2 ++ x3 ++ x4 ++ x5 ++ x6 ++ x7 : BitVec (6+1+1+3+5+2+4+10)).extractLsb' 0 10 = x7
  rw [fieldBelow (by decide)]
  exact BitVec.extractLsb'_eq_self

theorem part_6_3_5_5_5_8_at_0 (x0 : BitVec 6) (x1 : BitVec 3) (x2 : BitVec 5) (x3 : BitVec 5) (x4 : BitVec 5) (x5 : BitVec 8) :
    fld (x0 ++ x1 ++ x2 ++ x3 ++ x4 ++ x5) 26 6 = x0 := by
  show (x0 ++ x1 ++ x2 ++ x3 ++ x4 ++ x5 : BitVec (6+3+5+5+5+8)).extractLsb' 26 6 = x0
  rw [fieldAbove (by decide), fieldAbove (by decide), fieldAbove (by decide), fieldAbove (by decide), fieldAbove (by decide)]
  exact BitVec.extractLsb'_eq_self

theorem part_6_3_5_5_5_8_at_1 (x0 : BitVec 6) (x1 : BitVec 3) (x2 : BitVec 5) (x3 : BitVec 5) (x4 : BitVec 5) (x5 : BitVec 8) :
    fld (x0 ++ x1 ++ x2 ++ x3 ++ x4 ++ x5) 23 3 = x1 := by
  show (x0 ++ x1 ++ x2 ++ x3 ++ x4 ++ x5 : BitVec (6+3+5+5+5+8)).extractLsb' 23 3 = x1
  rw [fieldAbove (by decide), fieldAbove (by decide), fieldAbove (by decide), fieldAbove (by decide), fieldBelow (by decide)]
  exact BitVec.extractLsb'_eq_self

theorem part_6_3_5_5_5_8_at_2 (x0 : BitVec 6) (x1 : BitVec 3) (x2 : BitVec 5) (x3 : BitVec 5) (x4 : BitVec 5) (x5 : BitVec 8) :
    fld (x0 ++ x1 ++ x2 ++ x3 ++ x4 ++ x5) 18 5 = x2 := by
  show (x0 ++ x1 ++ x2 ++ x3 ++ x4 ++ x5 : BitVec (6+3+5+5+5+8)).extractLsb' 18 5 = x2
  rw [fieldAbove (by decide), fieldAbove (by decide), fieldAbove (by decide), fieldBelow (by decide)]
  exact BitVec.extractLsb'_eq_self

theorem part_6_3_5_5_5_8_at_3 (x0 : BitVec 6) (x1 : BitVec 3) (x2 : BitVec 5) (x3 : BitVec 5) (x4 : BitVec 5) (x5 : BitVec 8) :
    fld (x0 ++ x1 ++ x2 ++ x3 ++ x4 ++ x5) 13 5 = x3 := by
  show (x0 ++ x1 ++ x2 ++ x3 ++ x4 ++ x5 : BitVec (6+3+5+5+5+8)).extractLsb' 13 5 = x3
  rw [fieldAbove (by decide), fieldAbove (by decide), fieldBelow (by decide)]
  exact BitVec.extractLsb'_eq_self

theorem part_6_3_5_5_5_8_at_4 (x0 : BitVec 6) (x1 : BitVec 3) (x2 : BitVec 5) (x3 : BitVec 5) (x4 : BitVec 5) (x5 : BitVec 8) :
    fld (x0 ++ x1 ++ x2 ++ x3 ++ x4 ++ x5) 8 5 = x4 := by
  show (x0 ++ x1 ++ x2 ++ x3 ++ x4 ++ x5 : BitVec (6+3+5+5+5+8)).extractLsb' 8 5 = x4
  rw [fieldAbove (by decide), fieldBelow (by decide)]
  exact BitVec.extractLsb'_eq_self

theorem part_6_5_5_5_5_4_2_at_0 (x0 : BitVec 6) (x1 : BitVec 5) (x2 : BitVec 5) (x3 : BitVec 5) (x4 : BitVec 5) (x5 : BitVec 4) (x6 : BitVec 2) :
    fld (x0 ++ x1 ++ x2 ++ x3 ++ x4 ++ x5 ++ x6) 26 6 = x0 := by
  show (x0 ++ x1 ++ x2 ++ x3 ++ x4 ++ x5 ++ x6 : BitVec (6+5+5+5+5+4+2)).extractLsb' 26 6 = x0
  rw [fieldAbove (by decide), fieldAbove (by decide), fieldAbove (by decide), fieldAbove (by decide), fieldAbove (by decide), fieldAbove (by decide)]
  exact BitVec.extractLsb'_eq_self

theorem part_6_5_5_5_5_4_2_at_1 (x0 : BitVec 6) (x1 : BitVec 5) (x2 : BitVec 5) (x3 : BitVec 5) (x4 : BitVec 5) (x5 : BitVec 4) (x6 : BitVec 2) :
    fld (x0 ++ x1 ++ x2 ++ x3 ++ x4 ++ x5 ++ x6) 21 5 = x1 := by
  show (x0 ++ x1 ++ x2 ++ x3 ++ x4 ++ x5 ++ x6 : BitVec (6+5+5+5+5+4+2)).extractLsb' 21 5 = x1
  rw [fieldAbove (by decide), fieldAbove (by decide), fieldAbove (by decide), fieldAbove (by decide), fieldAbove (by decide), fieldBelow (by decide)]
  exact BitVec.extractLsb'_eq_self

theorem part_6_5_5_5_5_4_2_at_2 (x0 : BitVec 6) (x1 : BitVec 5) (x2 : BitVec 5) (x3 : BitVec 5) (x4 : BitVec 5) (x5 : BitVec 4) (x6 : BitVec 2) :
    fld (x0 ++ x1 ++ x2 ++ x3 ++ x4 ++ x5 ++ x6) 16 5 = x2 := by
  show (x0 ++ x1 ++ x2 ++ x3 ++ x4 ++ x5 ++ x6 : BitVec (6+5+5+5+5+4+2)).extractLsb' 16 5 = x2
  rw [fieldAbove (by decide), fieldAbove (by decide), fieldAbove (by decide), fieldAbove (by decide), fieldBelow (by decide)]
  exact BitVec.extractLsb'_eq_self

theorem part_6_5_5_5_5_4_2_at_3 (x0 : BitVec 6) (x1 : BitVec 5) (x2 : BitVec 5) (x3 : BitVec 5) (x4 : BitVec 5) (x5 : BitVec 4) (x6 : BitVec 2) :
    fld (x0 ++ x1 ++ x2 ++ x3 ++ x4 ++ x5 ++ x6) 11 5 = x3 := by
  show (x0 ++ x1 ++ x2 ++ x3 ++ x4 ++ x5 ++ x6 : BitVec (6+5+5+5+5+4+2)).extractLsb' 11 5 = x3
  rw [fieldAbove (by decide), fieldAbove (by decide), fieldAbove (by decide), fieldBelow (by decide)]
  exact BitVec.extractLsb'_eq_self

theorem part_6_5_5_5_5_4_2_at_5 (x0 : BitVec 6) (x1 : BitVec 5) (x2 : BitVec 5) (x3 : BitVec 5) (x4 : BitVec 5) (x5 : BitVec 4) (x6 : BitVec 2) :
    fld (x0 ++ x1 ++ x2 ++ x3 ++ x4 ++ x5 ++ x6) 2 4 = x5 := by
  show (x0 ++ x1 ++ x2 ++ x3 ++ x4 ++ x5 ++ x6 : BitVec (6+5+5+5+5+4+2)).extractLsb' 2 4 = x5
  rw [fieldAbove (by decide), fieldBelow (by decide)]
  exact BitVec.extractLsb'_eq_self

theorem part_6_5_5_5_5_4_2_at_6 (x0 : BitVec 6) (x1 : BitVec 5) (x2 : BitVec 5) (x3 : BitVec 5) (x4 : BitVec 5) (x5 : BitVec 4) (x6 : BitVec 2) :
    fld (x0 ++ x1 ++ x2 ++ x3 ++ x4 ++ x5 ++ x6) 0 2 = x6 := by
  show (x0 ++ x1 ++ x2 ++ x3 ++ x4 ++ x5 ++ x6 : BitVec (6+5+5+5+5+4+2)).extractLsb' 0 2 = x6
  rw [fieldBelow (by decide)]
  exact BitVec.extractLsb'_eq_self

theorem part_6_4_4_18_at_0 (x0 : BitVec 6) (x1 : BitVec 4) (x2 : BitVec 4) (x3 : BitVec 18) :
    fld (x0 ++ x1 ++ x2 ++ x3) 26 6 = x0 := by
  show (x0 ++ x1 ++ x2 ++ x3 : BitVec (6+4+4+18)).extractLsb' 26 6 = x0
  rw [fieldAbove (by decide), fieldAbove (by decide), fieldAbove (by decide)]
  exact BitVec.extractLsb'_eq_self

theorem part_6_4_4_18_at_1 (x0 : BitVec 6) (x1 : BitVec 4) (x2 : BitVec 4) (x3 : BitVec 18) :
    fld (x0 ++ x1 ++ x2 ++ x3) 22 4 = x1 := by
  show (x0 ++ x1 ++ x2 ++ x3 : BitVec (6+4+4+18)).extractLsb' 22 4 = x1
  rw [fieldAbove (by decide), fieldAbove (by decide), fieldBelow (by decide)]
  exact BitVec.extractLsb'_eq_self

theorem part_6_4_4_18_at_2 (x0 : BitVec 6) (x1 : BitVec 4) (x2 : BitVec 4) (x3 : BitVec 18) :
    fld (x0 ++ x1 ++ x2 ++ x3) 18 4 = x2 := by
  show (x0 ++ x1 ++ x2 ++ x3 : BitVec (6+4+4+18)).extractLsb' 18 4 = x2
  rw [fieldAbove (by decide), fieldBelow (by decide)]
  exact BitVec.extractLsb'_eq_self

theorem part_6_4_22_at_0 (x0 : BitVec 6) (x1 : BitVec 4) (x2 : BitVec 22) :
    fld (x0 ++ x1 ++ x2) 26 6 = x0 := by
  show (x0 ++ x1 ++ x2 : BitVec (6+4+22)).extractLsb' 26 6 = x0
  rw [fieldAbove (by decide), fieldAbove (by decide)]
  exact BitVec.extractLsb'_eq_self

theorem part_6_4_22_at_1 (x0 : BitVec 6) (x1 : BitVec 4) (x2 : BitVec 22) :
    fld (x0 ++ x1 ++ x2) 22 4 = x1 := by
  show (x0 ++ x1 ++ x2 : BitVec (6+4+22)).extractLsb' 22 4 = x1
  rw [fieldAbove (by decide), fieldBelow (by decide)]
  exact BitVec.extractLsb'_eq_self

theorem part_6_5_5_3_4_9_at_0 (x0 : BitVec 6) (x1 : BitVec 5) (x2 : BitVec 5) (x3 : BitVec 3) (x4 : BitVec 4) (x5 : BitVec 9) :
    fld (x0 ++ x1 ++ x2 ++ x3 ++ x4 ++ x5) 26 6 = x0 := by
  show (x0 ++ x1 ++ x2 ++ x3 ++ x4 ++ x5 : BitVec (6+5+5+3+4+9)).extractLsb' 26 6 = x0
  rw [fieldAbove (by decide), fieldAbove (by decide), fieldAbove (by decide), fieldAbove (by decide), fieldAbove (by decide)]
  exact BitVec.extractLsb'_eq_self

theorem part_6_5_5_3_4_9_at_1 (x0 : BitVec 6) (x1 : BitVec 5) (x2 : BitVec 5) (x3 : BitVec 3) (x4 : BitVec 4) (x5 : BitVec 9) :
    fld (x0 ++ x1 ++ x2 ++ x3 ++ x4 ++ x5) 21 5 = x1 := by
  show (x0 ++ x1 ++ x2 ++ x3 ++ x4 ++ x5 : BitVec (6+5+5+3+4+9)).extractLsb' 21 5 = x1
  rw [fieldAbove (by decide), fieldAbove (by decide), fieldAbove (by decide), fieldAbove (by decide), fieldBelow (by decide)]
  exact BitVec.extractLsb'_eq_self

theorem part_6_5_5_3_4_9_at_2 (x0 : BitVec 6) (x1 : BitVec 5) (x2 : BitVec 5) (x3 : BitVec 3) (x4 : BitVec 4) (x5 : BitVec 9) :
    fld (x0 ++ x1 ++ x2 ++ x3 ++ x4 ++ x5) 16 5 = x2 := by
  show (x0 ++ x1 ++ x2 ++ x3 ++ x4 ++ x5 : BitVec (6+5+5+3+4+9)).extractLsb' 16 5 = x2
  rw [fieldAbove (by decide), fieldAbove (by decide), fieldAbove (by decide), fieldBelow (by decide)]
  exact BitVec.extractLsb'_eq_self

theorem part_6_5_5_3_4_9_at_3 (x0 : BitVec 6) (x1 : BitVec 5) (x2 : BitVec 5) (x3 : BitVec 3) (x4 : BitVec 4) (x5 : BitVec 9) :
    fld (x0 ++ x1 ++ x2 ++ x3 ++ x4 ++ x5) 13 3 = x3 := by
  show (x0 ++ x1 ++ x2 ++ x3 ++ x4 ++ x5 : BitVec (6+5+5+3+4+9)).extractLsb' 13 3 = x3
  rw [fieldAbove (by decide), fieldAbove (by decide), fieldBelow (by decide)]
  exact BitVec.extractLsb'_eq_self

theorem part_6_5_5_3_4_9_at_4 (x0 : BitVec 6) (x1 : BitVec 5) (x2 : BitVec 5) (x3 : BitVec 3) (x4 : BitVec 4) (x5 : BitVec 9) :
    fld (x0 ++ x1 ++ x2 ++ x3 ++ x4 ++ x5) 9 4 = x4 := by
  show (x0 ++ x1 ++ x2 ++ x3 ++ x4 ++ x5 : BitVec (6+5+5+3+4+9)).extractLsb' 9 4 = x4
  rw [fieldAbove (by decide), fieldBelow (by decide)]
  exact BitVec.extractLsb'_eq_self

theorem part_6_5_2_5_14_at_0 (x0 : BitVec 6) (x1 : BitVec 5) (x2 : BitVec 2) (x3 : BitVec 5) (x4 : BitVec 14) :
    fld (x0 ++ x1 ++ x2 ++ x3 ++ x4) 26 6 = x0 := by
  show (x0 ++ x1 ++ x2 ++ x3 ++ x4 : BitVec (6+5+2+5+14)).extractLsb' 26 6 = x0
  rw [fieldAbove (by decide), fieldAbove (by decide), fieldAbove (by decide), fieldAbove (by decide)]
  exact BitVec.extractLsb'_eq_self

theorem part_6_5_2_5_14_at_1 (x0 : BitVec 6) (x1 : BitVec 5) (x2 : BitVec 2) (x3 : BitVec 5) (x4 : BitVec 14) :
    fld (x0 ++ x1 ++ x2 ++ x3 ++ x4) 21 5 = x1 := by
  show (x0 ++ x1 ++ x2 ++ x3 ++ x4 : BitVec (6+5+2+5+14)).extractLsb' 21 5 = x1
  rw [fieldAbove (by decide), fieldAbove (by decide), fieldAbove (by decide), fieldBelow (by decide)]
  exact BitVec.extractLsb'_eq_self

theorem part_6_5_2_5_14_at_2 (x0 : BitVec 6) (x1 : BitVec 5) (x2 : BitVec 2) (x3 : BitVec 5) (x4 : BitVec 14) :
    fld (x0 ++ x1 ++ x2 ++ x3 ++ x4) 19 2 = x2 := by
  show (x0 ++ x1 ++ x2 ++ x3 ++ x4 : BitVec (6+5+2+5+14)).extractLsb' 19 2 = x2
  rw [fieldAbove (by decide), fieldAbove (by decide), fieldBelow (by decide)]
  exact BitVec.extractLsb'_eq_self

theorem part_6_5_2_5_14_at_3 (x0 : BitVec 6) (x1 : BitVec 5) (x2 : BitVec 2) (x3 : BitVec 5) (x4 : BitVec 14) :
    fld (x0 ++ x1 ++ x2 ++ x3 ++ x4) 14 5 = x3 := by
  show (x0 ++ x1 ++ x2 ++ x3 ++ x4 : BitVec (6+5+2+5+14)).extractLsb' 14 5 = x3
  rw [fieldAbove (by decide), fieldBelow (by decide)]
  exact BitVec.extractLsb'_eq_self

theorem part_6_1_5_5_4_11_at_0 (x0 : BitVec 6) (x1 : BitVec 1) (x2 : BitVec 5) (x3 : BitVec 5) (x4 : BitVec 4) (x5 : BitVec 11) :
    fld (x0 ++ x1 ++ x2 ++ x3 ++ x4 ++ x5) 26 6 = x0 := by
  show (x0 ++ x1 ++ x2 ++ x3 ++ x4 ++ x5 : BitVec (6+1+5+5+4+11)).extractLsb' 26 6 = x0
  rw [fieldAbove (by decide), fieldAbove (by decide), fieldAbove (by decide), fieldAbove (by decide), fieldAbove (by decide)]
  exact BitVec.extractLsb'_eq_self

theorem part_6_1_5_5_4_11_at_1 (x0 : BitVec 6) (x1 : BitVec 1) (x2 : BitVec 5) (x3 : BitVec 5) (x4 : BitVec 4) (x5 : BitVec 11) :
    fld (x0 ++ x1 ++ x2 ++ x3 ++ x4 ++ x5) 25 1 = x1 := by
  show (x0 ++ x1 ++ x2 ++ x3 ++ x4 ++ x5 : BitVec (6+1+5+5+4+11)).extractLsb' 25 1 = x1
  rw [fieldAbove (by decide), fieldAbove (by decide), fieldAbove (by decide), fieldAbove (by decide), fieldBelow (by decide)]
  exact BitVec.extractLsb'_eq_self

theorem part_6_1_5_5_4_11_at_2 (x0 : BitVec 6) (x1 : BitVec 1) (x2 : BitVec 5) (x3 : BitVec 5) (x4 : BitVec 4) (x5 : BitVec 11) :
    fld (x0 ++ x1 ++ x2 ++ x3 ++ x4 ++ x5) 20 5 = x2 := by
  show (x0 ++ x1 ++ x2 ++ x3 ++ x4 ++ x5 : BitVec (6+1+5+5+4+11)).extractLsb' 20 5 = x2
  rw [fieldAbove (by decide), fieldAbove (by decide), fieldAbove (by decide), fieldBelow (by decide)]
  exact BitVec.extractLsb'_eq_self

theorem part_6_1_5_5_4_11_at_3 (x0 : BitVec 6) (x1 : BitVec 1) (x2 : BitVec 5) (x3 : BitVec 5) (x4 : BitVec 4) (x5 : BitVec 11) :
    fld (x0 ++ x1 ++ x2 ++ x3 ++ x4 ++ x5) 15 5 = x3 := by
  show (x0 ++ x1 ++ x2 ++ x3 ++ x4 ++ x5 : BitVec (6+1+5+5+4+11)).extractLsb' 15 5 = x3
  rw [fieldAbove (by decide), fieldAbove (by decide), fieldBelow (by decide)]
  exact BitVec.extractLsb'_eq_self

theorem part_6_1_5_5_4_11_at_4 (x0 : BitVec 6) (x1 : BitVec 1) (x2 : BitVec 5) (x3 : BitVec 5) (x4 : BitVec 4) (x5 : BitVec 11) :
    fld (x0 ++ x1 ++ x2 ++ x3 ++ x4 ++ x5) 11 4 = x4 := by
  show (x0 ++ x1 ++ x2 ++ x3 ++ x4 ++ x5 : BitVec (6+1+5+5+4+11)).extractLsb' 11 4 = x4
  rw [fieldAbove (by decide), fieldBelow (by decide)]
  exact BitVec.extractLsb'_eq_self

theorem part_6_1_5_5_15_at_0 (x0 : BitVec 6) (x1 : BitVec 1) (x2 : BitVec 5) (x3 : BitVec 5) (x4 : BitVec 15) :
    fld (x0 ++ x1 ++ x2 ++ x3 ++ x4) 26 6 = x0 := by
  show (x0 ++ x1 ++ x2 ++ x3 ++ x4 : BitVec (6+1+5+5+15)).extractLsb' 26 6 = x0
  rw [fieldAbove (by decide), fieldAbove (by decide), fieldAbove (by decide), fieldAbove (by decide)]
  exact BitVec.extractLsb'_eq_self

theorem part_6_1_5_5_15_at_1 (x0 : BitVec 6) (x1 : BitVec 1) (x2 : BitVec 5) (x3 : BitVec 5) (x4 : BitVec 15) :
    fld (x0 ++ x1 ++ x2 ++ x3 ++ x4) 25 1 = x1 := by
  show (x0 ++ x1 ++ x2 ++ x3 ++ x4 : BitVec (6+1+5+5+15)).extractLsb' 25 1 = x1
  rw [fieldAbove (by decide), fieldAbove (by decide), fieldAbove (by decide), fieldBelow (by decide)]
  exact BitVec.extractLsb'_eq_self

theorem part_6_1_5_5_15_at_2 (x0 : BitVec 6) (x1 : BitVec 1) (x2 : BitVec 5) (x3 : BitVec 5) (x4 : BitVec 15) :
    fld (x0 ++ x1 ++ x2 ++ x3 ++ x4) 20 5 = x2 := by
  show (x0 ++ x1 ++ x2 ++ x3 ++ x4 : BitVec (6+1+5+5+15)).extractLsb' 20 5 = x2
  rw [fieldAbove (by decide), fieldAbove (by decide), fieldBelow (by decide)]
  exact BitVec.extractLsb'_eq_self

theorem part_6_1_5_5_15_at_3 (x0 : BitVec 6) (x1 : BitVec 1) (x2 : BitVec 5) (x3 : BitVec 5) (x4 : BitVec 15) :
    fld (x0 ++ x1 ++ x2 ++ x3 ++ x4) 15 5 = x3 := by
  show (x0 ++ x1 ++ x2 ++ x3 ++ x4 : BitVec (6+1+5+5+15)).extractLsb' 15 5 = x3
  rw [fieldAbove (by decide), fieldBelow (by decide)]
  exact BitVec.extractLsb'_eq_self

theorem part_6_3_23_at_0 (x0 : BitVec 6) (x1 : BitVec 3) (x2 : BitVec 23) :
    fld (x0 ++ x1 ++ x2) 26 6 = x0 := by
  show (x0 ++ x1 ++ x2 : BitVec (6+3+23)).extractLsb' 26 6 = x0
  rw [fieldAbove (by decide), fieldAbove (by decide)]
  exact BitVec.extractLsb'_eq_self

theorem part_6_3_23_at_1 (x0 : BitVec 6) (x1 : BitVec 3) (x2 : BitVec 23) :
    fld (x0 ++ x1 ++ x2) 23 3 = x1 := by
  show (x0 ++ x1 ++ x2 : BitVec (6+3+23)).extractLsb' 23 3 = x1
  rw [fieldAbove (by decide), fieldBelow (by decide)]
  exact BitVec.extractLsb'_eq_self

theorem part_6_1_3_7_5_10_at_0 (x0 : BitVec 6) (x1 : BitVec 1) (x2 : BitVec 3) (x3 : BitVec 7) (x4 : BitVec 5) (x5 : BitVec 10) :
    fld (x0 ++ x1 ++ x2 ++ x3 ++ x4 ++ x5) 26 6 = x0 := by
  show (x0 ++ x1 ++ x2 ++ x3 ++ x4 ++ x5 : BitVec (6+1+3+7+5+10)).extractLsb' 26 6 = x0
  rw [fieldAbove (by decide), fieldAbove (by decide), fieldAbove (by decide), fieldAbove (by decide), fieldAbove (by decide)]
  exact BitVec.extractLsb'_eq_self

theorem part_6_1_3_7_5_10_at_1 (x0 : BitVec 6) (x1 : BitVec 1) (x2 : BitVec 3) (x3 : BitVec 7) (x4 : BitVec 5) (x5 : BitVec 10) :
    fld (x0 ++ x1 ++ x2 ++ x3 ++ x4 ++ x5) 25 1 = x1 := by
  show (x0 ++ x1 ++ x2 ++ x3 ++ x4 ++ x5 : BitVec (6+1+3+7+5+10)).extractLsb' 25 1 = x1
  rw [fieldAbove (by decide), fieldAbove (by decide), fieldAbove (by decide), fieldAbove (by decide), fieldBelow (by decide)]
  exact BitVec.extractLsb'_eq_self

theorem part_6_1_3_7_5_10_at_2 (x0 : BitVec 6) (x1 : BitVec 1) (x2 : BitVec 3) (x3 : BitVec 7) (x4 : BitVec 5) (x5 : BitVec 10) :
    fld (x0 ++ x1 ++ x2 ++ x3 ++ x4 ++ x5) 22 3 = x2 := by
  show (x0 ++ x1 ++ x2 ++ x3 ++ x4 ++ x5 : BitVec (6+1+3+7+5+10)).extractLsb' 22 3 = x2
  rw [fieldAbove (by decide), fieldAbove (by decide), fieldAbove (by decide), fieldBelow (by decide)]
  exact BitVec.extractLsb'_eq_self

theorem part_6_1_3_7_5_10_at_3 (x0 : BitVec 6) (x1 : BitVec 1) (x2 : BitVec 3) (x3 : BitVec 7) (x4 : BitVec 5) (x5 : BitVec 10) :
    fld (x0 ++ x1 ++ x2 ++ x3 ++ x4 ++ x5) 15 7 = x3 := by
  show (x0 ++ x1 ++ x2 ++ x3 ++ x4 ++ x5 : BitVec (6+1+3+7+5+10)).extractLsb' 15 7 = x3
  rw [fieldAbove (by decide), fieldAbove (by decide), fieldBelow (by decide)]
  exact BitVec.extractLsb'_eq_self

theorem part_6_1_3_7_5_10_at_4 (x0 : BitVec 6) (x1 : BitVec 1) (x2 : BitVec 3) (x3 : BitVec 7) (x4 : BitVec 5) (x5 : BitVec 10) :
    fld (x0 ++ x1 ++ x2 ++ x3 ++ x4 ++ x5) 10 5 = x4 := by
  show (x0 ++ x1 ++ x2 ++ x3 ++ x4 ++ x5 : BitVec (6+1+3+7+5+10)).extractLsb' 10 5 = x4
  rw [fieldAbove (by decide), fieldBelow (by decide)]
  exact BitVec.extractLsb'_eq_self

theorem part_6_1_7_5_13_at_0 (x0 : BitVec 6) (x1 : BitVec 1) (x2 : BitVec 7) (x3 : BitVec 5) (x4 : BitVec 13) :
    fld (x0 ++ x1 ++ x2 ++ x3 ++ x4) 26 6 = x0 := by
  show (x0 ++ x1 ++ x2 ++ x3 ++ x4 : BitVec (6+1+7+5+13)).extractLsb' 26 6 = x0
  rw [fieldAbove (by decide), fieldAbove (by decide), fieldAbove (by decide), fieldAbove (by decide)]
  exact BitVec.extractLsb'_eq_self

theorem part_6_1_7_5_13_at_1 (x0 : BitVec 6) (x1 : BitVec 1) (x2 : BitVec 7) (x3 : BitVec 5) (x4 : BitVec 13) :
    fld (x0 ++ x1 ++ x2 ++ x3 ++ x4) 25 1 = x1 := by
  show (x0 ++ x1 ++ x2 ++ x3 ++ x4 : BitVec (6+1+7+5+13)).extractLsb' 25 1 = x1
  rw [fieldAbove (by decide), fieldAbove (by decide), fieldAbove (by decide), fieldBelow (by decide)]
  exact BitVec.extractLsb'_eq_self

theorem part_6_1_7_5_13_at_3 (x0 : BitVec 6) (x1 : BitVec 1) (x2 : BitVec 7) (x3 : BitVec 5) (x4 : BitVec 13) :
    fld (x0 ++ x1 ++ x2 ++ x3 ++ x4) 13 5 = x3 := by
  show (x0 ++ x1 ++ x2 ++ x3 ++ x4 : BitVec (6+1+7+5+13)).extractLsb' 13 5 = x3
  rw [fieldAbove (by decide), fieldBelow (by decide)]
  exact BitVec.extractLsb'_eq_self

theorem part_6_1_7_5_13_at_2 (x0 : BitVec 6) (x1 : BitVec 1) (x2 : BitVec 7) (x3 : BitVec 5) (x4 : BitVec 13) :
    fld (x0 ++ x1 ++ x2 ++ x3 ++ x4) 18 7 = x2 := by
  show (x0 ++ x1 ++ x2 ++ x3 ++ x4 : BitVec (6+1+7+5+13)).extractLsb' 18 7 = x2
  rw [fieldAbove (by decide), fieldAbove (by decide), fieldBelow (by decide)]
  exact BitVec.extractLsb'_eq_self

theorem part_6_1_1_5_1_18_at_0 (x0 : BitVec 6) (x1 : BitVec 1) (x2 : BitVec 1) (x3 : BitVec 5) (x4 : BitVec 1) (x5 : BitVec 18) :
    fld (x0 ++ x1 ++ x2 ++ x3 ++ x4 ++ x5) 26 6 = x0 := by
  show (x0 ++ x1 ++ x2 ++ x3 ++ x4 ++ x5 : BitVec (6+1+1+5+1+18)).extractLsb' 26 6 = x0
  rw [fieldAbove (by decide), fieldAbove (by decide), fieldAbove (by decide), fieldAbove (by decide), fieldAbove (by decide)]
  exact BitVec.extractLsb'_eq_self

theorem part_6_1_1_5_1_18_at_1 (x0 : BitVec 6) (x1 : BitVec 1) (x2 : BitVec 1) (x3 : BitVec 5) (x4 : BitVec 1) (x5 : BitVec 18) :
    fld (x0 ++ x1 ++ x2 ++ x3 ++ x4 ++ x5) 25 1 = x1 := by
  show (x0 ++ x1 ++ x2 ++ x3 ++ x4 ++ x5 : BitVec (6+1+1+5+1+18)).extractLsb' 25 1 = x1
  rw [fieldAbove (by decide), fieldAbove (by decide), fieldAbove (by decide), fieldAbove (by decide), fieldBelow (by decide)]
  exact BitVec.extractLsb'_eq_self

theorem part_6_1_1_5_1_18_at_2 (x0 : BitVec 6) (x1 : BitVec 1) (x2 : BitVec 1) (x3 : BitVec 5) (x4 : BitVec 1) (x5 : BitVec 18) :
    fld (x0 ++ x1 ++ x2 ++ x3 ++ x4 ++ x5) 24 1 = x2 := by
  show (x0 ++ x1 ++ x2 ++ x3 ++ x4 ++ x5 : BitVec (6+1+1+5+1+18)).extractLsb' 24 1 = x2
  rw [fieldAbove (by decide), fieldAbove (by decide), fieldAbove (by decide), fieldBelow (by decide)]
  exact BitVec.extractLsb'_eq_self

theorem part_6_1_1_5_1_18_at_5 (x0 : BitVec 6) (x1 : BitVec 1) (x2 : BitVec 1) (x3 : BitVec 5) (x4 : BitVec 1) (x5 : BitVec 18) :
    fld (x0 ++ x1 ++ x2 ++ x3 ++ x4 ++ x5) 0 18 = x5 := by
  show (x0 ++ x1 ++ x2 ++ x3 ++ x4 ++ x5 : BitVec (6+1+1+5+1+18)).extractLsb' 0 18 = x5
  rw [fieldBelow (by decide)]
  exact BitVec.extractLsb'_eq_self

theorem part_6_1_1_5_1_18_at_3 (x0 : BitVec 6) (x1 : BitVec 1) (x2 : BitVec 1) (x3 : BitVec 5) (x4 : BitVec 1) (x5 : BitVec 18) :
    fld (x0 ++ x1 ++ x2 ++ x3 ++ x4 ++ x5) 19 5 = x3 := by
  show (x0 ++ x1 ++ x2 ++ x3 ++ x4 ++ x5 : BitVec (6+1+1+5+1+18)).extractLsb' 19 5 = x3
  rw [fieldAbove (by decide), fieldAbove (by decide), fieldBelow (by decide)]
  exact BitVec.extractLsb'_eq_self

theorem part_6_4_5_5_12_at_0 (x0 : BitVec 6) (x1 : BitVec 4) (x2 : BitVec 5) (x3 : BitVec 5) (x4 : BitVec 12) :
    fld (x0 ++ x1 ++ x2 ++ x3 ++ x4) 26 6 = x0 := by
  show (x0 ++ x1 ++ x2 ++ x3 ++ x4 : BitVec (6+4+5+5+12)).extractLsb' 26 6 = x0
  rw [fieldAbove (by decide), fieldAbove (by decide), fieldAbove (by decide), fieldAbove (by decide)]
  exact BitVec.extractLsb'_eq_self

theorem part_6_4_5_5_12_at_1 (x0 : BitVec 6) (x1 : BitVec 4) (x2 : BitVec 5) (x3 : BitVec 5) (x4 : BitVec 12) :
    fld (x0 ++ x1 ++ x2 ++ x3 ++ x4) 22 4 = x1 := by
  show (x0 ++ x1 ++ x2 ++ x3 ++ x4 : BitVec (6+4+5+5+12)).extractLsb' 22 4 = x1
  rw [fieldAbove (by decide), fieldAbove (by decide), fieldAbove (by decide), fieldBelow (by decide)]
  exact BitVec.extractLsb'_eq_self

theorem part_6_4_5_5_12_at_4 (x0 : BitVec 6) (x1 : BitVec 4) (x2 : BitVec 5) (x3 : BitVec 5) (x4 : BitVec 12) :
    fld (x0 ++ x1 ++ x2 ++ x3 ++ x4) 0 12 = x4 := by
  show (x0 ++ x1 ++ x2 ++ x3 ++ x4 : BitVec (6+4+5+5+12)).extractLsb' 0 12 = x4
  rw [fieldBelow (by decide)]
  exact BitVec.extractLsb'_eq_self

theorem part_6_4_5_5_12_at_2 (x0 : BitVec 6) (x1 : BitVec 4) (x2 : BitVec 5) (x3 : BitVec 5) (x4 : BitVec 12) :
    fld (x0 ++ x1 ++ x2 ++ x3 ++ x4) 17 5 = x2 := by
  show (x0 ++ x1 ++ x2 ++ x3 ++ x4 : BitVec (6+4+5+5+12)).extractLsb' 17 5 = x2
  rw [fieldAbove (by decide), fieldAbove (by decide), fieldBelow (by decide)]
  exact BitVec.extractLsb'_eq_self

theorem part_6_4_5_5_12_at_3 (x0 : BitVec 6) (x1 : BitVec 4) (x2 : BitVec 5) (x3 : BitVec 5) (x4 : BitVec 12) :
    fld (x0 ++ x1 ++ x2 ++ x3 ++ x4) 12 5 = x3 := by
  show (x0 ++ x1 ++ x2 ++ x3 ++ x4 : BitVec (6+4+5+5+12)).extractLsb' 12 5 = x3
  rw [fieldAbove (by decide), fieldBelow (by decide)]
  exact BitVec.extractLsb'_eq_self

theorem part_6_3_2_7_7_7_at_0 (x0 : BitVec 6) (x1 : BitVec 3) (x2 : BitVec 2) (x3 : BitVec 7) (x4 : BitVec 7) (x5 : BitVec 7) :
    fld (x0 ++ x1 ++ x2 ++ x3 ++ x4 ++ x5) 26 6 = x0 := by
  show (x0 ++ x1 ++ x2 ++ x3 ++ x4 ++ x5 : BitVec (6+3+2+7+7+7)).extractLsb' 26 6 = x0
  rw [fieldAbove (by decide), fieldAbove (by decide), fieldAbove (by decide), fieldAbove (by decide), fieldAbove (by decide)]
  exact BitVec.extractLsb'_eq_self

theorem part_6_3_2_7_7_7_at_1 (x0 : BitVec 6) (x1 : BitVec 3) (x2 : BitVec 2) (x3 : BitVec 7) (x4 : BitVec 7) (x5 : BitVec 7) :
    fld (x0 ++ x1 ++ x2 ++ x3 ++ x4 ++ x5) 23 3 = x1 := by
  show (x0 ++ x1 ++ x2 ++ x3 ++ x4 ++ x5 : BitVec (6+3+2+7+7+7)).extractLsb' 23 3 = x1
  rw [fieldAbove (by decide), fieldAbove (by decide), fieldAbove (by decide), fieldAbove (by decide), fieldBelow (by decide)]
  exact BitVec.extractLsb'_eq_self

theorem part_6_3_2_7_7_7_at_2 (x0 : BitVec 6) (x1 : BitVec 3) (x2 : BitVec 2) (x3 : BitVec 7) (x4 : BitVec 7) (x5 : BitVec 7) :
    fld (x0 ++ x1 ++ x2 ++ x3 ++ x4 ++ x5) 21 2 = x2 := by
  show (x0 ++ x1 ++ x2 ++ x3 ++ x4 ++ x5 : BitVec (6+3+2+7+7+7)).extractLsb' 21 2 = x2
  rw [fieldAbove (by decide), fieldAbove (by decide), fieldAbove (by decide), fieldBelow (by decide)]
  exact BitVec.extractLsb'_eq_self

theorem part_6_3_2_7_7_7_at_3 (x0 : BitVec 6) (x1 : BitVec 3) (x2 : BitVec 2) (x3 : BitVec 7) (x4 : BitVec 7) (x5 : BitVec 7) :
    fld (x0 ++ x1 ++ x2 ++ x3 ++ x4 ++ x5) 14 7 = x3 := by
  show (x0 ++ x1 ++ x2 ++ x3 ++ x4 ++ x5 : BitVec (6+3+2+7+7+7)).extractLsb' 14 7 = x3
  rw [fieldAbove (by decide), fieldAbove (by decide), fieldBelow (by decide)]
  exact BitVec.extractLsb'_eq_self

theorem part_6_3_2_7_7_7_at_4 (x0 : BitVec 6) (x1 : BitVec 3) (x2 : BitVec 2) (x3 : BitVec 7) (x4 : BitVec 7) (x5 : BitVec 7) :
    fld (x0 ++ x1 ++ x2 ++ x3 ++ x4 ++ x5) 7 7 = x4 := by
  show (x0 ++ x1 ++ x2 ++ x3 ++ x4 ++ x5 : BitVec (6+3+2+7+7+7)).extractLsb' 7 7 = x4
  rw [fieldAbove (by decide), fieldBelow (by decide)]
  exact BitVec.extractLsb'_eq_self

theorem part_6_3_2_7_7_7_at_5 (x0 : BitVec 6) (x1 : BitVec 3) (x2 : BitVec 2) (x3 : BitVec 7) (x4 : BitVec 7) (x5 : BitVec 7) :
    fld (x0 ++ x1 ++ x2 ++ x3 ++ x4 ++ x5) 0 7 = x5 := by
  show (x0 ++ x1 ++ x2 ++ x3 ++ x4 ++ x5 : BitVec (6+3+2+7+7+7)).extractLsb' 0 7 = x5
  rw [fieldBelow (by decide)]
  exact BitVec.extractLsb'_eq_self

theorem part_6_3_2_7_7_5_2_at_0 (x0 : BitVec 6) (x1 : BitVec 3) (x2 : BitVec 2) (x3 : BitVec 7) (x4 : BitVec 7) (x5 : BitVec 5) (x6 : BitVec 2) :
    fld (x0 ++ x1 ++ x2 ++ x3 ++ x4 ++ x5 ++ x6) 26 6 = x0 := by
  show (x0 ++ x1 ++ x2 ++ x3 ++ x4 ++ x5 ++ x6 : BitVec (6+3+2+7+7+5+2)).extractLsb' 26 6 = x0
  rw [fieldAbove (by decide), fieldAbove (by decide), fieldAbove (by decide), fieldAbove (by decide), fieldAbove (by decide), fieldAbove (by decide)]
  exact BitVec.extractLsb'_eq_self

theorem part_6_3_2_7_7_5_2_at_1 (x0 : BitVec 6) (x1 : BitVec 3) (x2 : BitVec 2) (x3 : BitVec 7) (x4 : BitVec 7) (x5 : BitVec 5) (x6 : BitVec 2) :
    fld (x0 ++ x1 ++ x2 ++ x3 ++ x4 ++ x5 ++ x6) 23 3 = x1 := by
  show (x0 ++ x1 ++ x2 ++ x3 ++ x4 ++ x5 ++ x6 : BitVec (6+3+2+7+7+5+2)).extractLsb' 23 3 = x1
  rw [fieldAbove (by decide), fieldAbove (by decide), fieldAbove (by decide), fieldAbove (by decide), fieldAbove (by decide), fieldBelow (by decide)]
  exact BitVec.extractLsb'_eq_self

theorem part_6_3_2_7_7_5_2_at_2 (x0 : BitVec 6) (x1 : BitVec 3) (x2 : BitVec 2) (x3 : BitVec 7) (x4 : BitVec 7) (x5 : BitVec 5) (x6 : BitVec 2) :
    fld (x0 ++ x1 ++ x2 ++ x3 ++ x4 ++ x5 ++ x6) 21 2 = x2 := by
  show (x0 ++ x1 ++ x2 ++ x3 ++ x4 ++ x5 ++ x6 : BitVec (6+3+2+7+7+5+2)).extractLsb' 21 2 = x2
  rw [fieldAbove (by decide), fieldAbove (by decide), fieldAbove (by decide), fieldAbove (by decide), fieldBelow (by decide)]
  exact BitVec.extractLsb'_eq_self

theorem part_6_3_2_7_7_5_2_at_3 (x0 : BitVec 6) (x1 : BitVec 3) (x2 : BitVec 2) (x3 : BitVec 7) (x4 : BitVec 7) (x5 : BitVec 5) (x6 : BitVec 2) :
    fld (x0 ++ x1 ++ x2 ++ x3 ++ x4 ++ x5 ++ x6) 14 7 = x3 := by
  show (x0 ++ x1 ++ x2 ++ x3 ++ x4 ++ x5 ++ x6 : BitVec (6+3+2+7+7+5+2)).extractLsb' 14 7 = x3
  rw [fieldAbove (by decide), fieldAbove (by decide), fieldAbove (by decide), fieldBelow (by decide)]
  exact BitVec.extractLsb'_eq_self

theorem part_6_3_2_7_7_5_2_at_4 (x0 : BitVec 6) (x1 : BitVec 3) (x2 : BitVec 2) (x3 : BitVec 7) (x4 : BitVec 7) (x5 : BitVec 5) (x6 : BitVec 2) :
    fld (x0 ++ x1 ++ x2 ++ x3 ++ x4 ++ x5 ++ x6) 7 7 = x4 := by
  show (x0 ++ x1 ++ x2 ++ x3 ++ x4 ++ x5 ++ x6 : BitVec (6+3+2+7+7+5+2)).extractLsb' 7 7 = x4
  rw [fieldAbove (by decide), fieldAbove (by decide), fieldBelow (by decide)]
  exact BitVec.extractLsb'_eq_self

theorem part_6_3_2_7_7_5_2_at_5 (x0 : BitVec 6) (x1 : BitVec 3) (x2 : BitVec 2) (x3 : BitVec 7) (x4 : BitVec 7) (x5 : BitVec 5) (x6 : BitVec 2) :
    fld (x0 ++ x1 ++ x2 ++ x3 ++ x4 ++ x5 ++ x6) 2 5 = x5 := by
  show (x0 ++ x1 ++ x2 ++ x3 ++ x4 ++ x5 ++ x6 : BitVec (6+3+2+7+7+5+2)).extractLsb' 2 5 = x5
  rw [fieldAbove (by decide), fieldBelow (by decide)]
  exact BitVec.extractLsb'_eq_self

theorem part_6_3_2_7_7_5_2_at_6 (x0 : BitVec 6) (x1 : BitVec 3) (x2 : BitVec 2) (x3 : BitVec 7) (x4 : BitVec 7) (x5 : BitVec 5) (x6 : BitVec 2) :
    fld (x0 ++ x1 ++ x2 ++ x3 ++ x4 ++ x5 ++ x6) 0 2 = x6 := by
  show (x0 ++ x1 ++ x2 ++ x3 ++ x4 ++ x5 ++ x6 : BitVec (6+3+2+7+7+5+2)).extractLsb' 0 2 = x6
  rw [fieldBelow (by decide)]
  exact BitVec.extractLsb'_eq_self

end Sys2Proof.Laws
end

