-- ==== Sys2Proof/Laws/PerInstr.lean ====
section
/-! SUPPORT. The family Encoding: for every instruction that has a word and may issue in a stream, the fields of its word name
it (03 R59-R66). A step has no word, so nothing is claimed of it. -/

namespace Sys2Proof.Laws.Encoding

open Sys2Proof.Machine

/-- The fields of an instruction's own word name the instruction. -/
def Statement (i : Instr) : Prop :=
  ∀ st, i.issuesIn st = true → i.fieldsOk = true → candidate st (encode i) = some i

theorem nop : Statement .nop := by
  intro st _ _
  cases st <;> decide

theorem rotclr : Statement .rotclr := by
  intro st _ _
  have f26 : fld (encode .rotclr) 26 6 = 0#6 := part_6_5_21_at_0 _ _ _
  have f21 : fld (encode .rotclr) 21 5 = 1#5 := part_6_5_21_at_1 _ _ _
  simp only [candidate, majorOf, candCommon, f26, f21]
  rfl

theorem bqpush (p : BitVec 7) : Statement (.bqpush p) := by
  intro st _ _
  have f26 : fld (encode (.bqpush p)) 26 6 = 0#6 := part_6_5_7_14_at_0 _ _ _ _
  have f21 : fld (encode (.bqpush p)) 21 5 = 2#5 := part_6_5_7_14_at_1 _ _ _ _
  have f14 : fld (encode (.bqpush p)) 14 7 = p := part_6_5_7_14_at_2 _ _ _ _
  simp only [candidate, majorOf, candCommon, f26, f21, f14]
  rfl

theorem fqpop (d : BitVec 5) : Statement (.fqpop d) := by
  intro st _ _
  have f26 : fld (encode (.fqpop d)) 26 6 = 0#6 := part_6_5_7_5_9_at_0 _ _ _ _ _
  have f21 : fld (encode (.fqpop d)) 21 5 = 3#5 := part_6_5_7_5_9_at_1 _ _ _ _ _
  have f9 : fld (encode (.fqpop d)) 9 5 = d := part_6_5_7_5_9_at_3 _ _ _ _ _
  simp only [candidate, majorOf, candCommon, f26, f21, f9]
  rfl

theorem ifp (p : BitVec 7) (n : BitVec 1) : Statement (.ifp p n) := by
  intro st _ _
  have f26 : fld (encode (.ifp p n)) 26 6 = 1#6 := part_6_7_1_18_at_0 _ _ _ _
  have f19 : fld (encode (.ifp p n)) 19 7 = p := part_6_7_1_18_at_1 _ _ _ _
  have f18 : fld (encode (.ifp p n)) 18 1 = n := part_6_7_1_18_at_2 _ _ _ _
  simp only [candidate, majorOf, candCommon, f26, f19, f18]
  rfl

theorem rep (c : BitVec 8) (d : BitVec 4) (a : BitVec 4) (b : BitVec 4) : Statement (.rep c d a b) := by
  intro st _ _
  have f26 : fld (encode (.rep c d a b)) 26 6 = 2#6 := part_6_8_4_4_4_6_at_0 _ _ _ _ _ _
  have f18 : fld (encode (.rep c d a b)) 18 8 = c := part_6_8_4_4_4_6_at_1 _ _ _ _ _ _
  have f14 : fld (encode (.rep c d a b)) 14 4 = d := part_6_8_4_4_4_6_at_2 _ _ _ _ _ _
  have f10 : fld (encode (.rep c d a b)) 10 4 = a := part_6_8_4_4_4_6_at_3 _ _ _ _ _ _
  have f6 : fld (encode (.rep c d a b)) 6 4 = b := part_6_8_4_4_4_6_at_4 _ _ _ _ _ _
  simp only [candidate, majorOf, candCommon, f26, f18, f14, f10, f6]
  rfl

theorem add (d : BitVec 5) (a : BitVec 5) (b : BitVec 5) : Statement (.add d a b) := by
  intro st _ _
  have f26 : fld (encode (.add d a b)) 26 6 = 4#6 := part_6_5_5_5_11_at_0 _ _ _ _ _
  have f0 : fld (encode (.add d a b)) 0 11 = 0#11 := part_6_5_5_5_11_at_4 _ _ _ _ _
  have f21 : fld (encode (.add d a b)) 21 5 = d := part_6_5_5_5_11_at_1 _ _ _ _ _
  have f16 : fld (encode (.add d a b)) 16 5 = a := part_6_5_5_5_11_at_2 _ _ _ _ _
  have f11 : fld (encode (.add d a b)) 11 5 = b := part_6_5_5_5_11_at_3 _ _ _ _ _
  simp only [candidate, majorOf, candCommon, candAlu, f26, f0, f21, f16, f11]
  rfl

theorem sub (d : BitVec 5) (a : BitVec 5) (b : BitVec 5) : Statement (.sub d a b) := by
  intro st _ _
  have f26 : fld (encode (.sub d a b)) 26 6 = 4#6 := part_6_5_5_5_11_at_0 _ _ _ _ _
  have f0 : fld (encode (.sub d a b)) 0 11 = 1#11 := part_6_5_5_5_11_at_4 _ _ _ _ _
  have f21 : fld (encode (.sub d a b)) 21 5 = d := part_6_5_5_5_11_at_1 _ _ _ _ _
  have f16 : fld (encode (.sub d a b)) 16 5 = a := part_6_5_5_5_11_at_2 _ _ _ _ _
  have f11 : fld (encode (.sub d a b)) 11 5 = b := part_6_5_5_5_11_at_3 _ _ _ _ _
  simp only [candidate, majorOf, candCommon, candAlu, f26, f0, f21, f16, f11]
  rfl

theorem mul (d : BitVec 5) (a : BitVec 5) (b : BitVec 5) : Statement (.mul d a b) := by
  intro st _ _
  have f26 : fld (encode (.mul d a b)) 26 6 = 4#6 := part_6_5_5_5_11_at_0 _ _ _ _ _
  have f0 : fld (encode (.mul d a b)) 0 11 = 2#11 := part_6_5_5_5_11_at_4 _ _ _ _ _
  have f21 : fld (encode (.mul d a b)) 21 5 = d := part_6_5_5_5_11_at_1 _ _ _ _ _
  have f16 : fld (encode (.mul d a b)) 16 5 = a := part_6_5_5_5_11_at_2 _ _ _ _ _
  have f11 : fld (encode (.mul d a b)) 11 5 = b := part_6_5_5_5_11_at_3 _ _ _ _ _
  simp only [candidate, majorOf, candCommon, candAlu, f26, f0, f21, f16, f11]
  rfl

theorem mulh (d : BitVec 5) (a : BitVec 5) (b : BitVec 5) : Statement (.mulh d a b) := by
  intro st _ _
  have f26 : fld (encode (.mulh d a b)) 26 6 = 4#6 := part_6_5_5_5_11_at_0 _ _ _ _ _
  have f0 : fld (encode (.mulh d a b)) 0 11 = 3#11 := part_6_5_5_5_11_at_4 _ _ _ _ _
  have f21 : fld (encode (.mulh d a b)) 21 5 = d := part_6_5_5_5_11_at_1 _ _ _ _ _
  have f16 : fld (encode (.mulh d a b)) 16 5 = a := part_6_5_5_5_11_at_2 _ _ _ _ _
  have f11 : fld (encode (.mulh d a b)) 11 5 = b := part_6_5_5_5_11_at_3 _ _ _ _ _
  simp only [candidate, majorOf, candCommon, candAlu, f26, f0, f21, f16, f11]
  rfl

theorem mulhu (d : BitVec 5) (a : BitVec 5) (b : BitVec 5) : Statement (.mulhu d a b) := by
  intro st _ _
  have f26 : fld (encode (.mulhu d a b)) 26 6 = 4#6 := part_6_5_5_5_11_at_0 _ _ _ _ _
  have f0 : fld (encode (.mulhu d a b)) 0 11 = 4#11 := part_6_5_5_5_11_at_4 _ _ _ _ _
  have f21 : fld (encode (.mulhu d a b)) 21 5 = d := part_6_5_5_5_11_at_1 _ _ _ _ _
  have f16 : fld (encode (.mulhu d a b)) 16 5 = a := part_6_5_5_5_11_at_2 _ _ _ _ _
  have f11 : fld (encode (.mulhu d a b)) 11 5 = b := part_6_5_5_5_11_at_3 _ _ _ _ _
  simp only [candidate, majorOf, candCommon, candAlu, f26, f0, f21, f16, f11]
  rfl

theorem div (d : BitVec 5) (a : BitVec 5) (b : BitVec 5) : Statement (.div d a b) := by
  intro st _ _
  have f26 : fld (encode (.div d a b)) 26 6 = 4#6 := part_6_5_5_5_11_at_0 _ _ _ _ _
  have f0 : fld (encode (.div d a b)) 0 11 = 5#11 := part_6_5_5_5_11_at_4 _ _ _ _ _
  have f21 : fld (encode (.div d a b)) 21 5 = d := part_6_5_5_5_11_at_1 _ _ _ _ _
  have f16 : fld (encode (.div d a b)) 16 5 = a := part_6_5_5_5_11_at_2 _ _ _ _ _
  have f11 : fld (encode (.div d a b)) 11 5 = b := part_6_5_5_5_11_at_3 _ _ _ _ _
  simp only [candidate, majorOf, candCommon, candAlu, f26, f0, f21, f16, f11]
  rfl

theorem divu (d : BitVec 5) (a : BitVec 5) (b : BitVec 5) : Statement (.divu d a b) := by
  intro st _ _
  have f26 : fld (encode (.divu d a b)) 26 6 = 4#6 := part_6_5_5_5_11_at_0 _ _ _ _ _
  have f0 : fld (encode (.divu d a b)) 0 11 = 6#11 := part_6_5_5_5_11_at_4 _ _ _ _ _
  have f21 : fld (encode (.divu d a b)) 21 5 = d := part_6_5_5_5_11_at_1 _ _ _ _ _
  have f16 : fld (encode (.divu d a b)) 16 5 = a := part_6_5_5_5_11_at_2 _ _ _ _ _
  have f11 : fld (encode (.divu d a b)) 11 5 = b := part_6_5_5_5_11_at_3 _ _ _ _ _
  simp only [candidate, majorOf, candCommon, candAlu, f26, f0, f21, f16, f11]
  rfl

theorem rem (d : BitVec 5) (a : BitVec 5) (b : BitVec 5) : Statement (.rem d a b) := by
  intro st _ _
  have f26 : fld (encode (.rem d a b)) 26 6 = 4#6 := part_6_5_5_5_11_at_0 _ _ _ _ _
  have f0 : fld (encode (.rem d a b)) 0 11 = 7#11 := part_6_5_5_5_11_at_4 _ _ _ _ _
  have f21 : fld (encode (.rem d a b)) 21 5 = d := part_6_5_5_5_11_at_1 _ _ _ _ _
  have f16 : fld (encode (.rem d a b)) 16 5 = a := part_6_5_5_5_11_at_2 _ _ _ _ _
  have f11 : fld (encode (.rem d a b)) 11 5 = b := part_6_5_5_5_11_at_3 _ _ _ _ _
  simp only [candidate, majorOf, candCommon, candAlu, f26, f0, f21, f16, f11]
  rfl

theorem remu (d : BitVec 5) (a : BitVec 5) (b : BitVec 5) : Statement (.remu d a b) := by
  intro st _ _
  have f26 : fld (encode (.remu d a b)) 26 6 = 4#6 := part_6_5_5_5_11_at_0 _ _ _ _ _
  have f0 : fld (encode (.remu d a b)) 0 11 = 8#11 := part_6_5_5_5_11_at_4 _ _ _ _ _
  have f21 : fld (encode (.remu d a b)) 21 5 = d := part_6_5_5_5_11_at_1 _ _ _ _ _
  have f16 : fld (encode (.remu d a b)) 16 5 = a := part_6_5_5_5_11_at_2 _ _ _ _ _
  have f11 : fld (encode (.remu d a b)) 11 5 = b := part_6_5_5_5_11_at_3 _ _ _ _ _
  simp only [candidate, majorOf, candCommon, candAlu, f26, f0, f21, f16, f11]
  rfl

theorem and (d : BitVec 5) (a : BitVec 5) (b : BitVec 5) : Statement (.and d a b) := by
  intro st _ _
  have f26 : fld (encode (.and d a b)) 26 6 = 4#6 := part_6_5_5_5_11_at_0 _ _ _ _ _
  have f0 : fld (encode (.and d a b)) 0 11 = 9#11 := part_6_5_5_5_11_at_4 _ _ _ _ _
  have f21 : fld (encode (.and d a b)) 21 5 = d := part_6_5_5_5_11_at_1 _ _ _ _ _
  have f16 : fld (encode (.and d a b)) 16 5 = a := part_6_5_5_5_11_at_2 _ _ _ _ _
  have f11 : fld (encode (.and d a b)) 11 5 = b := part_6_5_5_5_11_at_3 _ _ _ _ _
  simp only [candidate, majorOf, candCommon, candAlu, f26, f0, f21, f16, f11]
  rfl

theorem or (d : BitVec 5) (a : BitVec 5) (b : BitVec 5) : Statement (.or d a b) := by
  intro st _ _
  have f26 : fld (encode (.or d a b)) 26 6 = 4#6 := part_6_5_5_5_11_at_0 _ _ _ _ _
  have f0 : fld (encode (.or d a b)) 0 11 = 10#11 := part_6_5_5_5_11_at_4 _ _ _ _ _
  have f21 : fld (encode (.or d a b)) 21 5 = d := part_6_5_5_5_11_at_1 _ _ _ _ _
  have f16 : fld (encode (.or d a b)) 16 5 = a := part_6_5_5_5_11_at_2 _ _ _ _ _
  have f11 : fld (encode (.or d a b)) 11 5 = b := part_6_5_5_5_11_at_3 _ _ _ _ _
  simp only [candidate, majorOf, candCommon, candAlu, f26, f0, f21, f16, f11]
  rfl

theorem xor (d : BitVec 5) (a : BitVec 5) (b : BitVec 5) : Statement (.xor d a b) := by
  intro st _ _
  have f26 : fld (encode (.xor d a b)) 26 6 = 4#6 := part_6_5_5_5_11_at_0 _ _ _ _ _
  have f0 : fld (encode (.xor d a b)) 0 11 = 11#11 := part_6_5_5_5_11_at_4 _ _ _ _ _
  have f21 : fld (encode (.xor d a b)) 21 5 = d := part_6_5_5_5_11_at_1 _ _ _ _ _
  have f16 : fld (encode (.xor d a b)) 16 5 = a := part_6_5_5_5_11_at_2 _ _ _ _ _
  have f11 : fld (encode (.xor d a b)) 11 5 = b := part_6_5_5_5_11_at_3 _ _ _ _ _
  simp only [candidate, majorOf, candCommon, candAlu, f26, f0, f21, f16, f11]
  rfl

theorem andn (d : BitVec 5) (a : BitVec 5) (b : BitVec 5) : Statement (.andn d a b) := by
  intro st _ _
  have f26 : fld (encode (.andn d a b)) 26 6 = 4#6 := part_6_5_5_5_11_at_0 _ _ _ _ _
  have f0 : fld (encode (.andn d a b)) 0 11 = 12#11 := part_6_5_5_5_11_at_4 _ _ _ _ _
  have f21 : fld (encode (.andn d a b)) 21 5 = d := part_6_5_5_5_11_at_1 _ _ _ _ _
  have f16 : fld (encode (.andn d a b)) 16 5 = a := part_6_5_5_5_11_at_2 _ _ _ _ _
  have f11 : fld (encode (.andn d a b)) 11 5 = b := part_6_5_5_5_11_at_3 _ _ _ _ _
  simp only [candidate, majorOf, candCommon, candAlu, f26, f0, f21, f16, f11]
  rfl

theorem orn (d : BitVec 5) (a : BitVec 5) (b : BitVec 5) : Statement (.orn d a b) := by
  intro st _ _
  have f26 : fld (encode (.orn d a b)) 26 6 = 4#6 := part_6_5_5_5_11_at_0 _ _ _ _ _
  have f0 : fld (encode (.orn d a b)) 0 11 = 13#11 := part_6_5_5_5_11_at_4 _ _ _ _ _
  have f21 : fld (encode (.orn d a b)) 21 5 = d := part_6_5_5_5_11_at_1 _ _ _ _ _
  have f16 : fld (encode (.orn d a b)) 16 5 = a := part_6_5_5_5_11_at_2 _ _ _ _ _
  have f11 : fld (encode (.orn d a b)) 11 5 = b := part_6_5_5_5_11_at_3 _ _ _ _ _
  simp only [candidate, majorOf, candCommon, candAlu, f26, f0, f21, f16, f11]
  rfl

theorem shl (d : BitVec 5) (a : BitVec 5) (b : BitVec 5) : Statement (.shl d a b) := by
  intro st _ _
  have f26 : fld (encode (.shl d a b)) 26 6 = 4#6 := part_6_5_5_5_11_at_0 _ _ _ _ _
  have f0 : fld (encode (.shl d a b)) 0 11 = 14#11 := part_6_5_5_5_11_at_4 _ _ _ _ _
  have f21 : fld (encode (.shl d a b)) 21 5 = d := part_6_5_5_5_11_at_1 _ _ _ _ _
  have f16 : fld (encode (.shl d a b)) 16 5 = a := part_6_5_5_5_11_at_2 _ _ _ _ _
  have f11 : fld (encode (.shl d a b)) 11 5 = b := part_6_5_5_5_11_at_3 _ _ _ _ _
  simp only [candidate, majorOf, candCommon, candAlu, f26, f0, f21, f16, f11]
  rfl

theorem shr (d : BitVec 5) (a : BitVec 5) (b : BitVec 5) : Statement (.shr d a b) := by
  intro st _ _
  have f26 : fld (encode (.shr d a b)) 26 6 = 4#6 := part_6_5_5_5_11_at_0 _ _ _ _ _
  have f0 : fld (encode (.shr d a b)) 0 11 = 15#11 := part_6_5_5_5_11_at_4 _ _ _ _ _
  have f21 : fld (encode (.shr d a b)) 21 5 = d := part_6_5_5_5_11_at_1 _ _ _ _ _
  have f16 : fld (encode (.shr d a b)) 16 5 = a := part_6_5_5_5_11_at_2 _ _ _ _ _
  have f11 : fld (encode (.shr d a b)) 11 5 = b := part_6_5_5_5_11_at_3 _ _ _ _ _
  simp only [candidate, majorOf, candCommon, candAlu, f26, f0, f21, f16, f11]
  rfl

theorem sar (d : BitVec 5) (a : BitVec 5) (b : BitVec 5) : Statement (.sar d a b) := by
  intro st _ _
  have f26 : fld (encode (.sar d a b)) 26 6 = 4#6 := part_6_5_5_5_11_at_0 _ _ _ _ _
  have f0 : fld (encode (.sar d a b)) 0 11 = 16#11 := part_6_5_5_5_11_at_4 _ _ _ _ _
  have f21 : fld (encode (.sar d a b)) 21 5 = d := part_6_5_5_5_11_at_1 _ _ _ _ _
  have f16 : fld (encode (.sar d a b)) 16 5 = a := part_6_5_5_5_11_at_2 _ _ _ _ _
  have f11 : fld (encode (.sar d a b)) 11 5 = b := part_6_5_5_5_11_at_3 _ _ _ _ _
  simp only [candidate, majorOf, candCommon, candAlu, f26, f0, f21, f16, f11]
  rfl

theorem min (d : BitVec 5) (a : BitVec 5) (b : BitVec 5) : Statement (.min d a b) := by
  intro st _ _
  have f26 : fld (encode (.min d a b)) 26 6 = 4#6 := part_6_5_5_5_11_at_0 _ _ _ _ _
  have f0 : fld (encode (.min d a b)) 0 11 = 17#11 := part_6_5_5_5_11_at_4 _ _ _ _ _
  have f21 : fld (encode (.min d a b)) 21 5 = d := part_6_5_5_5_11_at_1 _ _ _ _ _
  have f16 : fld (encode (.min d a b)) 16 5 = a := part_6_5_5_5_11_at_2 _ _ _ _ _
  have f11 : fld (encode (.min d a b)) 11 5 = b := part_6_5_5_5_11_at_3 _ _ _ _ _
  simp only [candidate, majorOf, candCommon, candAlu, f26, f0, f21, f16, f11]
  rfl

theorem max (d : BitVec 5) (a : BitVec 5) (b : BitVec 5) : Statement (.max d a b) := by
  intro st _ _
  have f26 : fld (encode (.max d a b)) 26 6 = 4#6 := part_6_5_5_5_11_at_0 _ _ _ _ _
  have f0 : fld (encode (.max d a b)) 0 11 = 18#11 := part_6_5_5_5_11_at_4 _ _ _ _ _
  have f21 : fld (encode (.max d a b)) 21 5 = d := part_6_5_5_5_11_at_1 _ _ _ _ _
  have f16 : fld (encode (.max d a b)) 16 5 = a := part_6_5_5_5_11_at_2 _ _ _ _ _
  have f11 : fld (encode (.max d a b)) 11 5 = b := part_6_5_5_5_11_at_3 _ _ _ _ _
  simp only [candidate, majorOf, candCommon, candAlu, f26, f0, f21, f16, f11]
  rfl

theorem minu (d : BitVec 5) (a : BitVec 5) (b : BitVec 5) : Statement (.minu d a b) := by
  intro st _ _
  have f26 : fld (encode (.minu d a b)) 26 6 = 4#6 := part_6_5_5_5_11_at_0 _ _ _ _ _
  have f0 : fld (encode (.minu d a b)) 0 11 = 19#11 := part_6_5_5_5_11_at_4 _ _ _ _ _
  have f21 : fld (encode (.minu d a b)) 21 5 = d := part_6_5_5_5_11_at_1 _ _ _ _ _
  have f16 : fld (encode (.minu d a b)) 16 5 = a := part_6_5_5_5_11_at_2 _ _ _ _ _
  have f11 : fld (encode (.minu d a b)) 11 5 = b := part_6_5_5_5_11_at_3 _ _ _ _ _
  simp only [candidate, majorOf, candCommon, candAlu, f26, f0, f21, f16, f11]
  rfl

theorem maxu (d : BitVec 5) (a : BitVec 5) (b : BitVec 5) : Statement (.maxu d a b) := by
  intro st _ _
  have f26 : fld (encode (.maxu d a b)) 26 6 = 4#6 := part_6_5_5_5_11_at_0 _ _ _ _ _
  have f0 : fld (encode (.maxu d a b)) 0 11 = 20#11 := part_6_5_5_5_11_at_4 _ _ _ _ _
  have f21 : fld (encode (.maxu d a b)) 21 5 = d := part_6_5_5_5_11_at_1 _ _ _ _ _
  have f16 : fld (encode (.maxu d a b)) 16 5 = a := part_6_5_5_5_11_at_2 _ _ _ _ _
  have f11 : fld (encode (.maxu d a b)) 11 5 = b := part_6_5_5_5_11_at_3 _ _ _ _ _
  simp only [candidate, majorOf, candCommon, candAlu, f26, f0, f21, f16, f11]
  rfl

theorem clz (d : BitVec 5) (a : BitVec 5) : Statement (.clz d a) := by
  intro st _ _
  have f26 : fld (encode (.clz d a)) 26 6 = 4#6 := part_6_5_5_5_11_at_0 _ _ _ _ _
  have f0 : fld (encode (.clz d a)) 0 11 = 21#11 := part_6_5_5_5_11_at_4 _ _ _ _ _
  have f21 : fld (encode (.clz d a)) 21 5 = d := part_6_5_5_5_11_at_1 _ _ _ _ _
  have f16 : fld (encode (.clz d a)) 16 5 = a := part_6_5_5_5_11_at_2 _ _ _ _ _
  simp only [candidate, majorOf, candCommon, candAlu, f26, f0, f21, f16]
  rfl

theorem ctz (d : BitVec 5) (a : BitVec 5) : Statement (.ctz d a) := by
  intro st _ _
  have f26 : fld (encode (.ctz d a)) 26 6 = 4#6 := part_6_5_5_5_11_at_0 _ _ _ _ _
  have f0 : fld (encode (.ctz d a)) 0 11 = 22#11 := part_6_5_5_5_11_at_4 _ _ _ _ _
  have f21 : fld (encode (.ctz d a)) 21 5 = d := part_6_5_5_5_11_at_1 _ _ _ _ _
  have f16 : fld (encode (.ctz d a)) 16 5 = a := part_6_5_5_5_11_at_2 _ _ _ _ _
  simp only [candidate, majorOf, candCommon, candAlu, f26, f0, f21, f16]
  rfl

theorem popc (d : BitVec 5) (a : BitVec 5) : Statement (.popc d a) := by
  intro st _ _
  have f26 : fld (encode (.popc d a)) 26 6 = 4#6 := part_6_5_5_5_11_at_0 _ _ _ _ _
  have f0 : fld (encode (.popc d a)) 0 11 = 23#11 := part_6_5_5_5_11_at_4 _ _ _ _ _
  have f21 : fld (encode (.popc d a)) 21 5 = d := part_6_5_5_5_11_at_1 _ _ _ _ _
  have f16 : fld (encode (.popc d a)) 16 5 = a := part_6_5_5_5_11_at_2 _ _ _ _ _
  simp only [candidate, majorOf, candCommon, candAlu, f26, f0, f21, f16]
  rfl

theorem bswap (d : BitVec 5) (a : BitVec 5) : Statement (.bswap d a) := by
  intro st _ _
  have f26 : fld (encode (.bswap d a)) 26 6 = 4#6 := part_6_5_5_5_11_at_0 _ _ _ _ _
  have f0 : fld (encode (.bswap d a)) 0 11 = 24#11 := part_6_5_5_5_11_at_4 _ _ _ _ _
  have f21 : fld (encode (.bswap d a)) 21 5 = d := part_6_5_5_5_11_at_1 _ _ _ _ _
  have f16 : fld (encode (.bswap d a)) 16 5 = a := part_6_5_5_5_11_at_2 _ _ _ _ _
  simp only [candidate, majorOf, candCommon, candAlu, f26, f0, f21, f16]
  rfl

theorem addi (d : BitVec 5) (a : BitVec 5) (im : BitVec 16) : Statement (.addi d a im) := by
  intro st _ _
  have f26 : fld (encode (.addi d a im)) 26 6 = 5#6 := part_6_5_5_16_at_0 _ _ _ _
  have f21 : fld (encode (.addi d a im)) 21 5 = d := part_6_5_5_16_at_1 _ _ _ _
  have f16 : fld (encode (.addi d a im)) 16 5 = a := part_6_5_5_16_at_2 _ _ _ _
  have f0 : fld (encode (.addi d a im)) 0 16 = im := part_6_5_5_16_at_3 _ _ _ _
  simp only [candidate, majorOf, candCommon, f26, f21, f16, f0]
  rfl

theorem andi (d : BitVec 5) (a : BitVec 5) (im : BitVec 16) : Statement (.andi d a im) := by
  intro st _ _
  have f26 : fld (encode (.andi d a im)) 26 6 = 6#6 := part_6_5_5_16_at_0 _ _ _ _
  have f21 : fld (encode (.andi d a im)) 21 5 = d := part_6_5_5_16_at_1 _ _ _ _
  have f16 : fld (encode (.andi d a im)) 16 5 = a := part_6_5_5_16_at_2 _ _ _ _
  have f0 : fld (encode (.andi d a im)) 0 16 = im := part_6_5_5_16_at_3 _ _ _ _
  simp only [candidate, majorOf, candCommon, f26, f21, f16, f0]
  rfl

theorem ori (d : BitVec 5) (a : BitVec 5) (im : BitVec 16) : Statement (.ori d a im) := by
  intro st _ _
  have f26 : fld (encode (.ori d a im)) 26 6 = 7#6 := part_6_5_5_16_at_0 _ _ _ _
  have f21 : fld (encode (.ori d a im)) 21 5 = d := part_6_5_5_16_at_1 _ _ _ _
  have f16 : fld (encode (.ori d a im)) 16 5 = a := part_6_5_5_16_at_2 _ _ _ _
  have f0 : fld (encode (.ori d a im)) 0 16 = im := part_6_5_5_16_at_3 _ _ _ _
  simp only [candidate, majorOf, candCommon, f26, f21, f16, f0]
  rfl

theorem xori (d : BitVec 5) (a : BitVec 5) (im : BitVec 16) : Statement (.xori d a im) := by
  intro st _ _
  have f26 : fld (encode (.xori d a im)) 26 6 = 8#6 := part_6_5_5_16_at_0 _ _ _ _
  have f21 : fld (encode (.xori d a im)) 21 5 = d := part_6_5_5_16_at_1 _ _ _ _
  have f16 : fld (encode (.xori d a im)) 16 5 = a := part_6_5_5_16_at_2 _ _ _ _
  have f0 : fld (encode (.xori d a im)) 0 16 = im := part_6_5_5_16_at_3 _ _ _ _
  simp only [candidate, majorOf, candCommon, f26, f21, f16, f0]
  rfl

theorem shli (d : BitVec 5) (a : BitVec 5) (sx : BitVec 6) : Statement (.shli d a sx) := by
  intro st _ _
  have f26 : fld (encode (.shli d a sx)) 26 6 = 9#6 := part_6_5_5_16_at_0 _ _ _ _
  have f14 : fld (encode (.shli d a sx)) 14 2 = 0#2 := by
    show (9#6 ++ d ++ a ++ (0#2 ++ 0#8 ++ sx) : BitVec (6+5+5+16)).extractLsb' 14 2 = _
    rw [fieldBelow (by decide), fieldAbove (by decide), fieldAbove (by decide)]
    exact BitVec.extractLsb'_eq_self
  have f21 : fld (encode (.shli d a sx)) 21 5 = d := part_6_5_5_16_at_1 _ _ _ _
  have f16 : fld (encode (.shli d a sx)) 16 5 = a := part_6_5_5_16_at_2 _ _ _ _
  have f0 : fld (encode (.shli d a sx)) 0 6 = sx := by
    show (9#6 ++ d ++ a ++ (0#2 ++ 0#8 ++ sx) : BitVec (6+5+5+16)).extractLsb' 0 6 = _
    rw [fieldBelow (by decide), fieldBelow (by decide)]
    exact BitVec.extractLsb'_eq_self
  simp only [candidate, majorOf, candCommon, f26, f14, f21, f16, f0]
  rfl

theorem shri (d : BitVec 5) (a : BitVec 5) (sx : BitVec 6) : Statement (.shri d a sx) := by
  intro st _ _
  have f26 : fld (encode (.shri d a sx)) 26 6 = 9#6 := part_6_5_5_16_at_0 _ _ _ _
  have f14 : fld (encode (.shri d a sx)) 14 2 = 1#2 := by
    show (9#6 ++ d ++ a ++ (1#2 ++ 0#8 ++ sx) : BitVec (6+5+5+16)).extractLsb' 14 2 = _
    rw [fieldBelow (by decide), fieldAbove (by decide), fieldAbove (by decide)]
    exact BitVec.extractLsb'_eq_self
  have f21 : fld (encode (.shri d a sx)) 21 5 = d := part_6_5_5_16_at_1 _ _ _ _
  have f16 : fld (encode (.shri d a sx)) 16 5 = a := part_6_5_5_16_at_2 _ _ _ _
  have f0 : fld (encode (.shri d a sx)) 0 6 = sx := by
    show (9#6 ++ d ++ a ++ (1#2 ++ 0#8 ++ sx) : BitVec (6+5+5+16)).extractLsb' 0 6 = _
    rw [fieldBelow (by decide), fieldBelow (by decide)]
    exact BitVec.extractLsb'_eq_self
  simp only [candidate, majorOf, candCommon, f26, f14, f21, f16, f0]
  rfl

theorem sari (d : BitVec 5) (a : BitVec 5) (sx : BitVec 6) : Statement (.sari d a sx) := by
  intro st _ _
  have f26 : fld (encode (.sari d a sx)) 26 6 = 9#6 := part_6_5_5_16_at_0 _ _ _ _
  have f14 : fld (encode (.sari d a sx)) 14 2 = 2#2 := by
    show (9#6 ++ d ++ a ++ (2#2 ++ 0#8 ++ sx) : BitVec (6+5+5+16)).extractLsb' 14 2 = _
    rw [fieldBelow (by decide), fieldAbove (by decide), fieldAbove (by decide)]
    exact BitVec.extractLsb'_eq_self
  have f21 : fld (encode (.sari d a sx)) 21 5 = d := part_6_5_5_16_at_1 _ _ _ _
  have f16 : fld (encode (.sari d a sx)) 16 5 = a := part_6_5_5_16_at_2 _ _ _ _
  have f0 : fld (encode (.sari d a sx)) 0 6 = sx := by
    show (9#6 ++ d ++ a ++ (2#2 ++ 0#8 ++ sx) : BitVec (6+5+5+16)).extractLsb' 0 6 = _
    rw [fieldBelow (by decide), fieldBelow (by decide)]
    exact BitVec.extractLsb'_eq_self
  simp only [candidate, majorOf, candCommon, f26, f14, f21, f16, f0]
  rfl

theorem movhi (d : BitVec 5) (im : BitVec 16) : Statement (.movhi d im) := by
  intro st _ _
  have f26 : fld (encode (.movhi d im)) 26 6 = 10#6 := part_6_5_5_16_at_0 _ _ _ _
  have f21 : fld (encode (.movhi d im)) 21 5 = d := part_6_5_5_16_at_1 _ _ _ _
  have f0 : fld (encode (.movhi d im)) 0 16 = im := part_6_5_5_16_at_3 _ _ _ _
  simp only [candidate, majorOf, candCommon, f26, f21, f0]
  rfl

theorem movk (d : BitVec 5) (l : BitVec 2) (im : BitVec 16) : Statement (.movk d l im) := by
  intro st _ _
  have f26 : fld (encode (.movk d l im)) 26 6 = 11#6 := part_6_5_5_16_at_0 _ _ _ _
  have f21 : fld (encode (.movk d l im)) 21 5 = d := part_6_5_5_16_at_1 _ _ _ _
  have f16 : fld (encode (.movk d l im)) 16 2 = l := by
    show (11#6 ++ d ++ (0#3 ++ l) ++ im : BitVec (6+5+5+16)).extractLsb' 16 2 = _
    rw [fieldAbove (by decide), fieldBelow (by decide), fieldBelow (by decide)]
    exact BitVec.extractLsb'_eq_self
  have f0 : fld (encode (.movk d l im)) 0 16 = im := part_6_5_5_16_at_3 _ _ _ _
  simp only [candidate, majorOf, candCommon, f26, f21, f16, f0]
  rfl

theorem cmp (p : BitVec 7) (a : BitVec 5) (b : BitVec 5) (c : BitVec 3) : Statement (.cmp p a b c) := by
  intro st _ _
  have f26 : fld (encode (.cmp p a b c)) 26 6 = 12#6 := part_6_7_5_5_6_3_at_0 _ _ _ _ _ _
  have f19 : fld (encode (.cmp p a b c)) 19 7 = p := part_6_7_5_5_6_3_at_1 _ _ _ _ _ _
  have f14 : fld (encode (.cmp p a b c)) 14 5 = a := part_6_7_5_5_6_3_at_2 _ _ _ _ _ _
  have f9 : fld (encode (.cmp p a b c)) 9 5 = b := part_6_7_5_5_6_3_at_3 _ _ _ _ _ _
  have f0 : fld (encode (.cmp p a b c)) 0 3 = c := part_6_7_5_5_6_3_at_5 _ _ _ _ _ _
  simp only [candidate, majorOf, candCommon, f26, f19, f14, f9, f0]
  rfl

theorem cmpi (p : BitVec 7) (a : BitVec 5) (c : BitVec 3) (im : BitVec 11) : Statement (.cmpi p a c im) := by
  intro st _ _
  have f26 : fld (encode (.cmpi p a c im)) 26 6 = 13#6 := part_6_7_5_3_11_at_0 _ _ _ _ _
  have f19 : fld (encode (.cmpi p a c im)) 19 7 = p := part_6_7_5_3_11_at_1 _ _ _ _ _
  have f14 : fld (encode (.cmpi p a c im)) 14 5 = a := part_6_7_5_3_11_at_2 _ _ _ _ _
  have f11 : fld (encode (.cmpi p a c im)) 11 3 = c := part_6_7_5_3_11_at_3 _ _ _ _ _
  have f0 : fld (encode (.cmpi p a c im)) 0 11 = im := part_6_7_5_3_11_at_4 _ _ _ _ _
  simp only [candidate, majorOf, candCommon, f26, f19, f14, f11, f0]
  rfl

theorem pand (d : BitVec 7) (a : BitVec 7) (b : BitVec 7) : Statement (.pand d a b) := by
  intro st _ _
  have f26 : fld (encode (.pand d a b)) 26 6 = 14#6 := part_6_7_7_7_5_at_0 _ _ _ _ _
  have f0 : fld (encode (.pand d a b)) 0 5 = 0#5 := part_6_7_7_7_5_at_4 _ _ _ _ _
  have f19 : fld (encode (.pand d a b)) 19 7 = d := part_6_7_7_7_5_at_1 _ _ _ _ _
  have f12 : fld (encode (.pand d a b)) 12 7 = a := part_6_7_7_7_5_at_2 _ _ _ _ _
  have f5 : fld (encode (.pand d a b)) 5 7 = b := part_6_7_7_7_5_at_3 _ _ _ _ _
  simp only [candidate, majorOf, candCommon, candPlog, f26, f0, f19, f12, f5]
  rfl

theorem por (d : BitVec 7) (a : BitVec 7) (b : BitVec 7) : Statement (.por d a b) := by
  intro st _ _
  have f26 : fld (encode (.por d a b)) 26 6 = 14#6 := part_6_7_7_7_5_at_0 _ _ _ _ _
  have f0 : fld (encode (.por d a b)) 0 5 = 1#5 := part_6_7_7_7_5_at_4 _ _ _ _ _
  have f19 : fld (encode (.por d a b)) 19 7 = d := part_6_7_7_7_5_at_1 _ _ _ _ _
  have f12 : fld (encode (.por d a b)) 12 7 = a := part_6_7_7_7_5_at_2 _ _ _ _ _
  have f5 : fld (encode (.por d a b)) 5 7 = b := part_6_7_7_7_5_at_3 _ _ _ _ _
  simp only [candidate, majorOf, candCommon, candPlog, f26, f0, f19, f12, f5]
  rfl

theorem pxor (d : BitVec 7) (a : BitVec 7) (b : BitVec 7) : Statement (.pxor d a b) := by
  intro st _ _
  have f26 : fld (encode (.pxor d a b)) 26 6 = 14#6 := part_6_7_7_7_5_at_0 _ _ _ _ _
  have f0 : fld (encode (.pxor d a b)) 0 5 = 2#5 := part_6_7_7_7_5_at_4 _ _ _ _ _
  have f19 : fld (encode (.pxor d a b)) 19 7 = d := part_6_7_7_7_5_at_1 _ _ _ _ _
  have f12 : fld (encode (.pxor d a b)) 12 7 = a := part_6_7_7_7_5_at_2 _ _ _ _ _
  have f5 : fld (encode (.pxor d a b)) 5 7 = b := part_6_7_7_7_5_at_3 _ _ _ _ _
  simp only [candidate, majorOf, candCommon, candPlog, f26, f0, f19, f12, f5]
  rfl

theorem pandn (d : BitVec 7) (a : BitVec 7) (b : BitVec 7) : Statement (.pandn d a b) := by
  intro st _ _
  have f26 : fld (encode (.pandn d a b)) 26 6 = 14#6 := part_6_7_7_7_5_at_0 _ _ _ _ _
  have f0 : fld (encode (.pandn d a b)) 0 5 = 3#5 := part_6_7_7_7_5_at_4 _ _ _ _ _
  have f19 : fld (encode (.pandn d a b)) 19 7 = d := part_6_7_7_7_5_at_1 _ _ _ _ _
  have f12 : fld (encode (.pandn d a b)) 12 7 = a := part_6_7_7_7_5_at_2 _ _ _ _ _
  have f5 : fld (encode (.pandn d a b)) 5 7 = b := part_6_7_7_7_5_at_3 _ _ _ _ _
  simp only [candidate, majorOf, candCommon, candPlog, f26, f0, f19, f12, f5]
  rfl

theorem porn (d : BitVec 7) (a : BitVec 7) (b : BitVec 7) : Statement (.porn d a b) := by
  intro st _ _
  have f26 : fld (encode (.porn d a b)) 26 6 = 14#6 := part_6_7_7_7_5_at_0 _ _ _ _ _
  have f0 : fld (encode (.porn d a b)) 0 5 = 4#5 := part_6_7_7_7_5_at_4 _ _ _ _ _
  have f19 : fld (encode (.porn d a b)) 19 7 = d := part_6_7_7_7_5_at_1 _ _ _ _ _
  have f12 : fld (encode (.porn d a b)) 12 7 = a := part_6_7_7_7_5_at_2 _ _ _ _ _
  have f5 : fld (encode (.porn d a b)) 5 7 = b := part_6_7_7_7_5_at_3 _ _ _ _ _
  simp only [candidate, majorOf, candCommon, candPlog, f26, f0, f19, f12, f5]
  rfl

theorem pnand (d : BitVec 7) (a : BitVec 7) (b : BitVec 7) : Statement (.pnand d a b) := by
  intro st _ _
  have f26 : fld (encode (.pnand d a b)) 26 6 = 14#6 := part_6_7_7_7_5_at_0 _ _ _ _ _
  have f0 : fld (encode (.pnand d a b)) 0 5 = 5#5 := part_6_7_7_7_5_at_4 _ _ _ _ _
  have f19 : fld (encode (.pnand d a b)) 19 7 = d := part_6_7_7_7_5_at_1 _ _ _ _ _
  have f12 : fld (encode (.pnand d a b)) 12 7 = a := part_6_7_7_7_5_at_2 _ _ _ _ _
  have f5 : fld (encode (.pnand d a b)) 5 7 = b := part_6_7_7_7_5_at_3 _ _ _ _ _
  simp only [candidate, majorOf, candCommon, candPlog, f26, f0, f19, f12, f5]
  rfl

theorem pnor (d : BitVec 7) (a : BitVec 7) (b : BitVec 7) : Statement (.pnor d a b) := by
  intro st _ _
  have f26 : fld (encode (.pnor d a b)) 26 6 = 14#6 := part_6_7_7_7_5_at_0 _ _ _ _ _
  have f0 : fld (encode (.pnor d a b)) 0 5 = 6#5 := part_6_7_7_7_5_at_4 _ _ _ _ _
  have f19 : fld (encode (.pnor d a b)) 19 7 = d := part_6_7_7_7_5_at_1 _ _ _ _ _
  have f12 : fld (encode (.pnor d a b)) 12 7 = a := part_6_7_7_7_5_at_2 _ _ _ _ _
  have f5 : fld (encode (.pnor d a b)) 5 7 = b := part_6_7_7_7_5_at_3 _ _ _ _ _
  simp only [candidate, majorOf, candCommon, candPlog, f26, f0, f19, f12, f5]
  rfl

theorem pxnor (d : BitVec 7) (a : BitVec 7) (b : BitVec 7) : Statement (.pxnor d a b) := by
  intro st _ _
  have f26 : fld (encode (.pxnor d a b)) 26 6 = 14#6 := part_6_7_7_7_5_at_0 _ _ _ _ _
  have f0 : fld (encode (.pxnor d a b)) 0 5 = 7#5 := part_6_7_7_7_5_at_4 _ _ _ _ _
  have f19 : fld (encode (.pxnor d a b)) 19 7 = d := part_6_7_7_7_5_at_1 _ _ _ _ _
  have f12 : fld (encode (.pxnor d a b)) 12 7 = a := part_6_7_7_7_5_at_2 _ _ _ _ _
  have f5 : fld (encode (.pxnor d a b)) 5 7 = b := part_6_7_7_7_5_at_3 _ _ _ _ _
  simp only [candidate, majorOf, candCommon, candPlog, f26, f0, f19, f12, f5]
  rfl

theorem pnot (d : BitVec 7) (a : BitVec 7) : Statement (.pnot d a) := by
  intro st _ _
  have f26 : fld (encode (.pnot d a)) 26 6 = 14#6 := part_6_7_7_7_5_at_0 _ _ _ _ _
  have f0 : fld (encode (.pnot d a)) 0 5 = 8#5 := part_6_7_7_7_5_at_4 _ _ _ _ _
  have f19 : fld (encode (.pnot d a)) 19 7 = d := part_6_7_7_7_5_at_1 _ _ _ _ _
  have f12 : fld (encode (.pnot d a)) 12 7 = a := part_6_7_7_7_5_at_2 _ _ _ _ _
  simp only [candidate, majorOf, candCommon, candPlog, f26, f0, f19, f12]
  rfl

theorem pset (d : BitVec 7) : Statement (.pset d) := by
  intro st _ _
  have f26 : fld (encode (.pset d)) 26 6 = 14#6 := part_6_7_7_7_5_at_0 _ _ _ _ _
  have f0 : fld (encode (.pset d)) 0 5 = 9#5 := part_6_7_7_7_5_at_4 _ _ _ _ _
  have f19 : fld (encode (.pset d)) 19 7 = d := part_6_7_7_7_5_at_1 _ _ _ _ _
  simp only [candidate, majorOf, candCommon, candPlog, f26, f0, f19]
  rfl

theorem pclr (d : BitVec 7) : Statement (.pclr d) := by
  intro st _ _
  have f26 : fld (encode (.pclr d)) 26 6 = 14#6 := part_6_7_7_7_5_at_0 _ _ _ _ _
  have f0 : fld (encode (.pclr d)) 0 5 = 10#5 := part_6_7_7_7_5_at_4 _ _ _ _ _
  have f19 : fld (encode (.pclr d)) 19 7 = d := part_6_7_7_7_5_at_1 _ _ _ _ _
  simp only [candidate, majorOf, candCommon, candPlog, f26, f0, f19]
  rfl

theorem selp (d : BitVec 5) (a : BitVec 5) (b : BitVec 5) (p : BitVec 7) : Statement (.selp d a b p) := by
  intro st _ _
  have f26 : fld (encode (.selp d a b p)) 26 6 = 15#6 := part_6_5_5_5_7_4_at_0 _ _ _ _ _ _
  have f21 : fld (encode (.selp d a b p)) 21 5 = d := part_6_5_5_5_7_4_at_1 _ _ _ _ _ _
  have f16 : fld (encode (.selp d a b p)) 16 5 = a := part_6_5_5_5_7_4_at_2 _ _ _ _ _ _
  have f11 : fld (encode (.selp d a b p)) 11 5 = b := part_6_5_5_5_7_4_at_3 _ _ _ _ _ _
  have f4 : fld (encode (.selp d a b p)) 4 7 = p := part_6_5_5_5_7_4_at_4 _ _ _ _ _ _
  simp only [candidate, majorOf, candCommon, f26, f21, f16, f11, f4]
  rfl

theorem br (p : BitVec 7) (n : BitVec 1) (d : BitVec 18) : Statement (.br p n d) := by
  intro st _ _
  have f26 : fld (encode (.br p n d)) 26 6 = 16#6 := part_6_7_1_18_at_0 _ _ _ _
  have f19 : fld (encode (.br p n d)) 19 7 = p := part_6_7_1_18_at_1 _ _ _ _
  have f18 : fld (encode (.br p n d)) 18 1 = n := part_6_7_1_18_at_2 _ _ _ _
  have f0 : fld (encode (.br p n d)) 0 18 = d := part_6_7_1_18_at_3 _ _ _ _
  simp only [candidate, majorOf, candCommon, f26, f19, f18, f0]
  rfl

theorem jmp (d : BitVec 26) : Statement (.jmp d) := by
  intro st _ _
  have f26 : fld (encode (.jmp d)) 26 6 = 17#6 := part_6_26_at_0 _ _
  have f0 : fld (encode (.jmp d)) 0 26 = d := part_6_26_at_1 _ _
  simp only [candidate, majorOf, candCommon, f26, f0]
  rfl

theorem call (d : BitVec 26) : Statement (.call d) := by
  intro st _ _
  have f26 : fld (encode (.call d)) 26 6 = 18#6 := part_6_26_at_0 _ _
  have f0 : fld (encode (.call d)) 0 26 = d := part_6_26_at_1 _ _
  simp only [candidate, majorOf, candCommon, f26, f0]
  rfl

theorem jr (a : BitVec 5) : Statement (.jr a) := by
  intro st _ _
  have f26 : fld (encode (.jr a)) 26 6 = 19#6 := part_6_5_5_5_11_at_0 _ _ _ _ _
  have f0 : fld (encode (.jr a)) 0 11 = 0#11 := part_6_5_5_5_11_at_4 _ _ _ _ _
  have f16 : fld (encode (.jr a)) 16 5 = a := part_6_5_5_5_11_at_2 _ _ _ _ _
  simp only [candidate, majorOf, candCommon, f26, f0, f16]
  rfl

theorem ret : Statement .ret := by
  intro st _ _
  have f26 : fld (encode .ret) 26 6 = 19#6 := part_6_5_5_5_11_at_0 _ _ _ _ _
  have f0 : fld (encode .ret) 0 11 = 1#11 := part_6_5_5_5_11_at_4 _ _ _ _ _
  simp only [candidate, majorOf, candCommon, f26, f0]
  rfl

theorem callr (a : BitVec 5) : Statement (.callr a) := by
  intro st _ _
  have f26 : fld (encode (.callr a)) 26 6 = 19#6 := part_6_5_5_5_11_at_0 _ _ _ _ _
  have f0 : fld (encode (.callr a)) 0 11 = 2#11 := part_6_5_5_5_11_at_4 _ _ _ _ _
  have f16 : fld (encode (.callr a)) 16 5 = a := part_6_5_5_5_11_at_2 _ _ _ _ _
  simp only [candidate, majorOf, candCommon, f26, f0, f16]
  rfl

theorem loopA (c : BitVec 5) (d : BitVec 18) : Statement (.loopA c d) := by
  intro st h _
  have hs : st = .a := by cases st with
    | a => rfl
    | e => simp [Instr.issuesIn, Instr.halvesOk] at h
  subst hs
  have f26 : fld (encode (.loopA c d)) 26 6 = 20#6 := part_6_5_2_1_18_at_0 _ _ _ _ _
  have f19 : fld (encode (.loopA c d)) 19 2 = 0#2 := part_6_5_2_1_18_at_2 _ _ _ _ _
  have f21 : fld (encode (.loopA c d)) 21 5 = c := part_6_5_2_1_18_at_1 _ _ _ _ _
  have f0 : fld (encode (.loopA c d)) 0 18 = d := part_6_5_2_1_18_at_4 _ _ _ _ _
  simp only [candidate, majorOf, candCommon, f26, f19, f21, f0]
  rfl

theorem loopE (c : BitVec 5) (r : BitVec 2) (d : BitVec 18) : Statement (.loopE c r d) := by
  intro st h _
  have hs : st = .e := by cases st with
    | e => rfl
    | a => simp [Instr.issuesIn, Instr.halvesOk] at h
  subst hs
  have f26 : fld (encode (.loopE c r d)) 26 6 = 20#6 := part_6_5_2_1_18_at_0 _ _ _ _ _
  have f19 : fld (encode (.loopE c r d)) 19 2 = r := part_6_5_2_1_18_at_2 _ _ _ _ _
  have f21 : fld (encode (.loopE c r d)) 21 5 = c := part_6_5_2_1_18_at_1 _ _ _ _ _
  have f0 : fld (encode (.loopE c r d)) 0 18 = d := part_6_5_2_1_18_at_4 _ _ _ _ _
  simp only [candidate, majorOf, candCommon, f26, f19, f21, f0]
  rfl

theorem ld (d : BitVec 5) (b : BitVec 5) (z : BitVec 2) (o : BitVec 14) : Statement (.ld d b z o) := by
  intro st _ _
  have f26 : fld (encode (.ld d b z o)) 26 6 = 24#6 := part_6_5_5_2_14_at_0 _ _ _ _ _
  have f21 : fld (encode (.ld d b z o)) 21 5 = d := part_6_5_5_2_14_at_1 _ _ _ _ _
  have f16 : fld (encode (.ld d b z o)) 16 5 = b := part_6_5_5_2_14_at_2 _ _ _ _ _
  have f14 : fld (encode (.ld d b z o)) 14 2 = z := part_6_5_5_2_14_at_3 _ _ _ _ _
  have f0 : fld (encode (.ld d b z o)) 0 14 = o := part_6_5_5_2_14_at_4 _ _ _ _ _
  simp only [candidate, majorOf, candA, f26, f21, f16, f14, f0]
  rfl

theorem lda (d : BitVec 5) (b : BitVec 5) (z : BitVec 2) (sx : BitVec 4) (o : BitVec 10) : Statement (.lda d b z sx o) := by
  intro st _ _
  have f26 : fld (encode (.lda d b z sx o)) 26 6 = 25#6 := part_6_5_5_2_4_10_at_0 _ _ _ _ _ _
  have f21 : fld (encode (.lda d b z sx o)) 21 5 = d := part_6_5_5_2_4_10_at_1 _ _ _ _ _ _
  have f16 : fld (encode (.lda d b z sx o)) 16 5 = b := part_6_5_5_2_4_10_at_2 _ _ _ _ _ _
  have f14 : fld (encode (.lda d b z sx o)) 14 2 = z := part_6_5_5_2_4_10_at_3 _ _ _ _ _ _
  have f10 : fld (encode (.lda d b z sx o)) 10 4 = sx := part_6_5_5_2_4_10_at_4 _ _ _ _ _ _
  have f0 : fld (encode (.lda d b z sx o)) 0 10 = o := part_6_5_5_2_4_10_at_5 _ _ _ _ _ _
  simp only [candidate, majorOf, candA, f26, f21, f16, f14, f10, f0]
  rfl

theorem st (d : BitVec 5) (b : BitVec 5) (z : BitVec 2) (o : BitVec 14) : Statement (.st d b z o) := by
  intro st _ _
  have f26 : fld (encode (.st d b z o)) 26 6 = 26#6 := part_6_5_5_2_14_at_0 _ _ _ _ _
  have f21 : fld (encode (.st d b z o)) 21 5 = d := part_6_5_5_2_14_at_1 _ _ _ _ _
  have f16 : fld (encode (.st d b z o)) 16 5 = b := part_6_5_5_2_14_at_2 _ _ _ _ _
  have f14 : fld (encode (.st d b z o)) 14 2 = z := part_6_5_5_2_14_at_3 _ _ _ _ _
  have f0 : fld (encode (.st d b z o)) 0 14 = o := part_6_5_5_2_14_at_4 _ _ _ _ _
  simp only [candidate, majorOf, candA, f26, f21, f16, f14, f0]
  rfl

theorem str (d : BitVec 5) (b : BitVec 5) (z : BitVec 2) (sx : BitVec 4) (o : BitVec 10) : Statement (.str d b z sx o) := by
  intro st _ _
  have f26 : fld (encode (.str d b z sx o)) 26 6 = 27#6 := part_6_5_5_2_4_10_at_0 _ _ _ _ _ _
  have f21 : fld (encode (.str d b z sx o)) 21 5 = d := part_6_5_5_2_4_10_at_1 _ _ _ _ _ _
  have f16 : fld (encode (.str d b z sx o)) 16 5 = b := part_6_5_5_2_4_10_at_2 _ _ _ _ _ _
  have f14 : fld (encode (.str d b z sx o)) 14 2 = z := part_6_5_5_2_4_10_at_3 _ _ _ _ _ _
  have f10 : fld (encode (.str d b z sx o)) 10 4 = sx := part_6_5_5_2_4_10_at_4 _ _ _ _ _ _
  have f0 : fld (encode (.str d b z sx o)) 0 10 = o := part_6_5_5_2_4_10_at_5 _ _ _ _ _ _
  simp only [candidate, majorOf, candA, f26, f21, f16, f14, f10, f0]
  rfl

theorem sta (r : BitVec 1) (b : BitVec 5) (z : BitVec 2) (sx : BitVec 4) (o : BitVec 10) : Statement (.sta r b z sx o) := by
  intro st _ _
  have f26 : fld (encode (.sta r b z sx o)) 26 6 = 28#6 := part_6_1_1_3_5_2_4_10_at_0 _ _ _ _ _ _ _ _
  have f25 : fld (encode (.sta r b z sx o)) 25 1 = 0#1 := part_6_1_1_3_5_2_4_10_at_1 _ _ _ _ _ _ _ _
  have f24 : fld (encode (.sta r b z sx o)) 24 1 = r := part_6_1_1_3_5_2_4_10_at_2 _ _ _ _ _ _ _ _
  have f16 : fld (encode (.sta r b z sx o)) 16 5 = b := part_6_1_1_3_5_2_4_10_at_4 _ _ _ _ _ _ _ _
  have f14 : fld (encode (.sta r b z sx o)) 14 2 = z := part_6_1_1_3_5_2_4_10_at_5 _ _ _ _ _ _ _ _
  have f10 : fld (encode (.sta r b z sx o)) 10 4 = sx := part_6_1_1_3_5_2_4_10_at_6 _ _ _ _ _ _ _ _
  have f0 : fld (encode (.sta r b z sx o)) 0 10 = o := part_6_1_1_3_5_2_4_10_at_7 _ _ _ _ _ _ _ _
  simp only [candidate, majorOf, candA, f26, f25, f24, f16, f14, f10, f0]
  rfl

theorem staRow (r : BitVec 1) (b : BitVec 5) (sx : BitVec 4) (o : BitVec 10) : Statement (.staRow r b sx o) := by
  intro st _ _
  have f26 : fld (encode (.staRow r b sx o)) 26 6 = 28#6 := part_6_1_1_3_5_2_4_10_at_0 _ _ _ _ _ _ _ _
  have f25 : fld (encode (.staRow r b sx o)) 25 1 = 1#1 := part_6_1_1_3_5_2_4_10_at_1 _ _ _ _ _ _ _ _
  have f24 : fld (encode (.staRow r b sx o)) 24 1 = r := part_6_1_1_3_5_2_4_10_at_2 _ _ _ _ _ _ _ _
  have f16 : fld (encode (.staRow r b sx o)) 16 5 = b := part_6_1_1_3_5_2_4_10_at_4 _ _ _ _ _ _ _ _
  have f10 : fld (encode (.staRow r b sx o)) 10 4 = sx := part_6_1_1_3_5_2_4_10_at_6 _ _ _ _ _ _ _ _
  have f0 : fld (encode (.staRow r b sx o)) 0 10 = o := part_6_1_1_3_5_2_4_10_at_7 _ _ _ _ _ _ _ _
  simp only [candidate, majorOf, candA, f26, f25, f24, f16, f10, f0]
  rfl

theorem ldq (q : BitVec 3) (c : BitVec 5) (b : BitVec 5) (sx : BitVec 5) : Statement (.ldq q c b sx) := by
  intro st _ _
  have f26 : fld (encode (.ldq q c b sx)) 26 6 = 29#6 := part_6_3_5_5_5_8_at_0 _ _ _ _ _ _
  have f23 : fld (encode (.ldq q c b sx)) 23 3 = q := part_6_3_5_5_5_8_at_1 _ _ _ _ _ _
  have f18 : fld (encode (.ldq q c b sx)) 18 5 = c := part_6_3_5_5_5_8_at_2 _ _ _ _ _ _
  have f13 : fld (encode (.ldq q c b sx)) 13 5 = b := part_6_3_5_5_5_8_at_3 _ _ _ _ _ _
  have f8 : fld (encode (.ldq q c b sx)) 8 5 = sx := part_6_3_5_5_5_8_at_4 _ _ _ _ _ _
  simp only [candidate, majorOf, candA, f26, f23, f18, f13, f8]
  rfl

theorem atom (d : BitVec 5) (b : BitVec 5) (v : BitVec 5) (o : BitVec 4) (z : BitVec 1) (sx : BitVec 4) (r : BitVec 2) : Statement (.atom d b v o z sx r) := by
  intro st _ _
  have f26 : fld (encode (.atom d b v o z sx r)) 26 6 = 30#6 := part_6_5_5_5_5_4_2_at_0 _ _ _ _ _ _ _
  have f21 : fld (encode (.atom d b v o z sx r)) 21 5 = d := part_6_5_5_5_5_4_2_at_1 _ _ _ _ _ _ _
  have f16 : fld (encode (.atom d b v o z sx r)) 16 5 = b := part_6_5_5_5_5_4_2_at_2 _ _ _ _ _ _ _
  have f11 : fld (encode (.atom d b v o z sx r)) 11 5 = v := part_6_5_5_5_5_4_2_at_3 _ _ _ _ _ _ _
  have f7 : fld (encode (.atom d b v o z sx r)) 7 4 = o := by
    show (30#6 ++ d ++ b ++ v ++ (o ++ z) ++ sx ++ r : BitVec (6+5+5+5+5+4+2)).extractLsb' 7 4 = _
    rw [fieldAbove (by decide), fieldAbove (by decide), fieldBelow (by decide), fieldAbove (by decide)]
    exact BitVec.extractLsb'_eq_self
  have f6 : fld (encode (.atom d b v o z sx r)) 6 1 = z := by
    show (30#6 ++ d ++ b ++ v ++ (o ++ z) ++ sx ++ r : BitVec (6+5+5+5+5+4+2)).extractLsb' 6 1 = _
    rw [fieldAbove (by decide), fieldAbove (by decide), fieldBelow (by decide), fieldBelow (by decide)]
    exact BitVec.extractLsb'_eq_self
  have f2 : fld (encode (.atom d b v o z sx r)) 2 4 = sx := part_6_5_5_5_5_4_2_at_5 _ _ _ _ _ _ _
  have f0 : fld (encode (.atom d b v o z sx r)) 0 2 = r := part_6_5_5_5_5_4_2_at_6 _ _ _ _ _ _ _
  simp only [candidate, majorOf, candA, f26, f21, f16, f11, f7, f6, f2, f0]
  rfl

theorem atomnr (b : BitVec 5) (v : BitVec 5) (o : BitVec 4) (z : BitVec 1) (sx : BitVec 4) (r : BitVec 2) : Statement (.atomnr b v o z sx r) := by
  intro st _ _
  have f26 : fld (encode (.atomnr b v o z sx r)) 26 6 = 31#6 := part_6_5_5_5_5_4_2_at_0 _ _ _ _ _ _ _
  have f16 : fld (encode (.atomnr b v o z sx r)) 16 5 = b := part_6_5_5_5_5_4_2_at_2 _ _ _ _ _ _ _
  have f11 : fld (encode (.atomnr b v o z sx r)) 11 5 = v := part_6_5_5_5_5_4_2_at_3 _ _ _ _ _ _ _
  have f7 : fld (encode (.atomnr b v o z sx r)) 7 4 = o := by
    show (31#6 ++ 0#5 ++ b ++ v ++ (o ++ z) ++ sx ++ r : BitVec (6+5+5+5+5+4+2)).extractLsb' 7 4 = _
    rw [fieldAbove (by decide), fieldAbove (by decide), fieldBelow (by decide), fieldAbove (by decide)]
    exact BitVec.extractLsb'_eq_self
  have f6 : fld (encode (.atomnr b v o z sx r)) 6 1 = z := by
    show (31#6 ++ 0#5 ++ b ++ v ++ (o ++ z) ++ sx ++ r : BitVec (6+5+5+5+5+4+2)).extractLsb' 6 1 = _
    rw [fieldAbove (by decide), fieldAbove (by decide), fieldBelow (by decide), fieldBelow (by decide)]
    exact BitVec.extractLsb'_eq_self
  have f2 : fld (encode (.atomnr b v o z sx r)) 2 4 = sx := part_6_5_5_5_5_4_2_at_5 _ _ _ _ _ _ _
  have f0 : fld (encode (.atomnr b v o z sx r)) 0 2 = r := part_6_5_5_5_5_4_2_at_6 _ _ _ _ _ _ _
  simp only [candidate, majorOf, candA, f26, f16, f11, f7, f6, f2, f0]
  rfl

theorem cas (d : BitVec 5) (b : BitVec 5) (v : BitVec 5) (z : BitVec 2) (sx : BitVec 4) (r : BitVec 2) : Statement (.cas d b v z sx r) := by
  intro st _ _
  have f26 : fld (encode (.cas d b v z sx r)) 26 6 = 32#6 := part_6_5_5_5_5_4_2_at_0 _ _ _ _ _ _ _
  have f21 : fld (encode (.cas d b v z sx r)) 21 5 = d := part_6_5_5_5_5_4_2_at_1 _ _ _ _ _ _ _
  have f16 : fld (encode (.cas d b v z sx r)) 16 5 = b := part_6_5_5_5_5_4_2_at_2 _ _ _ _ _ _ _
  have f11 : fld (encode (.cas d b v z sx r)) 11 5 = v := part_6_5_5_5_5_4_2_at_3 _ _ _ _ _ _ _
  have f6 : fld (encode (.cas d b v z sx r)) 6 2 = z := by
    show (32#6 ++ d ++ b ++ v ++ (0#3 ++ z) ++ sx ++ r : BitVec (6+5+5+5+5+4+2)).extractLsb' 6 2 = _
    rw [fieldAbove (by decide), fieldAbove (by decide), fieldBelow (by decide), fieldBelow (by decide)]
    exact BitVec.extractLsb'_eq_self
  have f2 : fld (encode (.cas d b v z sx r)) 2 4 = sx := part_6_5_5_5_5_4_2_at_5 _ _ _ _ _ _ _
  have f0 : fld (encode (.cas d b v z sx r)) 0 2 = r := part_6_5_5_5_5_4_2_at_6 _ _ _ _ _ _ _
  simp only [candidate, majorOf, candA, f26, f21, f16, f11, f6, f2, f0]
  rfl

theorem fence (k : BitVec 4) (sx : BitVec 4) : Statement (.fence k sx) := by
  intro st _ h
  have f26 : fld (encode (.fence k sx)) 26 6 = 33#6 := part_6_4_4_18_at_0 _ _ _ _
  have f22 : fld (encode (.fence k sx)) 22 4 = k := part_6_4_4_18_at_1 _ _ _ _
  have f18 : fld (encode (.fence k sx)) 18 4 = sx := part_6_4_4_18_at_2 _ _ _ _
  simp only [candidate, majorOf, candA, f26, f22, f18]
  have hk : k ≠ 3 := by
    rintro rfl
    simp [Instr.fieldsOk] at h
  simp [majorUse]
  exact hk

theorem fenceAtomics : Statement .fenceAtomics := by
  intro st _ _
  have f26 : fld (encode .fenceAtomics) 26 6 = 33#6 := part_6_4_22_at_0 _ _ _
  have f22 : fld (encode .fenceAtomics) 22 4 = 3#4 := part_6_4_22_at_1 _ _ _
  simp only [candidate, majorOf, candA, f26, f22]
  rfl

theorem push (e : BitVec 5) (f : BitVec 5) (n : BitVec 3) (sx : BitVec 4) : Statement (.push e f n sx) := by
  intro st _ _
  have f26 : fld (encode (.push e f n sx)) 26 6 = 34#6 := part_6_5_5_3_4_9_at_0 _ _ _ _ _ _
  have f21 : fld (encode (.push e f n sx)) 21 5 = e := part_6_5_5_3_4_9_at_1 _ _ _ _ _ _
  have f16 : fld (encode (.push e f n sx)) 16 5 = f := part_6_5_5_3_4_9_at_2 _ _ _ _ _ _
  have f13 : fld (encode (.push e f n sx)) 13 3 = n := part_6_5_5_3_4_9_at_3 _ _ _ _ _ _
  have f9 : fld (encode (.push e f n sx)) 9 4 = sx := part_6_5_5_3_4_9_at_4 _ _ _ _ _ _
  simp only [candidate, majorOf, candA, f26, f21, f16, f13, f9]
  rfl

theorem popr (e : BitVec 5) (f : BitVec 5) (n : BitVec 3) (sx : BitVec 4) : Statement (.popr e f n sx) := by
  intro st _ _
  have f26 : fld (encode (.popr e f n sx)) 26 6 = 35#6 := part_6_5_5_3_4_9_at_0 _ _ _ _ _ _
  have f21 : fld (encode (.popr e f n sx)) 21 5 = e := part_6_5_5_3_4_9_at_1 _ _ _ _ _ _
  have f16 : fld (encode (.popr e f n sx)) 16 5 = f := part_6_5_5_3_4_9_at_2 _ _ _ _ _ _
  have f13 : fld (encode (.popr e f n sx)) 13 3 = n := part_6_5_5_3_4_9_at_3 _ _ _ _ _ _
  have f9 : fld (encode (.popr e f n sx)) 9 4 = sx := part_6_5_5_3_4_9_at_4 _ _ _ _ _ _
  simp only [candidate, majorOf, candA, f26, f21, f16, f13, f9]
  rfl

theorem waitid (e : BitVec 5) (h : BitVec 2) (a : BitVec 5) : Statement (.waitid e h a) := by
  intro st _ _
  have f26 : fld (encode (.waitid e h a)) 26 6 = 36#6 := part_6_5_2_5_14_at_0 _ _ _ _ _
  have f21 : fld (encode (.waitid e h a)) 21 5 = e := part_6_5_2_5_14_at_1 _ _ _ _ _
  have f19 : fld (encode (.waitid e h a)) 19 2 = h := part_6_5_2_5_14_at_2 _ _ _ _ _
  have f14 : fld (encode (.waitid e h a)) 14 5 = a := part_6_5_2_5_14_at_3 _ _ _ _ _
  simp only [candidate, majorOf, candA, f26, f21, f19, f14]
  rfl

theorem semw (c : BitVec 5) (a : BitVec 5) (sx : BitVec 4) : Statement (.semw c a sx) := by
  intro st _ _
  have f26 : fld (encode (.semw c a sx)) 26 6 = 37#6 := part_6_1_5_5_4_11_at_0 _ _ _ _ _ _
  have f25 : fld (encode (.semw c a sx)) 25 1 = 0#1 := part_6_1_5_5_4_11_at_1 _ _ _ _ _ _
  have f20 : fld (encode (.semw c a sx)) 20 5 = c := part_6_1_5_5_4_11_at_2 _ _ _ _ _ _
  have f15 : fld (encode (.semw c a sx)) 15 5 = a := part_6_1_5_5_4_11_at_3 _ _ _ _ _ _
  have f11 : fld (encode (.semw c a sx)) 11 4 = sx := part_6_1_5_5_4_11_at_4 _ _ _ _ _ _
  simp only [candidate, majorOf, candA, f26, f25, f20, f15, f11]
  rfl

theorem semp (c : BitVec 5) (a : BitVec 5) (sx : BitVec 4) : Statement (.semp c a sx) := by
  intro st _ _
  have f26 : fld (encode (.semp c a sx)) 26 6 = 37#6 := part_6_1_5_5_4_11_at_0 _ _ _ _ _ _
  have f25 : fld (encode (.semp c a sx)) 25 1 = 1#1 := part_6_1_5_5_4_11_at_1 _ _ _ _ _ _
  have f20 : fld (encode (.semp c a sx)) 20 5 = c := part_6_1_5_5_4_11_at_2 _ _ _ _ _ _
  have f15 : fld (encode (.semp c a sx)) 15 5 = a := part_6_1_5_5_4_11_at_3 _ _ _ _ _ _
  have f11 : fld (encode (.semp c a sx)) 11 4 = sx := part_6_1_5_5_4_11_at_4 _ _ _ _ _ _
  simp only [candidate, majorOf, candA, f26, f25, f20, f15, f11]
  rfl

theorem send (d : BitVec 5) (b : BitVec 5) : Statement (.send d b) := by
  intro st _ _
  have f26 : fld (encode (.send d b)) 26 6 = 38#6 := part_6_1_5_5_15_at_0 _ _ _ _ _
  have f25 : fld (encode (.send d b)) 25 1 = 0#1 := part_6_1_5_5_15_at_1 _ _ _ _ _
  have f20 : fld (encode (.send d b)) 20 5 = d := part_6_1_5_5_15_at_2 _ _ _ _ _
  have f15 : fld (encode (.send d b)) 15 5 = b := part_6_1_5_5_15_at_3 _ _ _ _ _
  simp only [candidate, majorOf, candA, f26, f25, f20, f15]
  rfl

theorem recv (d : BitVec 5) (b : BitVec 5) : Statement (.recv d b) := by
  intro st _ _
  have f26 : fld (encode (.recv d b)) 26 6 = 38#6 := part_6_1_5_5_15_at_0 _ _ _ _ _
  have f25 : fld (encode (.recv d b)) 25 1 = 1#1 := part_6_1_5_5_15_at_1 _ _ _ _ _
  have f20 : fld (encode (.recv d b)) 20 5 = d := part_6_1_5_5_15_at_2 _ _ _ _ _
  have f15 : fld (encode (.recv d b)) 15 5 = b := part_6_1_5_5_15_at_3 _ _ _ _ _
  simp only [candidate, majorOf, candA, f26, f25, f20, f15]
  rfl

theorem resize (w : BitVec 3) : Statement (.resize w) := by
  intro st _ _
  have f26 : fld (encode (.resize w)) 26 6 = 39#6 := part_6_3_23_at_0 _ _ _
  have f23 : fld (encode (.resize w)) 23 3 = w := part_6_3_23_at_1 _ _ _
  simp only [candidate, majorOf, candA, f26, f23]
  rfl

theorem movqRow (q : BitVec 3) (w : BitVec 7) : Statement (.movqRow q w) := by
  intro st _ _
  have f26 : fld (encode (.movqRow q w)) 26 6 = 44#6 := part_6_1_3_7_5_10_at_0 _ _ _ _ _ _
  have f25 : fld (encode (.movqRow q w)) 25 1 = 0#1 := part_6_1_3_7_5_10_at_1 _ _ _ _ _ _
  have f22 : fld (encode (.movqRow q w)) 22 3 = q := part_6_1_3_7_5_10_at_2 _ _ _ _ _ _
  have f15 : fld (encode (.movqRow q w)) 15 7 = w := part_6_1_3_7_5_10_at_3 _ _ _ _ _ _
  simp only [candidate, majorOf, candE, f26, f25, f22, f15]
  rfl

theorem movqScalar (q : BitVec 3) (d : BitVec 5) : Statement (.movqScalar q d) := by
  intro st _ _
  have f26 : fld (encode (.movqScalar q d)) 26 6 = 44#6 := part_6_1_3_7_5_10_at_0 _ _ _ _ _ _
  have f25 : fld (encode (.movqScalar q d)) 25 1 = 1#1 := part_6_1_3_7_5_10_at_1 _ _ _ _ _ _
  have f22 : fld (encode (.movqScalar q d)) 22 3 = q := part_6_1_3_7_5_10_at_2 _ _ _ _ _ _
  have f10 : fld (encode (.movqScalar q d)) 10 5 = d := part_6_1_3_7_5_10_at_4 _ _ _ _ _ _
  simp only [candidate, majorOf, candE, f26, f25, f22, f10]
  rfl

theorem putsScalar (a : BitVec 5) : Statement (.putsScalar a) := by
  intro st _ _
  have f26 : fld (encode (.putsScalar a)) 26 6 = 45#6 := part_6_1_7_5_13_at_0 _ _ _ _ _
  have f25 : fld (encode (.putsScalar a)) 25 1 = 0#1 := part_6_1_7_5_13_at_1 _ _ _ _ _
  have f13 : fld (encode (.putsScalar a)) 13 5 = a := part_6_1_7_5_13_at_3 _ _ _ _ _
  simp only [candidate, majorOf, candE, f26, f25, f13]
  rfl

theorem putsRow (w : BitVec 7) : Statement (.putsRow w) := by
  intro st _ _
  have f26 : fld (encode (.putsRow w)) 26 6 = 45#6 := part_6_1_7_5_13_at_0 _ _ _ _ _
  have f25 : fld (encode (.putsRow w)) 25 1 = 1#1 := part_6_1_7_5_13_at_1 _ _ _ _ _
  have f18 : fld (encode (.putsRow w)) 18 7 = w := part_6_1_7_5_13_at_2 _ _ _ _ _
  simp only [candidate, majorOf, candE, f26, f25, f18]
  rfl

theorem brq (d : BitVec 18) : Statement (.brq d) := by
  intro st _ _
  have f26 : fld (encode (.brq d)) 26 6 = 46#6 := part_6_1_1_5_1_18_at_0 _ _ _ _ _ _
  have f25 : fld (encode (.brq d)) 25 1 = 0#1 := part_6_1_1_5_1_18_at_1 _ _ _ _ _ _
  have f24 : fld (encode (.brq d)) 24 1 = 0#1 := part_6_1_1_5_1_18_at_2 _ _ _ _ _ _
  have f0 : fld (encode (.brq d)) 0 18 = d := part_6_1_1_5_1_18_at_5 _ _ _ _ _ _
  simp only [candidate, majorOf, candE, f26, f25, f24, f0]
  rfl

theorem brqn (d : BitVec 18) : Statement (.brqn d) := by
  intro st _ _
  have f26 : fld (encode (.brqn d)) 26 6 = 46#6 := part_6_1_1_5_1_18_at_0 _ _ _ _ _ _
  have f25 : fld (encode (.brqn d)) 25 1 = 0#1 := part_6_1_1_5_1_18_at_1 _ _ _ _ _ _
  have f24 : fld (encode (.brqn d)) 24 1 = 1#1 := part_6_1_1_5_1_18_at_2 _ _ _ _ _ _
  have f0 : fld (encode (.brqn d)) 0 18 = d := part_6_1_1_5_1_18_at_5 _ _ _ _ _ _
  simp only [candidate, majorOf, candE, f26, f25, f24, f0]
  rfl

theorem fqp (a : BitVec 5) : Statement (.fqp a) := by
  intro st _ _
  have f26 : fld (encode (.fqp a)) 26 6 = 46#6 := part_6_1_1_5_1_18_at_0 _ _ _ _ _ _
  have f25 : fld (encode (.fqp a)) 25 1 = 1#1 := part_6_1_1_5_1_18_at_1 _ _ _ _ _ _
  have f24 : fld (encode (.fqp a)) 24 1 = 0#1 := part_6_1_1_5_1_18_at_2 _ _ _ _ _ _
  have f19 : fld (encode (.fqp a)) 19 5 = a := part_6_1_1_5_1_18_at_3 _ _ _ _ _ _
  simp only [candidate, majorOf, candE, f26, f25, f24, f19]
  rfl

theorem trap (im : BitVec 12) : Statement (.trap im) := by
  intro st _ _
  have f26 : fld (encode (.trap im)) 26 6 = 47#6 := part_6_4_5_5_12_at_0 _ _ _ _ _
  have f22 : fld (encode (.trap im)) 22 4 = 0#4 := part_6_4_5_5_12_at_1 _ _ _ _ _
  have f0 : fld (encode (.trap im)) 0 12 = im := part_6_4_5_5_12_at_4 _ _ _ _ _
  simp only [candidate, majorOf, candE, candSys, f26, f22, f0]
  rfl

theorem eret : Statement .eret := by
  intro st _ _
  have f26 : fld (encode .eret) 26 6 = 47#6 := part_6_4_5_5_12_at_0 _ _ _ _ _
  have f22 : fld (encode .eret) 22 4 = 1#4 := part_6_4_5_5_12_at_1 _ _ _ _ _
  simp only [candidate, majorOf, candE, candSys, f26, f22]
  rfl

theorem mfc (d : BitVec 5) (c : BitVec 12) : Statement (.mfc d c) := by
  intro st _ _
  have f26 : fld (encode (.mfc d c)) 26 6 = 47#6 := part_6_4_5_5_12_at_0 _ _ _ _ _
  have f22 : fld (encode (.mfc d c)) 22 4 = 2#4 := part_6_4_5_5_12_at_1 _ _ _ _ _
  have f17 : fld (encode (.mfc d c)) 17 5 = d := part_6_4_5_5_12_at_2 _ _ _ _ _
  have f0 : fld (encode (.mfc d c)) 0 12 = c := part_6_4_5_5_12_at_4 _ _ _ _ _
  simp only [candidate, majorOf, candE, candSys, f26, f22, f17, f0]
  rfl

theorem mtc (a : BitVec 5) (c : BitVec 12) : Statement (.mtc a c) := by
  intro st _ _
  have f26 : fld (encode (.mtc a c)) 26 6 = 47#6 := part_6_4_5_5_12_at_0 _ _ _ _ _
  have f22 : fld (encode (.mtc a c)) 22 4 = 3#4 := part_6_4_5_5_12_at_1 _ _ _ _ _
  have f12 : fld (encode (.mtc a c)) 12 5 = a := part_6_4_5_5_12_at_3 _ _ _ _ _
  have f0 : fld (encode (.mtc a c)) 0 12 = c := part_6_4_5_5_12_at_4 _ _ _ _ _
  simp only [candidate, majorOf, candE, candSys, f26, f22, f12, f0]
  rfl

theorem time (d : BitVec 5) : Statement (.time d) := by
  intro st _ _
  have f26 : fld (encode (.time d)) 26 6 = 47#6 := part_6_4_5_5_12_at_0 _ _ _ _ _
  have f22 : fld (encode (.time d)) 22 4 = 4#4 := part_6_4_5_5_12_at_1 _ _ _ _ _
  have f17 : fld (encode (.time d)) 17 5 = d := part_6_4_5_5_12_at_2 _ _ _ _ _
  simp only [candidate, majorOf, candE, candSys, f26, f22, f17]
  rfl

theorem wakewait (a : BitVec 5) : Statement (.wakewait a) := by
  intro st _ _
  have f26 : fld (encode (.wakewait a)) 26 6 = 47#6 := part_6_4_5_5_12_at_0 _ _ _ _ _
  have f22 : fld (encode (.wakewait a)) 22 4 = 5#4 := part_6_4_5_5_12_at_1 _ _ _ _ _
  have f12 : fld (encode (.wakewait a)) 12 5 = a := part_6_4_5_5_12_at_3 _ _ _ _ _
  simp only [candidate, majorOf, candE, candSys, f26, f22, f12]
  rfl

theorem barrier (sx : BitVec 4) : Statement (.barrier sx) := by
  intro st _ _
  have f26 : fld (encode (.barrier sx)) 26 6 = 47#6 := part_6_4_5_5_12_at_0 _ _ _ _ _
  have f22 : fld (encode (.barrier sx)) 22 4 = 6#4 := part_6_4_5_5_12_at_1 _ _ _ _ _
  have f0 : fld (encode (.barrier sx)) 0 4 = sx := by
    show (47#6 ++ 6#4 ++ 0#5 ++ 0#5 ++ (0#8 ++ sx) : BitVec (6+4+5+5+12)).extractLsb' 0 4 = _
    rw [fieldBelow (by decide), fieldBelow (by decide)]
    exact BitVec.extractLsb'_eq_self
  simp only [candidate, majorOf, candE, candSys, f26, f22, f0]
  rfl

theorem halt : Statement .halt := by
  intro st _ _
  have f26 : fld (encode .halt) 26 6 = 47#6 := part_6_4_5_5_12_at_0 _ _ _ _ _
  have f22 : fld (encode .halt) 22 4 = 7#4 := part_6_4_5_5_12_at_1 _ _ _ _ _
  simp only [candidate, majorOf, candE, candSys, f26, f22]
  rfl

theorem fadd (t : BitVec 2) (d : BitVec 7) (a : BitVec 7) (b : BitVec 7) : Statement (.fadd t d a b) := by
  intro st _ _
  have f26 : fld (encode (.fadd t d a b)) 26 6 = 48#6 := part_6_3_2_7_7_7_at_0 _ _ _ _ _ _
  have f23 : fld (encode (.fadd t d a b)) 23 3 = 0#3 := part_6_3_2_7_7_7_at_1 _ _ _ _ _ _
  have f21 : fld (encode (.fadd t d a b)) 21 2 = t := part_6_3_2_7_7_7_at_2 _ _ _ _ _ _
  have f14 : fld (encode (.fadd t d a b)) 14 7 = d := part_6_3_2_7_7_7_at_3 _ _ _ _ _ _
  have f7 : fld (encode (.fadd t d a b)) 7 7 = a := part_6_3_2_7_7_7_at_4 _ _ _ _ _ _
  have f0 : fld (encode (.fadd t d a b)) 0 7 = b := part_6_3_2_7_7_7_at_5 _ _ _ _ _ _
  simp only [candidate, majorOf, candE, candTileT, f26, f23, f21, f14, f7, f0]
  rfl

theorem fsub (t : BitVec 2) (d : BitVec 7) (a : BitVec 7) (b : BitVec 7) : Statement (.fsub t d a b) := by
  intro st _ _
  have f26 : fld (encode (.fsub t d a b)) 26 6 = 48#6 := part_6_3_2_7_7_7_at_0 _ _ _ _ _ _
  have f23 : fld (encode (.fsub t d a b)) 23 3 = 1#3 := part_6_3_2_7_7_7_at_1 _ _ _ _ _ _
  have f21 : fld (encode (.fsub t d a b)) 21 2 = t := part_6_3_2_7_7_7_at_2 _ _ _ _ _ _
  have f14 : fld (encode (.fsub t d a b)) 14 7 = d := part_6_3_2_7_7_7_at_3 _ _ _ _ _ _
  have f7 : fld (encode (.fsub t d a b)) 7 7 = a := part_6_3_2_7_7_7_at_4 _ _ _ _ _ _
  have f0 : fld (encode (.fsub t d a b)) 0 7 = b := part_6_3_2_7_7_7_at_5 _ _ _ _ _ _
  simp only [candidate, majorOf, candE, candTileT, f26, f23, f21, f14, f7, f0]
  rfl

theorem fmul (t : BitVec 2) (d : BitVec 7) (a : BitVec 7) (b : BitVec 7) : Statement (.fmul t d a b) := by
  intro st _ _
  have f26 : fld (encode (.fmul t d a b)) 26 6 = 48#6 := part_6_3_2_7_7_7_at_0 _ _ _ _ _ _
  have f23 : fld (encode (.fmul t d a b)) 23 3 = 2#3 := part_6_3_2_7_7_7_at_1 _ _ _ _ _ _
  have f21 : fld (encode (.fmul t d a b)) 21 2 = t := part_6_3_2_7_7_7_at_2 _ _ _ _ _ _
  have f14 : fld (encode (.fmul t d a b)) 14 7 = d := part_6_3_2_7_7_7_at_3 _ _ _ _ _ _
  have f7 : fld (encode (.fmul t d a b)) 7 7 = a := part_6_3_2_7_7_7_at_4 _ _ _ _ _ _
  have f0 : fld (encode (.fmul t d a b)) 0 7 = b := part_6_3_2_7_7_7_at_5 _ _ _ _ _ _
  simp only [candidate, majorOf, candE, candTileT, f26, f23, f21, f14, f7, f0]
  rfl

theorem fma (t : BitVec 2) (d : BitVec 7) (a : BitVec 7) (b : BitVec 7) : Statement (.fma t d a b) := by
  intro st _ _
  have f26 : fld (encode (.fma t d a b)) 26 6 = 48#6 := part_6_3_2_7_7_7_at_0 _ _ _ _ _ _
  have f23 : fld (encode (.fma t d a b)) 23 3 = 3#3 := part_6_3_2_7_7_7_at_1 _ _ _ _ _ _
  have f21 : fld (encode (.fma t d a b)) 21 2 = t := part_6_3_2_7_7_7_at_2 _ _ _ _ _ _
  have f14 : fld (encode (.fma t d a b)) 14 7 = d := part_6_3_2_7_7_7_at_3 _ _ _ _ _ _
  have f7 : fld (encode (.fma t d a b)) 7 7 = a := part_6_3_2_7_7_7_at_4 _ _ _ _ _ _
  have f0 : fld (encode (.fma t d a b)) 0 7 = b := part_6_3_2_7_7_7_at_5 _ _ _ _ _ _
  simp only [candidate, majorOf, candE, candTileT, f26, f23, f21, f14, f7, f0]
  rfl

theorem fmin (t : BitVec 2) (d : BitVec 7) (a : BitVec 7) (b : BitVec 7) : Statement (.fmin t d a b) := by
  intro st _ _
  have f26 : fld (encode (.fmin t d a b)) 26 6 = 48#6 := part_6_3_2_7_7_7_at_0 _ _ _ _ _ _
  have f23 : fld (encode (.fmin t d a b)) 23 3 = 4#3 := part_6_3_2_7_7_7_at_1 _ _ _ _ _ _
  have f21 : fld (encode (.fmin t d a b)) 21 2 = t := part_6_3_2_7_7_7_at_2 _ _ _ _ _ _
  have f14 : fld (encode (.fmin t d a b)) 14 7 = d := part_6_3_2_7_7_7_at_3 _ _ _ _ _ _
  have f7 : fld (encode (.fmin t d a b)) 7 7 = a := part_6_3_2_7_7_7_at_4 _ _ _ _ _ _
  have f0 : fld (encode (.fmin t d a b)) 0 7 = b := part_6_3_2_7_7_7_at_5 _ _ _ _ _ _
  simp only [candidate, majorOf, candE, candTileT, f26, f23, f21, f14, f7, f0]
  rfl

theorem fmax (t : BitVec 2) (d : BitVec 7) (a : BitVec 7) (b : BitVec 7) : Statement (.fmax t d a b) := by
  intro st _ _
  have f26 : fld (encode (.fmax t d a b)) 26 6 = 48#6 := part_6_3_2_7_7_7_at_0 _ _ _ _ _ _
  have f23 : fld (encode (.fmax t d a b)) 23 3 = 5#3 := part_6_3_2_7_7_7_at_1 _ _ _ _ _ _
  have f21 : fld (encode (.fmax t d a b)) 21 2 = t := part_6_3_2_7_7_7_at_2 _ _ _ _ _ _
  have f14 : fld (encode (.fmax t d a b)) 14 7 = d := part_6_3_2_7_7_7_at_3 _ _ _ _ _ _
  have f7 : fld (encode (.fmax t d a b)) 7 7 = a := part_6_3_2_7_7_7_at_4 _ _ _ _ _ _
  have f0 : fld (encode (.fmax t d a b)) 0 7 = b := part_6_3_2_7_7_7_at_5 _ _ _ _ _ _
  simp only [candidate, majorOf, candE, candTileT, f26, f23, f21, f14, f7, f0]
  rfl

theorem fdiv (t : BitVec 2) (d : BitVec 7) (a : BitVec 7) (b : BitVec 7) : Statement (.fdiv t d a b) := by
  intro st _ _
  have f26 : fld (encode (.fdiv t d a b)) 26 6 = 48#6 := part_6_3_2_7_7_7_at_0 _ _ _ _ _ _
  have f23 : fld (encode (.fdiv t d a b)) 23 3 = 6#3 := part_6_3_2_7_7_7_at_1 _ _ _ _ _ _
  have f21 : fld (encode (.fdiv t d a b)) 21 2 = t := part_6_3_2_7_7_7_at_2 _ _ _ _ _ _
  have f14 : fld (encode (.fdiv t d a b)) 14 7 = d := part_6_3_2_7_7_7_at_3 _ _ _ _ _ _
  have f7 : fld (encode (.fdiv t d a b)) 7 7 = a := part_6_3_2_7_7_7_at_4 _ _ _ _ _ _
  have f0 : fld (encode (.fdiv t d a b)) 0 7 = b := part_6_3_2_7_7_7_at_5 _ _ _ _ _ _
  simp only [candidate, majorOf, candE, candTileT, f26, f23, f21, f14, f7, f0]
  rfl

theorem fexp2 (t : BitVec 2) (d : BitVec 7) (a : BitVec 7) : Statement (.fexp2 t d a) := by
  intro st _ _
  have f26 : fld (encode (.fexp2 t d a)) 26 6 = 49#6 := part_6_3_2_7_7_7_at_0 _ _ _ _ _ _
  have f23 : fld (encode (.fexp2 t d a)) 23 3 = 0#3 := part_6_3_2_7_7_7_at_1 _ _ _ _ _ _
  have f21 : fld (encode (.fexp2 t d a)) 21 2 = t := part_6_3_2_7_7_7_at_2 _ _ _ _ _ _
  have f14 : fld (encode (.fexp2 t d a)) 14 7 = d := part_6_3_2_7_7_7_at_3 _ _ _ _ _ _
  have f7 : fld (encode (.fexp2 t d a)) 7 7 = a := part_6_3_2_7_7_7_at_4 _ _ _ _ _ _
  simp only [candidate, majorOf, candE, candTileT, f26, f23, f21, f14, f7]
  rfl

theorem flog2 (t : BitVec 2) (d : BitVec 7) (a : BitVec 7) : Statement (.flog2 t d a) := by
  intro st _ _
  have f26 : fld (encode (.flog2 t d a)) 26 6 = 49#6 := part_6_3_2_7_7_7_at_0 _ _ _ _ _ _
  have f23 : fld (encode (.flog2 t d a)) 23 3 = 1#3 := part_6_3_2_7_7_7_at_1 _ _ _ _ _ _
  have f21 : fld (encode (.flog2 t d a)) 21 2 = t := part_6_3_2_7_7_7_at_2 _ _ _ _ _ _
  have f14 : fld (encode (.flog2 t d a)) 14 7 = d := part_6_3_2_7_7_7_at_3 _ _ _ _ _ _
  have f7 : fld (encode (.flog2 t d a)) 7 7 = a := part_6_3_2_7_7_7_at_4 _ _ _ _ _ _
  simp only [candidate, majorOf, candE, candTileT, f26, f23, f21, f14, f7]
  rfl

theorem frcp (t : BitVec 2) (d : BitVec 7) (a : BitVec 7) : Statement (.frcp t d a) := by
  intro st _ _
  have f26 : fld (encode (.frcp t d a)) 26 6 = 49#6 := part_6_3_2_7_7_7_at_0 _ _ _ _ _ _
  have f23 : fld (encode (.frcp t d a)) 23 3 = 2#3 := part_6_3_2_7_7_7_at_1 _ _ _ _ _ _
  have f21 : fld (encode (.frcp t d a)) 21 2 = t := part_6_3_2_7_7_7_at_2 _ _ _ _ _ _
  have f14 : fld (encode (.frcp t d a)) 14 7 = d := part_6_3_2_7_7_7_at_3 _ _ _ _ _ _
  have f7 : fld (encode (.frcp t d a)) 7 7 = a := part_6_3_2_7_7_7_at_4 _ _ _ _ _ _
  simp only [candidate, majorOf, candE, candTileT, f26, f23, f21, f14, f7]
  rfl

theorem frsq (t : BitVec 2) (d : BitVec 7) (a : BitVec 7) : Statement (.frsq t d a) := by
  intro st _ _
  have f26 : fld (encode (.frsq t d a)) 26 6 = 49#6 := part_6_3_2_7_7_7_at_0 _ _ _ _ _ _
  have f23 : fld (encode (.frsq t d a)) 23 3 = 3#3 := part_6_3_2_7_7_7_at_1 _ _ _ _ _ _
  have f21 : fld (encode (.frsq t d a)) 21 2 = t := part_6_3_2_7_7_7_at_2 _ _ _ _ _ _
  have f14 : fld (encode (.frsq t d a)) 14 7 = d := part_6_3_2_7_7_7_at_3 _ _ _ _ _ _
  have f7 : fld (encode (.frsq t d a)) 7 7 = a := part_6_3_2_7_7_7_at_4 _ _ _ _ _ _
  simp only [candidate, majorOf, candE, candTileT, f26, f23, f21, f14, f7]
  rfl

theorem fsqrt (t : BitVec 2) (d : BitVec 7) (a : BitVec 7) : Statement (.fsqrt t d a) := by
  intro st _ _
  have f26 : fld (encode (.fsqrt t d a)) 26 6 = 49#6 := part_6_3_2_7_7_7_at_0 _ _ _ _ _ _
  have f23 : fld (encode (.fsqrt t d a)) 23 3 = 4#3 := part_6_3_2_7_7_7_at_1 _ _ _ _ _ _
  have f21 : fld (encode (.fsqrt t d a)) 21 2 = t := part_6_3_2_7_7_7_at_2 _ _ _ _ _ _
  have f14 : fld (encode (.fsqrt t d a)) 14 7 = d := part_6_3_2_7_7_7_at_3 _ _ _ _ _ _
  have f7 : fld (encode (.fsqrt t d a)) 7 7 = a := part_6_3_2_7_7_7_at_4 _ _ _ _ _ _
  simp only [candidate, majorOf, candE, candTileT, f26, f23, f21, f14, f7]
  rfl

theorem fabs (t : BitVec 2) (d : BitVec 7) (a : BitVec 7) : Statement (.fabs t d a) := by
  intro st _ _
  have f26 : fld (encode (.fabs t d a)) 26 6 = 49#6 := part_6_3_2_7_7_7_at_0 _ _ _ _ _ _
  have f23 : fld (encode (.fabs t d a)) 23 3 = 5#3 := part_6_3_2_7_7_7_at_1 _ _ _ _ _ _
  have f21 : fld (encode (.fabs t d a)) 21 2 = t := part_6_3_2_7_7_7_at_2 _ _ _ _ _ _
  have f14 : fld (encode (.fabs t d a)) 14 7 = d := part_6_3_2_7_7_7_at_3 _ _ _ _ _ _
  have f7 : fld (encode (.fabs t d a)) 7 7 = a := part_6_3_2_7_7_7_at_4 _ _ _ _ _ _
  simp only [candidate, majorOf, candE, candTileT, f26, f23, f21, f14, f7]
  rfl

theorem fneg (t : BitVec 2) (d : BitVec 7) (a : BitVec 7) : Statement (.fneg t d a) := by
  intro st _ _
  have f26 : fld (encode (.fneg t d a)) 26 6 = 49#6 := part_6_3_2_7_7_7_at_0 _ _ _ _ _ _
  have f23 : fld (encode (.fneg t d a)) 23 3 = 6#3 := part_6_3_2_7_7_7_at_1 _ _ _ _ _ _
  have f21 : fld (encode (.fneg t d a)) 21 2 = t := part_6_3_2_7_7_7_at_2 _ _ _ _ _ _
  have f14 : fld (encode (.fneg t d a)) 14 7 = d := part_6_3_2_7_7_7_at_3 _ _ _ _ _ _
  have f7 : fld (encode (.fneg t d a)) 7 7 = a := part_6_3_2_7_7_7_at_4 _ _ _ _ _ _
  simp only [candidate, majorOf, candE, candTileT, f26, f23, f21, f14, f7]
  rfl

theorem fclass (t : BitVec 2) (d : BitVec 7) (a : BitVec 7) : Statement (.fclass t d a) := by
  intro st _ _
  have f26 : fld (encode (.fclass t d a)) 26 6 = 49#6 := part_6_3_2_7_7_7_at_0 _ _ _ _ _ _
  have f23 : fld (encode (.fclass t d a)) 23 3 = 7#3 := part_6_3_2_7_7_7_at_1 _ _ _ _ _ _
  have f21 : fld (encode (.fclass t d a)) 21 2 = t := part_6_3_2_7_7_7_at_2 _ _ _ _ _ _
  have f14 : fld (encode (.fclass t d a)) 14 7 = d := part_6_3_2_7_7_7_at_3 _ _ _ _ _ _
  have f7 : fld (encode (.fclass t d a)) 7 7 = a := part_6_3_2_7_7_7_at_4 _ _ _ _ _ _
  simp only [candidate, majorOf, candE, candTileT, f26, f23, f21, f14, f7]
  rfl

theorem fcvt (r : BitVec 3) (t : BitVec 2) (d : BitVec 7) (a : BitVec 7) (sx : BitVec 5) (m : BitVec 2) : Statement (.fcvt r t d a sx m) := by
  intro st _ _
  have f26 : fld (encode (.fcvt r t d a sx m)) 26 6 = 50#6 := part_6_3_2_7_7_5_2_at_0 _ _ _ _ _ _ _
  have f23 : fld (encode (.fcvt r t d a sx m)) 23 3 = r := part_6_3_2_7_7_5_2_at_1 _ _ _ _ _ _ _
  have f21 : fld (encode (.fcvt r t d a sx m)) 21 2 = t := part_6_3_2_7_7_5_2_at_2 _ _ _ _ _ _ _
  have f14 : fld (encode (.fcvt r t d a sx m)) 14 7 = d := part_6_3_2_7_7_5_2_at_3 _ _ _ _ _ _ _
  have f7 : fld (encode (.fcvt r t d a sx m)) 7 7 = a := part_6_3_2_7_7_5_2_at_4 _ _ _ _ _ _ _
  have f2 : fld (encode (.fcvt r t d a sx m)) 2 5 = sx := part_6_3_2_7_7_5_2_at_5 _ _ _ _ _ _ _
  have f0 : fld (encode (.fcvt r t d a sx m)) 0 2 = m := part_6_3_2_7_7_5_2_at_6 _ _ _ _ _ _ _
  simp only [candidate, majorOf, candE, f26, f23, f21, f14, f7, f2, f0]
  rfl

theorem iadd (t : BitVec 2) (d : BitVec 7) (a : BitVec 7) (b : BitVec 7) : Statement (.iadd t d a b) := by
  intro st _ _
  have f26 : fld (encode (.iadd t d a b)) 26 6 = 51#6 := part_6_3_2_7_7_7_at_0 _ _ _ _ _ _
  have f23 : fld (encode (.iadd t d a b)) 23 3 = 0#3 := part_6_3_2_7_7_7_at_1 _ _ _ _ _ _
  have f21 : fld (encode (.iadd t d a b)) 21 2 = t := part_6_3_2_7_7_7_at_2 _ _ _ _ _ _
  have f14 : fld (encode (.iadd t d a b)) 14 7 = d := part_6_3_2_7_7_7_at_3 _ _ _ _ _ _
  have f7 : fld (encode (.iadd t d a b)) 7 7 = a := part_6_3_2_7_7_7_at_4 _ _ _ _ _ _
  have f0 : fld (encode (.iadd t d a b)) 0 7 = b := part_6_3_2_7_7_7_at_5 _ _ _ _ _ _
  simp only [candidate, majorOf, candE, candTileT, f26, f23, f21, f14, f7, f0]
  rfl

theorem isub (t : BitVec 2) (d : BitVec 7) (a : BitVec 7) (b : BitVec 7) : Statement (.isub t d a b) := by
  intro st _ _
  have f26 : fld (encode (.isub t d a b)) 26 6 = 51#6 := part_6_3_2_7_7_7_at_0 _ _ _ _ _ _
  have f23 : fld (encode (.isub t d a b)) 23 3 = 1#3 := part_6_3_2_7_7_7_at_1 _ _ _ _ _ _
  have f21 : fld (encode (.isub t d a b)) 21 2 = t := part_6_3_2_7_7_7_at_2 _ _ _ _ _ _
  have f14 : fld (encode (.isub t d a b)) 14 7 = d := part_6_3_2_7_7_7_at_3 _ _ _ _ _ _
  have f7 : fld (encode (.isub t d a b)) 7 7 = a := part_6_3_2_7_7_7_at_4 _ _ _ _ _ _
  have f0 : fld (encode (.isub t d a b)) 0 7 = b := part_6_3_2_7_7_7_at_5 _ _ _ _ _ _
  simp only [candidate, majorOf, candE, candTileT, f26, f23, f21, f14, f7, f0]
  rfl

theorem imul (t : BitVec 2) (d : BitVec 7) (a : BitVec 7) (b : BitVec 7) : Statement (.imul t d a b) := by
  intro st _ _
  have f26 : fld (encode (.imul t d a b)) 26 6 = 51#6 := part_6_3_2_7_7_7_at_0 _ _ _ _ _ _
  have f23 : fld (encode (.imul t d a b)) 23 3 = 2#3 := part_6_3_2_7_7_7_at_1 _ _ _ _ _ _
  have f21 : fld (encode (.imul t d a b)) 21 2 = t := part_6_3_2_7_7_7_at_2 _ _ _ _ _ _
  have f14 : fld (encode (.imul t d a b)) 14 7 = d := part_6_3_2_7_7_7_at_3 _ _ _ _ _ _
  have f7 : fld (encode (.imul t d a b)) 7 7 = a := part_6_3_2_7_7_7_at_4 _ _ _ _ _ _
  have f0 : fld (encode (.imul t d a b)) 0 7 = b := part_6_3_2_7_7_7_at_5 _ _ _ _ _ _
  simp only [candidate, majorOf, candE, candTileT, f26, f23, f21, f14, f7, f0]
  rfl

theorem imin (t : BitVec 2) (d : BitVec 7) (a : BitVec 7) (b : BitVec 7) : Statement (.imin t d a b) := by
  intro st _ _
  have f26 : fld (encode (.imin t d a b)) 26 6 = 51#6 := part_6_3_2_7_7_7_at_0 _ _ _ _ _ _
  have f23 : fld (encode (.imin t d a b)) 23 3 = 3#3 := part_6_3_2_7_7_7_at_1 _ _ _ _ _ _
  have f21 : fld (encode (.imin t d a b)) 21 2 = t := part_6_3_2_7_7_7_at_2 _ _ _ _ _ _
  have f14 : fld (encode (.imin t d a b)) 14 7 = d := part_6_3_2_7_7_7_at_3 _ _ _ _ _ _
  have f7 : fld (encode (.imin t d a b)) 7 7 = a := part_6_3_2_7_7_7_at_4 _ _ _ _ _ _
  have f0 : fld (encode (.imin t d a b)) 0 7 = b := part_6_3_2_7_7_7_at_5 _ _ _ _ _ _
  simp only [candidate, majorOf, candE, candTileT, f26, f23, f21, f14, f7, f0]
  rfl

theorem imax (t : BitVec 2) (d : BitVec 7) (a : BitVec 7) (b : BitVec 7) : Statement (.imax t d a b) := by
  intro st _ _
  have f26 : fld (encode (.imax t d a b)) 26 6 = 51#6 := part_6_3_2_7_7_7_at_0 _ _ _ _ _ _
  have f23 : fld (encode (.imax t d a b)) 23 3 = 4#3 := part_6_3_2_7_7_7_at_1 _ _ _ _ _ _
  have f21 : fld (encode (.imax t d a b)) 21 2 = t := part_6_3_2_7_7_7_at_2 _ _ _ _ _ _
  have f14 : fld (encode (.imax t d a b)) 14 7 = d := part_6_3_2_7_7_7_at_3 _ _ _ _ _ _
  have f7 : fld (encode (.imax t d a b)) 7 7 = a := part_6_3_2_7_7_7_at_4 _ _ _ _ _ _
  have f0 : fld (encode (.imax t d a b)) 0 7 = b := part_6_3_2_7_7_7_at_5 _ _ _ _ _ _
  simp only [candidate, majorOf, candE, candTileT, f26, f23, f21, f14, f7, f0]
  rfl

theorem iand (t : BitVec 2) (d : BitVec 7) (a : BitVec 7) (b : BitVec 7) : Statement (.iand t d a b) := by
  intro st _ _
  have f26 : fld (encode (.iand t d a b)) 26 6 = 51#6 := part_6_3_2_7_7_7_at_0 _ _ _ _ _ _
  have f23 : fld (encode (.iand t d a b)) 23 3 = 5#3 := part_6_3_2_7_7_7_at_1 _ _ _ _ _ _
  have f21 : fld (encode (.iand t d a b)) 21 2 = t := part_6_3_2_7_7_7_at_2 _ _ _ _ _ _
  have f14 : fld (encode (.iand t d a b)) 14 7 = d := part_6_3_2_7_7_7_at_3 _ _ _ _ _ _
  have f7 : fld (encode (.iand t d a b)) 7 7 = a := part_6_3_2_7_7_7_at_4 _ _ _ _ _ _
  have f0 : fld (encode (.iand t d a b)) 0 7 = b := part_6_3_2_7_7_7_at_5 _ _ _ _ _ _
  simp only [candidate, majorOf, candE, candTileT, f26, f23, f21, f14, f7, f0]
  rfl

theorem ior (t : BitVec 2) (d : BitVec 7) (a : BitVec 7) (b : BitVec 7) : Statement (.ior t d a b) := by
  intro st _ _
  have f26 : fld (encode (.ior t d a b)) 26 6 = 51#6 := part_6_3_2_7_7_7_at_0 _ _ _ _ _ _
  have f23 : fld (encode (.ior t d a b)) 23 3 = 6#3 := part_6_3_2_7_7_7_at_1 _ _ _ _ _ _
  have f21 : fld (encode (.ior t d a b)) 21 2 = t := part_6_3_2_7_7_7_at_2 _ _ _ _ _ _
  have f14 : fld (encode (.ior t d a b)) 14 7 = d := part_6_3_2_7_7_7_at_3 _ _ _ _ _ _
  have f7 : fld (encode (.ior t d a b)) 7 7 = a := part_6_3_2_7_7_7_at_4 _ _ _ _ _ _
  have f0 : fld (encode (.ior t d a b)) 0 7 = b := part_6_3_2_7_7_7_at_5 _ _ _ _ _ _
  simp only [candidate, majorOf, candE, candTileT, f26, f23, f21, f14, f7, f0]
  rfl

theorem ixor (t : BitVec 2) (d : BitVec 7) (a : BitVec 7) (b : BitVec 7) : Statement (.ixor t d a b) := by
  intro st _ _
  have f26 : fld (encode (.ixor t d a b)) 26 6 = 51#6 := part_6_3_2_7_7_7_at_0 _ _ _ _ _ _
  have f23 : fld (encode (.ixor t d a b)) 23 3 = 7#3 := part_6_3_2_7_7_7_at_1 _ _ _ _ _ _
  have f21 : fld (encode (.ixor t d a b)) 21 2 = t := part_6_3_2_7_7_7_at_2 _ _ _ _ _ _
  have f14 : fld (encode (.ixor t d a b)) 14 7 = d := part_6_3_2_7_7_7_at_3 _ _ _ _ _ _
  have f7 : fld (encode (.ixor t d a b)) 7 7 = a := part_6_3_2_7_7_7_at_4 _ _ _ _ _ _
  have f0 : fld (encode (.ixor t d a b)) 0 7 = b := part_6_3_2_7_7_7_at_5 _ _ _ _ _ _
  simp only [candidate, majorOf, candE, candTileT, f26, f23, f21, f14, f7, f0]
  rfl

theorem ishl (t : BitVec 2) (d : BitVec 7) (a : BitVec 7) (sx : BitVec 5) : Statement (.ishl t d a sx) := by
  intro st _ _
  have f26 : fld (encode (.ishl t d a sx)) 26 6 = 52#6 := part_6_3_2_7_7_5_2_at_0 _ _ _ _ _ _ _
  have f23 : fld (encode (.ishl t d a sx)) 23 3 = 0#3 := part_6_3_2_7_7_5_2_at_1 _ _ _ _ _ _ _
  have f21 : fld (encode (.ishl t d a sx)) 21 2 = t := part_6_3_2_7_7_5_2_at_2 _ _ _ _ _ _ _
  have f14 : fld (encode (.ishl t d a sx)) 14 7 = d := part_6_3_2_7_7_5_2_at_3 _ _ _ _ _ _ _
  have f7 : fld (encode (.ishl t d a sx)) 7 7 = a := part_6_3_2_7_7_5_2_at_4 _ _ _ _ _ _ _
  have f2 : fld (encode (.ishl t d a sx)) 2 5 = sx := part_6_3_2_7_7_5_2_at_5 _ _ _ _ _ _ _
  simp only [candidate, majorOf, candE, candTileS, f26, f23, f21, f14, f7, f2]
  rfl

theorem ishr (t : BitVec 2) (d : BitVec 7) (a : BitVec 7) (sx : BitVec 5) : Statement (.ishr t d a sx) := by
  intro st _ _
  have f26 : fld (encode (.ishr t d a sx)) 26 6 = 52#6 := part_6_3_2_7_7_5_2_at_0 _ _ _ _ _ _ _
  have f23 : fld (encode (.ishr t d a sx)) 23 3 = 1#3 := part_6_3_2_7_7_5_2_at_1 _ _ _ _ _ _ _
  have f21 : fld (encode (.ishr t d a sx)) 21 2 = t := part_6_3_2_7_7_5_2_at_2 _ _ _ _ _ _ _
  have f14 : fld (encode (.ishr t d a sx)) 14 7 = d := part_6_3_2_7_7_5_2_at_3 _ _ _ _ _ _ _
  have f7 : fld (encode (.ishr t d a sx)) 7 7 = a := part_6_3_2_7_7_5_2_at_4 _ _ _ _ _ _ _
  have f2 : fld (encode (.ishr t d a sx)) 2 5 = sx := part_6_3_2_7_7_5_2_at_5 _ _ _ _ _ _ _
  simp only [candidate, majorOf, candE, candTileS, f26, f23, f21, f14, f7, f2]
  rfl

theorem isar (t : BitVec 2) (d : BitVec 7) (a : BitVec 7) (sx : BitVec 5) : Statement (.isar t d a sx) := by
  intro st _ _
  have f26 : fld (encode (.isar t d a sx)) 26 6 = 52#6 := part_6_3_2_7_7_5_2_at_0 _ _ _ _ _ _ _
  have f23 : fld (encode (.isar t d a sx)) 23 3 = 2#3 := part_6_3_2_7_7_5_2_at_1 _ _ _ _ _ _ _
  have f21 : fld (encode (.isar t d a sx)) 21 2 = t := part_6_3_2_7_7_5_2_at_2 _ _ _ _ _ _ _
  have f14 : fld (encode (.isar t d a sx)) 14 7 = d := part_6_3_2_7_7_5_2_at_3 _ _ _ _ _ _ _
  have f7 : fld (encode (.isar t d a sx)) 7 7 = a := part_6_3_2_7_7_5_2_at_4 _ _ _ _ _ _ _
  have f2 : fld (encode (.isar t d a sx)) 2 5 = sx := part_6_3_2_7_7_5_2_at_5 _ _ _ _ _ _ _
  simp only [candidate, majorOf, candE, candTileS, f26, f23, f21, f14, f7, f2]
  rfl

theorem bcast (t : BitVec 2) (d : BitVec 7) (sx : BitVec 5) (m : BitVec 2) : Statement (.bcast t d sx m) := by
  intro st _ _
  have f26 : fld (encode (.bcast t d sx m)) 26 6 = 52#6 := part_6_3_2_7_7_5_2_at_0 _ _ _ _ _ _ _
  have f23 : fld (encode (.bcast t d sx m)) 23 3 = 3#3 := part_6_3_2_7_7_5_2_at_1 _ _ _ _ _ _ _
  have f21 : fld (encode (.bcast t d sx m)) 21 2 = t := part_6_3_2_7_7_5_2_at_2 _ _ _ _ _ _ _
  have f14 : fld (encode (.bcast t d sx m)) 14 7 = d := part_6_3_2_7_7_5_2_at_3 _ _ _ _ _ _ _
  have f2 : fld (encode (.bcast t d sx m)) 2 5 = sx := part_6_3_2_7_7_5_2_at_5 _ _ _ _ _ _ _
  have f0 : fld (encode (.bcast t d sx m)) 0 2 = m := part_6_3_2_7_7_5_2_at_6 _ _ _ _ _ _ _
  simp only [candidate, majorOf, candE, candTileS, f26, f23, f21, f14, f2, f0]
  rfl

theorem rowset (t : BitVec 2) (d : BitVec 7) (a : BitVec 7) (sx : BitVec 5) (m : BitVec 2) : Statement (.rowset t d a sx m) := by
  intro st _ _
  have f26 : fld (encode (.rowset t d a sx m)) 26 6 = 52#6 := part_6_3_2_7_7_5_2_at_0 _ _ _ _ _ _ _
  have f23 : fld (encode (.rowset t d a sx m)) 23 3 = 4#3 := part_6_3_2_7_7_5_2_at_1 _ _ _ _ _ _ _
  have f21 : fld (encode (.rowset t d a sx m)) 21 2 = t := part_6_3_2_7_7_5_2_at_2 _ _ _ _ _ _ _
  have f14 : fld (encode (.rowset t d a sx m)) 14 7 = d := part_6_3_2_7_7_5_2_at_3 _ _ _ _ _ _ _
  have f7 : fld (encode (.rowset t d a sx m)) 7 7 = a := part_6_3_2_7_7_5_2_at_4 _ _ _ _ _ _ _
  have f2 : fld (encode (.rowset t d a sx m)) 2 5 = sx := part_6_3_2_7_7_5_2_at_5 _ _ _ _ _ _ _
  have f0 : fld (encode (.rowset t d a sx m)) 0 2 = m := part_6_3_2_7_7_5_2_at_6 _ _ _ _ _ _ _
  simp only [candidate, majorOf, candE, candTileS, f26, f23, f21, f14, f7, f2, f0]
  rfl

theorem fcmpeq (t : BitVec 2) (d : BitVec 7) (a : BitVec 7) (b : BitVec 7) : Statement (.fcmpeq t d a b) := by
  intro st _ _
  have f26 : fld (encode (.fcmpeq t d a b)) 26 6 = 53#6 := part_6_3_2_7_7_7_at_0 _ _ _ _ _ _
  have f23 : fld (encode (.fcmpeq t d a b)) 23 3 = 0#3 := part_6_3_2_7_7_7_at_1 _ _ _ _ _ _
  have f21 : fld (encode (.fcmpeq t d a b)) 21 2 = t := part_6_3_2_7_7_7_at_2 _ _ _ _ _ _
  have f14 : fld (encode (.fcmpeq t d a b)) 14 7 = d := part_6_3_2_7_7_7_at_3 _ _ _ _ _ _
  have f7 : fld (encode (.fcmpeq t d a b)) 7 7 = a := part_6_3_2_7_7_7_at_4 _ _ _ _ _ _
  have f0 : fld (encode (.fcmpeq t d a b)) 0 7 = b := part_6_3_2_7_7_7_at_5 _ _ _ _ _ _
  simp only [candidate, majorOf, candE, candTileT, f26, f23, f21, f14, f7, f0]
  rfl

theorem fcmplt (t : BitVec 2) (d : BitVec 7) (a : BitVec 7) (b : BitVec 7) : Statement (.fcmplt t d a b) := by
  intro st _ _
  have f26 : fld (encode (.fcmplt t d a b)) 26 6 = 53#6 := part_6_3_2_7_7_7_at_0 _ _ _ _ _ _
  have f23 : fld (encode (.fcmplt t d a b)) 23 3 = 1#3 := part_6_3_2_7_7_7_at_1 _ _ _ _ _ _
  have f21 : fld (encode (.fcmplt t d a b)) 21 2 = t := part_6_3_2_7_7_7_at_2 _ _ _ _ _ _
  have f14 : fld (encode (.fcmplt t d a b)) 14 7 = d := part_6_3_2_7_7_7_at_3 _ _ _ _ _ _
  have f7 : fld (encode (.fcmplt t d a b)) 7 7 = a := part_6_3_2_7_7_7_at_4 _ _ _ _ _ _
  have f0 : fld (encode (.fcmplt t d a b)) 0 7 = b := part_6_3_2_7_7_7_at_5 _ _ _ _ _ _
  simp only [candidate, majorOf, candE, candTileT, f26, f23, f21, f14, f7, f0]
  rfl

theorem fcmple (t : BitVec 2) (d : BitVec 7) (a : BitVec 7) (b : BitVec 7) : Statement (.fcmple t d a b) := by
  intro st _ _
  have f26 : fld (encode (.fcmple t d a b)) 26 6 = 53#6 := part_6_3_2_7_7_7_at_0 _ _ _ _ _ _
  have f23 : fld (encode (.fcmple t d a b)) 23 3 = 2#3 := part_6_3_2_7_7_7_at_1 _ _ _ _ _ _
  have f21 : fld (encode (.fcmple t d a b)) 21 2 = t := part_6_3_2_7_7_7_at_2 _ _ _ _ _ _
  have f14 : fld (encode (.fcmple t d a b)) 14 7 = d := part_6_3_2_7_7_7_at_3 _ _ _ _ _ _
  have f7 : fld (encode (.fcmple t d a b)) 7 7 = a := part_6_3_2_7_7_7_at_4 _ _ _ _ _ _
  have f0 : fld (encode (.fcmple t d a b)) 0 7 = b := part_6_3_2_7_7_7_at_5 _ _ _ _ _ _
  simp only [candidate, majorOf, candE, candTileT, f26, f23, f21, f14, f7, f0]
  rfl

theorem fcmpun (t : BitVec 2) (d : BitVec 7) (a : BitVec 7) (b : BitVec 7) : Statement (.fcmpun t d a b) := by
  intro st _ _
  have f26 : fld (encode (.fcmpun t d a b)) 26 6 = 53#6 := part_6_3_2_7_7_7_at_0 _ _ _ _ _ _
  have f23 : fld (encode (.fcmpun t d a b)) 23 3 = 3#3 := part_6_3_2_7_7_7_at_1 _ _ _ _ _ _
  have f21 : fld (encode (.fcmpun t d a b)) 21 2 = t := part_6_3_2_7_7_7_at_2 _ _ _ _ _ _
  have f14 : fld (encode (.fcmpun t d a b)) 14 7 = d := part_6_3_2_7_7_7_at_3 _ _ _ _ _ _
  have f7 : fld (encode (.fcmpun t d a b)) 7 7 = a := part_6_3_2_7_7_7_at_4 _ _ _ _ _ _
  have f0 : fld (encode (.fcmpun t d a b)) 0 7 = b := part_6_3_2_7_7_7_at_5 _ _ _ _ _ _
  simp only [candidate, majorOf, candE, candTileT, f26, f23, f21, f14, f7, f0]
  rfl

theorem icmpeq (t : BitVec 2) (d : BitVec 7) (a : BitVec 7) (b : BitVec 7) : Statement (.icmpeq t d a b) := by
  intro st _ _
  have f26 : fld (encode (.icmpeq t d a b)) 26 6 = 53#6 := part_6_3_2_7_7_7_at_0 _ _ _ _ _ _
  have f23 : fld (encode (.icmpeq t d a b)) 23 3 = 4#3 := part_6_3_2_7_7_7_at_1 _ _ _ _ _ _
  have f21 : fld (encode (.icmpeq t d a b)) 21 2 = t := part_6_3_2_7_7_7_at_2 _ _ _ _ _ _
  have f14 : fld (encode (.icmpeq t d a b)) 14 7 = d := part_6_3_2_7_7_7_at_3 _ _ _ _ _ _
  have f7 : fld (encode (.icmpeq t d a b)) 7 7 = a := part_6_3_2_7_7_7_at_4 _ _ _ _ _ _
  have f0 : fld (encode (.icmpeq t d a b)) 0 7 = b := part_6_3_2_7_7_7_at_5 _ _ _ _ _ _
  simp only [candidate, majorOf, candE, candTileT, f26, f23, f21, f14, f7, f0]
  rfl

theorem icmplt (t : BitVec 2) (d : BitVec 7) (a : BitVec 7) (b : BitVec 7) : Statement (.icmplt t d a b) := by
  intro st _ _
  have f26 : fld (encode (.icmplt t d a b)) 26 6 = 53#6 := part_6_3_2_7_7_7_at_0 _ _ _ _ _ _
  have f23 : fld (encode (.icmplt t d a b)) 23 3 = 5#3 := part_6_3_2_7_7_7_at_1 _ _ _ _ _ _
  have f21 : fld (encode (.icmplt t d a b)) 21 2 = t := part_6_3_2_7_7_7_at_2 _ _ _ _ _ _
  have f14 : fld (encode (.icmplt t d a b)) 14 7 = d := part_6_3_2_7_7_7_at_3 _ _ _ _ _ _
  have f7 : fld (encode (.icmplt t d a b)) 7 7 = a := part_6_3_2_7_7_7_at_4 _ _ _ _ _ _
  have f0 : fld (encode (.icmplt t d a b)) 0 7 = b := part_6_3_2_7_7_7_at_5 _ _ _ _ _ _
  simp only [candidate, majorOf, candE, candTileT, f26, f23, f21, f14, f7, f0]
  rfl

theorem icmpltu (t : BitVec 2) (d : BitVec 7) (a : BitVec 7) (b : BitVec 7) : Statement (.icmpltu t d a b) := by
  intro st _ _
  have f26 : fld (encode (.icmpltu t d a b)) 26 6 = 53#6 := part_6_3_2_7_7_7_at_0 _ _ _ _ _ _
  have f23 : fld (encode (.icmpltu t d a b)) 23 3 = 6#3 := part_6_3_2_7_7_7_at_1 _ _ _ _ _ _
  have f21 : fld (encode (.icmpltu t d a b)) 21 2 = t := part_6_3_2_7_7_7_at_2 _ _ _ _ _ _
  have f14 : fld (encode (.icmpltu t d a b)) 14 7 = d := part_6_3_2_7_7_7_at_3 _ _ _ _ _ _
  have f7 : fld (encode (.icmpltu t d a b)) 7 7 = a := part_6_3_2_7_7_7_at_4 _ _ _ _ _ _
  have f0 : fld (encode (.icmpltu t d a b)) 0 7 = b := part_6_3_2_7_7_7_at_5 _ _ _ _ _ _
  simp only [candidate, majorOf, candE, candTileT, f26, f23, f21, f14, f7, f0]
  rfl

theorem rsum (t : BitVec 2) (d : BitVec 7) (a : BitVec 7) : Statement (.rsum t d a) := by
  intro st _ _
  have f26 : fld (encode (.rsum t d a)) 26 6 = 54#6 := part_6_3_2_7_7_7_at_0 _ _ _ _ _ _
  have f23 : fld (encode (.rsum t d a)) 23 3 = 0#3 := part_6_3_2_7_7_7_at_1 _ _ _ _ _ _
  have f21 : fld (encode (.rsum t d a)) 21 2 = t := part_6_3_2_7_7_7_at_2 _ _ _ _ _ _
  have f14 : fld (encode (.rsum t d a)) 14 7 = d := part_6_3_2_7_7_7_at_3 _ _ _ _ _ _
  have f7 : fld (encode (.rsum t d a)) 7 7 = a := part_6_3_2_7_7_7_at_4 _ _ _ _ _ _
  simp only [candidate, majorOf, candE, candTileT, f26, f23, f21, f14, f7]
  rfl

theorem rsumsq (t : BitVec 2) (d : BitVec 7) (a : BitVec 7) : Statement (.rsumsq t d a) := by
  intro st _ _
  have f26 : fld (encode (.rsumsq t d a)) 26 6 = 54#6 := part_6_3_2_7_7_7_at_0 _ _ _ _ _ _
  have f23 : fld (encode (.rsumsq t d a)) 23 3 = 1#3 := part_6_3_2_7_7_7_at_1 _ _ _ _ _ _
  have f21 : fld (encode (.rsumsq t d a)) 21 2 = t := part_6_3_2_7_7_7_at_2 _ _ _ _ _ _
  have f14 : fld (encode (.rsumsq t d a)) 14 7 = d := part_6_3_2_7_7_7_at_3 _ _ _ _ _ _
  have f7 : fld (encode (.rsumsq t d a)) 7 7 = a := part_6_3_2_7_7_7_at_4 _ _ _ _ _ _
  simp only [candidate, majorOf, candE, candTileT, f26, f23, f21, f14, f7]
  rfl

theorem rmax (t : BitVec 2) (d : BitVec 7) (a : BitVec 7) : Statement (.rmax t d a) := by
  intro st _ _
  have f26 : fld (encode (.rmax t d a)) 26 6 = 54#6 := part_6_3_2_7_7_7_at_0 _ _ _ _ _ _
  have f23 : fld (encode (.rmax t d a)) 23 3 = 2#3 := part_6_3_2_7_7_7_at_1 _ _ _ _ _ _
  have f21 : fld (encode (.rmax t d a)) 21 2 = t := part_6_3_2_7_7_7_at_2 _ _ _ _ _ _
  have f14 : fld (encode (.rmax t d a)) 14 7 = d := part_6_3_2_7_7_7_at_3 _ _ _ _ _ _
  have f7 : fld (encode (.rmax t d a)) 7 7 = a := part_6_3_2_7_7_7_at_4 _ _ _ _ _ _
  simp only [candidate, majorOf, candE, candTileT, f26, f23, f21, f14, f7]
  rfl

theorem rmin (t : BitVec 2) (d : BitVec 7) (a : BitVec 7) : Statement (.rmin t d a) := by
  intro st _ _
  have f26 : fld (encode (.rmin t d a)) 26 6 = 54#6 := part_6_3_2_7_7_7_at_0 _ _ _ _ _ _
  have f23 : fld (encode (.rmin t d a)) 23 3 = 3#3 := part_6_3_2_7_7_7_at_1 _ _ _ _ _ _
  have f21 : fld (encode (.rmin t d a)) 21 2 = t := part_6_3_2_7_7_7_at_2 _ _ _ _ _ _
  have f14 : fld (encode (.rmin t d a)) 14 7 = d := part_6_3_2_7_7_7_at_3 _ _ _ _ _ _
  have f7 : fld (encode (.rmin t d a)) 7 7 = a := part_6_3_2_7_7_7_at_4 _ _ _ _ _ _
  simp only [candidate, majorOf, candE, candTileT, f26, f23, f21, f14, f7]
  rfl

theorem rargmax (t : BitVec 2) (d : BitVec 7) (a : BitVec 7) : Statement (.rargmax t d a) := by
  intro st _ _
  have f26 : fld (encode (.rargmax t d a)) 26 6 = 54#6 := part_6_3_2_7_7_7_at_0 _ _ _ _ _ _
  have f23 : fld (encode (.rargmax t d a)) 23 3 = 4#3 := part_6_3_2_7_7_7_at_1 _ _ _ _ _ _
  have f21 : fld (encode (.rargmax t d a)) 21 2 = t := part_6_3_2_7_7_7_at_2 _ _ _ _ _ _
  have f14 : fld (encode (.rargmax t d a)) 14 7 = d := part_6_3_2_7_7_7_at_3 _ _ _ _ _ _
  have f7 : fld (encode (.rargmax t d a)) 7 7 = a := part_6_3_2_7_7_7_at_4 _ _ _ _ _ _
  simp only [candidate, majorOf, candE, candTileT, f26, f23, f21, f14, f7]
  rfl

theorem rargmin (t : BitVec 2) (d : BitVec 7) (a : BitVec 7) : Statement (.rargmin t d a) := by
  intro st _ _
  have f26 : fld (encode (.rargmin t d a)) 26 6 = 54#6 := part_6_3_2_7_7_7_at_0 _ _ _ _ _ _
  have f23 : fld (encode (.rargmin t d a)) 23 3 = 5#3 := part_6_3_2_7_7_7_at_1 _ _ _ _ _ _
  have f21 : fld (encode (.rargmin t d a)) 21 2 = t := part_6_3_2_7_7_7_at_2 _ _ _ _ _ _
  have f14 : fld (encode (.rargmin t d a)) 14 7 = d := part_6_3_2_7_7_7_at_3 _ _ _ _ _ _
  have f7 : fld (encode (.rargmin t d a)) 7 7 = a := part_6_3_2_7_7_7_at_4 _ _ _ _ _ _
  simp only [candidate, majorOf, candE, candTileT, f26, f23, f21, f14, f7]
  rfl

theorem perm (t : BitVec 2) (d : BitVec 7) (a : BitVec 7) (b : BitVec 7) : Statement (.perm t d a b) := by
  intro st _ _
  have f26 : fld (encode (.perm t d a b)) 26 6 = 55#6 := part_6_3_2_7_7_7_at_0 _ _ _ _ _ _
  have f23 : fld (encode (.perm t d a b)) 23 3 = 0#3 := part_6_3_2_7_7_7_at_1 _ _ _ _ _ _
  have f21 : fld (encode (.perm t d a b)) 21 2 = t := part_6_3_2_7_7_7_at_2 _ _ _ _ _ _
  have f14 : fld (encode (.perm t d a b)) 14 7 = d := part_6_3_2_7_7_7_at_3 _ _ _ _ _ _
  have f7 : fld (encode (.perm t d a b)) 7 7 = a := part_6_3_2_7_7_7_at_4 _ _ _ _ _ _
  have f0 : fld (encode (.perm t d a b)) 0 7 = b := part_6_3_2_7_7_7_at_5 _ _ _ _ _ _
  simp only [candidate, majorOf, candE, candTileS, f26, f23, f21, f14, f7, f0]
  rfl

theorem sel (t : BitVec 2) (d : BitVec 7) (a : BitVec 7) (b : BitVec 7) : Statement (.sel t d a b) := by
  intro st _ _
  have f26 : fld (encode (.sel t d a b)) 26 6 = 55#6 := part_6_3_2_7_7_7_at_0 _ _ _ _ _ _
  have f23 : fld (encode (.sel t d a b)) 23 3 = 1#3 := part_6_3_2_7_7_7_at_1 _ _ _ _ _ _
  have f21 : fld (encode (.sel t d a b)) 21 2 = t := part_6_3_2_7_7_7_at_2 _ _ _ _ _ _
  have f14 : fld (encode (.sel t d a b)) 14 7 = d := part_6_3_2_7_7_7_at_3 _ _ _ _ _ _
  have f7 : fld (encode (.sel t d a b)) 7 7 = a := part_6_3_2_7_7_7_at_4 _ _ _ _ _ _
  have f0 : fld (encode (.sel t d a b)) 0 7 = b := part_6_3_2_7_7_7_at_5 _ _ _ _ _ _
  simp only [candidate, majorOf, candE, candTileS, f26, f23, f21, f14, f7, f0]
  rfl

theorem lshift (t : BitVec 2) (d : BitVec 7) (a : BitVec 7) (sx : BitVec 5) (m : BitVec 2) : Statement (.lshift t d a sx m) := by
  intro st _ _
  have f26 : fld (encode (.lshift t d a sx m)) 26 6 = 55#6 := part_6_3_2_7_7_5_2_at_0 _ _ _ _ _ _ _
  have f23 : fld (encode (.lshift t d a sx m)) 23 3 = 2#3 := part_6_3_2_7_7_5_2_at_1 _ _ _ _ _ _ _
  have f21 : fld (encode (.lshift t d a sx m)) 21 2 = t := part_6_3_2_7_7_5_2_at_2 _ _ _ _ _ _ _
  have f14 : fld (encode (.lshift t d a sx m)) 14 7 = d := part_6_3_2_7_7_5_2_at_3 _ _ _ _ _ _ _
  have f7 : fld (encode (.lshift t d a sx m)) 7 7 = a := part_6_3_2_7_7_5_2_at_4 _ _ _ _ _ _ _
  have f2 : fld (encode (.lshift t d a sx m)) 2 5 = sx := part_6_3_2_7_7_5_2_at_5 _ _ _ _ _ _ _
  have f0 : fld (encode (.lshift t d a sx m)) 0 2 = m := part_6_3_2_7_7_5_2_at_6 _ _ _ _ _ _ _
  simp only [candidate, majorOf, candE, candTileS, f26, f23, f21, f14, f7, f2, f0]
  rfl

theorem lrot (t : BitVec 2) (d : BitVec 7) (a : BitVec 7) (sx : BitVec 5) (m : BitVec 2) : Statement (.lrot t d a sx m) := by
  intro st _ _
  have f26 : fld (encode (.lrot t d a sx m)) 26 6 = 55#6 := part_6_3_2_7_7_5_2_at_0 _ _ _ _ _ _ _
  have f23 : fld (encode (.lrot t d a sx m)) 23 3 = 3#3 := part_6_3_2_7_7_5_2_at_1 _ _ _ _ _ _ _
  have f21 : fld (encode (.lrot t d a sx m)) 21 2 = t := part_6_3_2_7_7_5_2_at_2 _ _ _ _ _ _ _
  have f14 : fld (encode (.lrot t d a sx m)) 14 7 = d := part_6_3_2_7_7_5_2_at_3 _ _ _ _ _ _ _
  have f7 : fld (encode (.lrot t d a sx m)) 7 7 = a := part_6_3_2_7_7_5_2_at_4 _ _ _ _ _ _ _
  have f2 : fld (encode (.lrot t d a sx m)) 2 5 = sx := part_6_3_2_7_7_5_2_at_5 _ _ _ _ _ _ _
  have f0 : fld (encode (.lrot t d a sx m)) 0 2 = m := part_6_3_2_7_7_5_2_at_6 _ _ _ _ _ _ _
  simp only [candidate, majorOf, candE, candTileS, f26, f23, f21, f14, f7, f2, f0]
  rfl

theorem bfly (t : BitVec 2) (d : BitVec 7) (a : BitVec 7) (b : BitVec 7) : Statement (.bfly t d a b) := by
  intro st _ _
  have f26 : fld (encode (.bfly t d a b)) 26 6 = 56#6 := part_6_3_2_7_7_7_at_0 _ _ _ _ _ _
  have f23 : fld (encode (.bfly t d a b)) 23 3 = 0#3 := part_6_3_2_7_7_7_at_1 _ _ _ _ _ _
  have f21 : fld (encode (.bfly t d a b)) 21 2 = t := part_6_3_2_7_7_7_at_2 _ _ _ _ _ _
  have f14 : fld (encode (.bfly t d a b)) 14 7 = d := part_6_3_2_7_7_7_at_3 _ _ _ _ _ _
  have f7 : fld (encode (.bfly t d a b)) 7 7 = a := part_6_3_2_7_7_7_at_4 _ _ _ _ _ _
  have f0 : fld (encode (.bfly t d a b)) 0 7 = b := part_6_3_2_7_7_7_at_5 _ _ _ _ _ _
  simp only [candidate, majorOf, candE, candTileS, f26, f23, f21, f14, f7, f0]
  rfl

theorem twid (t : BitVec 2) (d : BitVec 7) (a : BitVec 7) (sx : BitVec 5) (m : BitVec 2) : Statement (.twid t d a sx m) := by
  intro st _ _
  have f26 : fld (encode (.twid t d a sx m)) 26 6 = 56#6 := part_6_3_2_7_7_5_2_at_0 _ _ _ _ _ _ _
  have f23 : fld (encode (.twid t d a sx m)) 23 3 = 1#3 := part_6_3_2_7_7_5_2_at_1 _ _ _ _ _ _ _
  have f21 : fld (encode (.twid t d a sx m)) 21 2 = t := part_6_3_2_7_7_5_2_at_2 _ _ _ _ _ _ _
  have f14 : fld (encode (.twid t d a sx m)) 14 7 = d := part_6_3_2_7_7_5_2_at_3 _ _ _ _ _ _ _
  have f7 : fld (encode (.twid t d a sx m)) 7 7 = a := part_6_3_2_7_7_5_2_at_4 _ _ _ _ _ _ _
  have f2 : fld (encode (.twid t d a sx m)) 2 5 = sx := part_6_3_2_7_7_5_2_at_5 _ _ _ _ _ _ _
  have f0 : fld (encode (.twid t d a sx m)) 0 2 = m := part_6_3_2_7_7_5_2_at_6 _ _ _ _ _ _ _
  simp only [candidate, majorOf, candE, candTileS, f26, f23, f21, f14, f7, f2, f0]
  rfl

theorem cmul (t : BitVec 2) (d : BitVec 7) (a : BitVec 7) (b : BitVec 7) : Statement (.cmul t d a b) := by
  intro st _ _
  have f26 : fld (encode (.cmul t d a b)) 26 6 = 56#6 := part_6_3_2_7_7_7_at_0 _ _ _ _ _ _
  have f23 : fld (encode (.cmul t d a b)) 23 3 = 2#3 := part_6_3_2_7_7_7_at_1 _ _ _ _ _ _
  have f21 : fld (encode (.cmul t d a b)) 21 2 = t := part_6_3_2_7_7_7_at_2 _ _ _ _ _ _
  have f14 : fld (encode (.cmul t d a b)) 14 7 = d := part_6_3_2_7_7_7_at_3 _ _ _ _ _ _
  have f7 : fld (encode (.cmul t d a b)) 7 7 = a := part_6_3_2_7_7_7_at_4 _ _ _ _ _ _
  have f0 : fld (encode (.cmul t d a b)) 0 7 = b := part_6_3_2_7_7_7_at_5 _ _ _ _ _ _
  simp only [candidate, majorOf, candE, candTileS, f26, f23, f21, f14, f7, f0]
  rfl

theorem conj (t : BitVec 2) (d : BitVec 7) (a : BitVec 7) : Statement (.conj t d a) := by
  intro st _ _
  have f26 : fld (encode (.conj t d a)) 26 6 = 56#6 := part_6_3_2_7_7_7_at_0 _ _ _ _ _ _
  have f23 : fld (encode (.conj t d a)) 23 3 = 3#3 := part_6_3_2_7_7_7_at_1 _ _ _ _ _ _
  have f21 : fld (encode (.conj t d a)) 21 2 = t := part_6_3_2_7_7_7_at_2 _ _ _ _ _ _
  have f14 : fld (encode (.conj t d a)) 14 7 = d := part_6_3_2_7_7_7_at_3 _ _ _ _ _ _
  have f7 : fld (encode (.conj t d a)) 7 7 = a := part_6_3_2_7_7_7_at_4 _ _ _ _ _ _
  simp only [candidate, majorOf, candE, candTileS, f26, f23, f21, f14, f7]
  rfl

theorem rowget (t : BitVec 2) (a : BitVec 7) (sx : BitVec 5) (m : BitVec 2) : Statement (.rowget t a sx m) := by
  intro st _ _
  have f26 : fld (encode (.rowget t a sx m)) 26 6 = 57#6 := part_6_3_2_7_7_5_2_at_0 _ _ _ _ _ _ _
  have f23 : fld (encode (.rowget t a sx m)) 23 3 = 0#3 := part_6_3_2_7_7_5_2_at_1 _ _ _ _ _ _ _
  have f21 : fld (encode (.rowget t a sx m)) 21 2 = t := part_6_3_2_7_7_5_2_at_2 _ _ _ _ _ _ _
  have f7 : fld (encode (.rowget t a sx m)) 7 7 = a := part_6_3_2_7_7_5_2_at_4 _ _ _ _ _ _ _
  have f2 : fld (encode (.rowget t a sx m)) 2 5 = sx := part_6_3_2_7_7_5_2_at_5 _ _ _ _ _ _ _
  have f0 : fld (encode (.rowget t a sx m)) 0 2 = m := part_6_3_2_7_7_5_2_at_6 _ _ _ _ _ _ _
  simp only [candidate, majorOf, candE, candTileS, f26, f23, f21, f7, f2, f0]
  rfl

theorem rowput (t : BitVec 2) (d : BitVec 7) (a : BitVec 7) (sx : BitVec 5) : Statement (.rowput t d a sx) := by
  intro st _ _
  have f26 : fld (encode (.rowput t d a sx)) 26 6 = 57#6 := part_6_3_2_7_7_5_2_at_0 _ _ _ _ _ _ _
  have f23 : fld (encode (.rowput t d a sx)) 23 3 = 1#3 := part_6_3_2_7_7_5_2_at_1 _ _ _ _ _ _ _
  have f21 : fld (encode (.rowput t d a sx)) 21 2 = t := part_6_3_2_7_7_5_2_at_2 _ _ _ _ _ _ _
  have f14 : fld (encode (.rowput t d a sx)) 14 7 = d := part_6_3_2_7_7_5_2_at_3 _ _ _ _ _ _ _
  have f7 : fld (encode (.rowput t d a sx)) 7 7 = a := part_6_3_2_7_7_5_2_at_4 _ _ _ _ _ _ _
  have f2 : fld (encode (.rowput t d a sx)) 2 5 = sx := part_6_3_2_7_7_5_2_at_5 _ _ _ _ _ _ _
  simp only [candidate, majorOf, candE, candTileS, f26, f23, f21, f14, f7, f2]
  rfl

theorem rowmov (t : BitVec 2) (d : BitVec 7) (a : BitVec 7) : Statement (.rowmov t d a) := by
  intro st _ _
  have f26 : fld (encode (.rowmov t d a)) 26 6 = 57#6 := part_6_3_2_7_7_7_at_0 _ _ _ _ _ _
  have f23 : fld (encode (.rowmov t d a)) 23 3 = 2#3 := part_6_3_2_7_7_7_at_1 _ _ _ _ _ _
  have f21 : fld (encode (.rowmov t d a)) 21 2 = t := part_6_3_2_7_7_7_at_2 _ _ _ _ _ _
  have f14 : fld (encode (.rowmov t d a)) 14 7 = d := part_6_3_2_7_7_7_at_3 _ _ _ _ _ _
  have f7 : fld (encode (.rowmov t d a)) 7 7 = a := part_6_3_2_7_7_7_at_4 _ _ _ _ _ _
  simp only [candidate, majorOf, candE, candTileS, f26, f23, f21, f14, f7]
  rfl

theorem rowzero (t : BitVec 2) (d : BitVec 7) : Statement (.rowzero t d) := by
  intro st _ _
  have f26 : fld (encode (.rowzero t d)) 26 6 = 57#6 := part_6_3_2_7_7_7_at_0 _ _ _ _ _ _
  have f23 : fld (encode (.rowzero t d)) 23 3 = 3#3 := part_6_3_2_7_7_7_at_1 _ _ _ _ _ _
  have f21 : fld (encode (.rowzero t d)) 21 2 = t := part_6_3_2_7_7_7_at_2 _ _ _ _ _ _
  have f14 : fld (encode (.rowzero t d)) 14 7 = d := part_6_3_2_7_7_7_at_3 _ _ _ _ _ _
  simp only [candidate, majorOf, candE, candTileS, f26, f23, f21, f14]
  rfl

theorem rngrow (t : BitVec 2) (d : BitVec 7) (sx : BitVec 5) : Statement (.rngrow t d sx) := by
  intro st _ _
  have f26 : fld (encode (.rngrow t d sx)) 26 6 = 57#6 := part_6_3_2_7_7_5_2_at_0 _ _ _ _ _ _ _
  have f23 : fld (encode (.rngrow t d sx)) 23 3 = 4#3 := part_6_3_2_7_7_5_2_at_1 _ _ _ _ _ _ _
  have f21 : fld (encode (.rngrow t d sx)) 21 2 = t := part_6_3_2_7_7_5_2_at_2 _ _ _ _ _ _ _
  have f14 : fld (encode (.rngrow t d sx)) 14 7 = d := part_6_3_2_7_7_5_2_at_3 _ _ _ _ _ _ _
  have f2 : fld (encode (.rngrow t d sx)) 2 5 = sx := part_6_3_2_7_7_5_2_at_5 _ _ _ _ _ _ _
  simp only [candidate, majorOf, candE, candTileS, f26, f23, f21, f14, f2]
  rfl

theorem sortk (t : BitVec 2) (d : BitVec 7) (a : BitVec 7) (b : BitVec 7) : Statement (.sortk t d a b) := by
  intro st _ _
  have f26 : fld (encode (.sortk t d a b)) 26 6 = 57#6 := part_6_3_2_7_7_7_at_0 _ _ _ _ _ _
  have f23 : fld (encode (.sortk t d a b)) 23 3 = 5#3 := part_6_3_2_7_7_7_at_1 _ _ _ _ _ _
  have f21 : fld (encode (.sortk t d a b)) 21 2 = t := part_6_3_2_7_7_7_at_2 _ _ _ _ _ _
  have f14 : fld (encode (.sortk t d a b)) 14 7 = d := part_6_3_2_7_7_7_at_3 _ _ _ _ _ _
  have f7 : fld (encode (.sortk t d a b)) 7 7 = a := part_6_3_2_7_7_7_at_4 _ _ _ _ _ _
  have f0 : fld (encode (.sortk t d a b)) 0 7 = b := part_6_3_2_7_7_7_at_5 _ _ _ _ _ _
  simp only [candidate, majorOf, candE, candTileS, f26, f23, f21, f14, f7, f0]
  rfl

theorem tmirror (t : BitVec 2) (d : BitVec 3) : Statement (.tmirror t d) := by
  intro st _ _
  have f26 : fld (encode (.tmirror t d)) 26 6 = 58#6 := part_6_3_2_7_7_7_at_0 _ _ _ _ _ _
  have f23 : fld (encode (.tmirror t d)) 23 3 = 0#3 := part_6_3_2_7_7_7_at_1 _ _ _ _ _ _
  have f21 : fld (encode (.tmirror t d)) 21 2 = t := part_6_3_2_7_7_7_at_2 _ _ _ _ _ _
  have f18 : fld (encode (.tmirror t d)) 18 3 = d := by
    show (58#6 ++ 0#3 ++ t ++ (d ++ 0#4) ++ 0#7 ++ 0#7 : BitVec (6+3+2+7+7+7)).extractLsb' 18 3 = _
    rw [fieldAbove (by decide), fieldAbove (by decide), fieldBelow (by decide), fieldAbove (by decide)]
    exact BitVec.extractLsb'_eq_self
  simp only [candidate, majorOf, candE, candTileS, f26, f23, f21, f18]
  rfl

theorem trot (t : BitVec 2) (d : BitVec 3) : Statement (.trot t d) := by
  intro st _ _
  have f26 : fld (encode (.trot t d)) 26 6 = 58#6 := part_6_3_2_7_7_7_at_0 _ _ _ _ _ _
  have f23 : fld (encode (.trot t d)) 23 3 = 1#3 := part_6_3_2_7_7_7_at_1 _ _ _ _ _ _
  have f21 : fld (encode (.trot t d)) 21 2 = t := part_6_3_2_7_7_7_at_2 _ _ _ _ _ _
  have f18 : fld (encode (.trot t d)) 18 3 = d := by
    show (58#6 ++ 1#3 ++ t ++ (d ++ 0#4) ++ 0#7 ++ 0#7 : BitVec (6+3+2+7+7+7)).extractLsb' 18 3 = _
    rw [fieldAbove (by decide), fieldAbove (by decide), fieldBelow (by decide), fieldAbove (by decide)]
    exact BitVec.extractLsb'_eq_self
  simp only [candidate, majorOf, candE, candTileS, f26, f23, f21, f18]
  rfl

theorem tileResultLand (core : Nat) (slot : Nat) (idx : Nat) : Statement (.tileResultLand core slot idx) := fun st h _ => (noWord st _ rfl (by intro h; cases h) h).elim

theorem storePerform (core : Nat) (slot : Nat) (idx : Nat) : Statement (.storePerform core slot idx) := fun st h _ => (noWord st _ rfl (by intro h; cases h) h).elim

theorem mailboxDeliver (idx : Nat) : Statement (.mailboxDeliver idx) := fun st h _ => (noWord st _ rfl (by intro h; cases h) h).elim

theorem wakewaitWake (core : Nat) (slot : Nat) : Statement (.wakewaitWake core slot) := fun st h _ => (noWord st _ rfl (by intro h; cases h) h).elim

theorem resultElementPlace (eng : Nat) (src : Nat) : Statement (.resultElementPlace eng src) := fun st h _ => (noWord st _ rfl (by intro h; cases h) h).elim

theorem trapEntry (core : Nat) (slot : Nat) : Statement (.trapEntry core slot) := fun st h _ => (noWord st _ rfl (by intro h; cases h) h).elim

theorem invctlWrite (a : BitVec 5) : Statement (.invctlWrite a) := fun st h _ => (noWord st _ rfl (by intro h; cases h) h).elim

theorem slotCounterWrite (c : BitVec 5) (a : BitVec 5) : Statement (.slotCounterWrite c a) := fun st h _ => (noWord st _ rfl (by intro h; cases h) h).elim

theorem domsetWrite (a : BitVec 5) : Statement (.domsetWrite a) := fun st h _ => (noWord st _ rfl (by intro h; cases h) h).elim

theorem tfmtWrite (a : BitVec 5) : Statement (.tfmtWrite a) := fun st h _ => (noWord st _ rfl (by intro h; cases h) h).elim

theorem hostatomWrite (a : BitVec 5) : Statement (.hostatomWrite a) := fun st h _ => (noWord st _ rfl (by intro h; cases h) h).elim

theorem ckick (core : Nat) (eng : Nat) : Statement (.ckick core eng) := fun st h _ => (noWord st _ rfl (by intro h; cases h) h).elim

theorem cresume (core : Nat) (eng : Nat) : Statement (.cresume core eng) := fun st h _ => (noWord st _ rfl (by intro h; cases h) h).elim

theorem cabort (core : Nat) (eng : Nat) : Statement (.cabort core eng) := fun st h _ => (noWord st _ rfl (by intro h; cases h) h).elim

theorem copy (core : Nat) (eng : Nat) (ch : Nat) : Statement (.copy core eng ch) := fun st h _ => (noWord st _ rfl (by intro h; cases h) h).elim

theorem gather (core : Nat) (eng : Nat) (ch : Nat) : Statement (.gather core eng ch) := fun st h _ => (noWord st _ rfl (by intro h; cases h) h).elim

theorem scatter (core : Nat) (eng : Nat) (ch : Nat) : Statement (.scatter core eng ch) := fun st h _ => (noWord st _ rfl (by intro h; cases h) h).elim

theorem coord (core : Nat) (eng : Nat) (ch : Nat) : Statement (.coord core eng ch) := fun st h _ => (noWord st _ rfl (by intro h; cases h) h).elim

theorem hinge (core : Nat) (eng : Nat) (ch : Nat) : Statement (.hinge core eng ch) := fun st h _ => (noWord st _ rfl (by intro h; cases h) h).elim

theorem link (core : Nat) (eng : Nat) (ch : Nat) : Statement (.link core eng ch) := fun st h _ => (noWord st _ rfl (by intro h; cases h) h).elim

theorem chainEntryComplete (core : Nat) (eng : Nat) (ch : Nat) : Statement (.chainEntryComplete core eng ch) := fun st h _ => (noWord st _ rfl (by intro h; cases h) h).elim

theorem refillRequest (core : Nat) (line : Nat) : Statement (.refillRequest core line) := fun st h _ => (noWord st _ rfl (by intro h; cases h) h).elim

theorem refillDone (core : Nat) (eng : Nat) (ch : Nat) : Statement (.refillDone core eng ch) := fun st h _ => (noWord st _ rfl (by intro h; cases h) h).elim

theorem chainCmdbound (core : Nat) (eng : Nat) (ch : Nat) : Statement (.chainCmdbound core eng ch) := fun st h _ => (noWord st _ rfl (by intro h; cases h) h).elim

theorem mloadw (core : Nat) : Statement (.mloadw core) := fun st h _ => (noWord st _ rfl (by intro h; cases h) h).elim

theorem mswap (core : Nat) : Statement (.mswap core) := fun st h _ => (noWord st _ rfl (by intro h; cases h) h).elim

theorem mmul (core : Nat) : Statement (.mmul core) := fun st h _ => (noWord st _ rfl (by intro h; cases h) h).elim

theorem mdrain (core : Nat) : Statement (.mdrain core) := fun st h _ => (noWord st _ rfl (by intro h; cases h) h).elim

theorem mkat (core : Nat) : Statement (.mkat core) := fun st h _ => (noWord st _ rfl (by intro h; cases h) h).elim

theorem matComplete (core : Nat) (idx : Nat) : Statement (.matComplete core idx) := fun st h _ => (noWord st _ rfl (by intro h; cases h) h).elim

theorem matRefillResult (core : Nat) : Statement (.matRefillResult core) := fun st h _ => (noWord st _ rfl (by intro h; cases h) h).elim

theorem matCmdbound (core : Nat) : Statement (.matCmdbound core) := fun st h _ => (noWord st _ rfl (by intro h; cases h) h).elim

theorem matFlush (core : Nat) : Statement (.matFlush core) := fun st h _ => (noWord st _ rfl (by intro h; cases h) h).elim

theorem matSkip (core : Nat) : Statement (.matSkip core) := fun st h _ => (noWord st _ rfl (by intro h; cases h) h).elim

theorem matResume (core : Nat) : Statement (.matResume core) := fun st h _ => (noWord st _ rfl (by intro h; cases h) h).elim

theorem ccrc (core : Nat) : Statement (.ccrc core) := fun st h _ => (noWord st _ rfl (by intro h; cases h) h).elim

theorem ccmp (core : Nat) : Statement (.ccmp core) := fun st h _ => (noWord st _ rfl (by intro h; cases h) h).elim

theorem cstat (core : Nat) : Statement (.cstat core) := fun st h _ => (noWord st _ rfl (by intro h; cases h) h).elim

theorem chkComplete (core : Nat) : Statement (.chkComplete core) := fun st h _ => (noWord st _ rfl (by intro h; cases h) h).elim

theorem chkCmdbound (core : Nat) : Statement (.chkCmdbound core) := fun st h _ => (noWord st _ rfl (by intro h; cases h) h).elim

theorem chkFlush (core : Nat) : Statement (.chkFlush core) := fun st h _ => (noWord st _ rfl (by intro h; cases h) h).elim

theorem chkSkip (core : Nat) : Statement (.chkSkip core) := fun st h _ => (noWord st _ rfl (by intro h; cases h) h).elim

theorem chkResume (core : Nat) : Statement (.chkResume core) := fun st h _ => (noWord st _ rfl (by intro h; cases h) h).elim

theorem publish (core : Nat) : Statement (.publish core) := fun st h _ => (noWord st _ rfl (by intro h; cases h) h).elim

theorem publishCarry (die : Nat) : Statement (.publishCarry die) := fun st h _ => (noWord st _ rfl (by intro h; cases h) h).elim

theorem nest (core : Nat) : Statement (.nest core) := fun st h _ => (noWord st _ rfl (by intro h; cases h) h).elim

theorem gridCreate (core : Nat) : Statement (.gridCreate core) := fun st h _ => (noWord st _ rfl (by intro h; cases h) h).elim

theorem gridDestroy (core : Nat) : Statement (.gridDestroy core) := fun st h _ => (noWord st _ rfl (by intro h; cases h) h).elim

theorem gridReset (core : Nat) : Statement (.gridReset core) := fun st h _ => (noWord st _ rfl (by intro h; cases h) h).elim

theorem lattice (core : Nat) : Statement (.lattice core) := fun st h _ => (noWord st _ rfl (by intro h; cases h) h).elim

theorem frameGo (core : Nat) : Statement (.frameGo core) := fun st h _ => (noWord st _ rfl (by intro h; cases h) h).elim

theorem frameStop (core : Nat) : Statement (.frameStop core) := fun st h _ => (noWord st _ rfl (by intro h; cases h) h).elim

theorem frameSetbase (core : Nat) : Statement (.frameSetbase core) := fun st h _ => (noWord st _ rfl (by intro h; cases h) h).elim

theorem cancel (core : Nat) : Statement (.cancel core) := fun st h _ => (noWord st _ rfl (by intro h; cases h) h).elim

theorem status (core : Nat) : Statement (.status core) := fun st h _ => (noWord st _ rfl (by intro h; cases h) h).elim

theorem qmgSkip (core : Nat) : Statement (.qmgSkip core) := fun st h _ => (noWord st _ rfl (by intro h; cases h) h).elim

theorem qmgResume (core : Nat) : Statement (.qmgResume core) := fun st h _ => (noWord st _ rfl (by intro h; cases h) h).elim

theorem frameTick (die : Nat) : Statement (.frameTick die) := fun st h _ => (noWord st _ rfl (by intro h; cases h) h).elim

theorem taskOverrun (die : Nat) : Statement (.taskOverrun die) := fun st h _ => (noWord st _ rfl (by intro h; cases h) h).elim

theorem taskPlace (die : Nat) : Statement (.taskPlace die) := fun st h _ => (noWord st _ rfl (by intro h; cases h) h).elim

theorem stealAttempt (core : Nat) : Statement (.stealAttempt core) := fun st h _ => (noWord st _ rfl (by intro h; cases h) h).elim

theorem tileDispatch (core : Nat) (lost : Bool) : Statement (.tileDispatch core lost) := fun st h _ => (noWord st _ rfl (by intro h; cases h) h).elim

theorem engineTaskDispatch (die : Nat) (entry : Nat) : Statement (.engineTaskDispatch die entry) := fun st h _ => (noWord st _ rfl (by intro h; cases h) h).elim

theorem taskRetire (die : Nat) (entry : Nat) : Statement (.taskRetire die entry) := fun st h _ => (noWord st _ rfl (by intro h; cases h) h).elim

theorem scoreboardRebuild (die : Nat) (grid : Nat) (row : Nat) (lost : Bool) : Statement (.scoreboardRebuild die grid row lost) := fun st h _ => (noWord st _ rfl (by intro h; cases h) h).elim

theorem priorityAge (die : Nat) (entry : Nat) : Statement (.priorityAge die entry) := fun st h _ => (noWord st _ rfl (by intro h; cases h) h).elim

theorem astep (core : Nat) : Statement (.astep core) := fun st h _ => (noWord st _ rfl (by intro h; cases h) h).elim

theorem btpost (core : Nat) : Statement (.btpost core) := fun st h _ => (noWord st _ rfl (by intro h; cases h) h).elim

theorem btfork (core : Nat) : Statement (.btfork core) := fun st h _ => (noWord st _ rfl (by intro h; cases h) h).elim

theorem btcommit (core : Nat) : Statement (.btcommit core) := fun st h _ => (noWord st _ rfl (by intro h; cases h) h).elim

theorem bttrim (core : Nat) : Statement (.bttrim core) := fun st h _ => (noWord st _ rfl (by intro h; cases h) h).elim

theorem btstat (core : Nat) : Statement (.btstat core) := fun st h _ => (noWord st _ rfl (by intro h; cases h) h).elim

theorem arriveWaitEnd (core : Nat) : Statement (.arriveWaitEnd core) := fun st h _ => (noWord st _ rfl (by intro h; cases h) h).elim

theorem busyWaitEnd (core : Nat) : Statement (.busyWaitEnd core) := fun st h _ => (noWord st _ rfl (by intro h; cases h) h).elim

theorem attComplete (core : Nat) : Statement (.attComplete core) := fun st h _ => (noWord st _ rfl (by intro h; cases h) h).elim

theorem attCmdbound (core : Nat) : Statement (.attCmdbound core) := fun st h _ => (noWord st _ rfl (by intro h; cases h) h).elim

theorem attFlush (core : Nat) : Statement (.attFlush core) := fun st h _ => (noWord st _ rfl (by intro h; cases h) h).elim

theorem attSkip (core : Nat) : Statement (.attSkip core) := fun st h _ => (noWord st _ rfl (by intro h; cases h) h).elim

theorem attResume (core : Nat) : Statement (.attResume core) := fun st h _ => (noWord st _ rfl (by intro h; cases h) h).elim

theorem sample (die : Nat) : Statement (.sample die) := fun st h _ => (noWord st _ rfl (by intro h; cases h) h).elim

theorem ringWaitEnd (die : Nat) : Statement (.ringWaitEnd die) := fun st h _ => (noWord st _ rfl (by intro h; cases h) h).elim

theorem smpComplete (die : Nat) : Statement (.smpComplete die) := fun st h _ => (noWord st _ rfl (by intro h; cases h) h).elim

theorem smpElementPlace (die : Nat) (idx : Nat) : Statement (.smpElementPlace die idx) := fun st h _ => (noWord st _ rfl (by intro h; cases h) h).elim

theorem smpCmdbound (die : Nat) : Statement (.smpCmdbound die) := fun st h _ => (noWord st _ rfl (by intro h; cases h) h).elim

theorem tdesc (src : Nat) : Statement (.tdesc src) := fun st h _ => (noWord st _ rfl (by intro h; cases h) h).elim

theorem batchQueueWaitEnd (src : Nat) : Statement (.batchQueueWaitEnd src) := fun st h _ => (noWord st _ rfl (by intro h; cases h) h).elim

theorem texpand (src : Nat) : Statement (.texpand src) := fun st h _ => (noWord st _ rfl (by intro h; cases h) h).elim

theorem poolWaitEnd (src : Nat) : Statement (.poolWaitEnd src) := fun st h _ => (noWord st _ rfl (by intro h; cases h) h).elim

theorem tback (src : Nat) : Statement (.tback src) := fun st h _ => (noWord st _ rfl (by intro h; cases h) h).elim

theorem treuse (src : Nat) : Statement (.treuse src) := fun st h _ => (noWord st _ rfl (by intro h; cases h) h).elim

theorem drainEnd (src : Nat) : Statement (.drainEnd src) := fun st h _ => (noWord st _ rfl (by intro h; cases h) h).elim

theorem treeReclaim (die : Nat) (tid : Nat) : Statement (.treeReclaim die tid) := fun st h _ => (noWord st _ rfl (by intro h; cases h) h).elim

theorem tcfgInit (src : Nat) : Statement (.tcfgInit src) := fun st h _ => (noWord st _ rfl (by intro h; cases h) h).elim

theorem tcfgSetp (src : Nat) : Statement (.tcfgSetp src) := fun st h _ => (noWord st _ rfl (by intro h; cases h) h).elim

theorem tcfgRelease (src : Nat) : Statement (.tcfgRelease src) := fun st h _ => (noWord st _ rfl (by intro h; cases h) h).elim

theorem tstat (src : Nat) : Statement (.tstat src) := fun st h _ => (noWord st _ rfl (by intro h; cases h) h).elim

theorem treComplete (src : Nat) : Statement (.treComplete src) := fun st h _ => (noWord st _ rfl (by intro h; cases h) h).elim

theorem treCmdbound (src : Nat) : Statement (.treCmdbound src) := fun st h _ => (noWord st _ rfl (by intro h; cases h) h).elim

theorem treFlush (core : Nat) : Statement (.treFlush core) := fun st h _ => (noWord st _ rfl (by intro h; cases h) h).elim

theorem treSkip (core : Nat) : Statement (.treSkip core) := fun st h _ => (noWord st _ rfl (by intro h; cases h) h).elim

theorem treResume (core : Nat) : Statement (.treResume core) := fun st h _ => (noWord st _ rfl (by intro h; cases h) h).elim

theorem search (src : Nat) : Statement (.search src) := fun st h _ => (noWord st _ rfl (by intro h; cases h) h).elim

theorem searchRoundEnd (src : Nat) : Statement (.searchRoundEnd src) := fun st h _ => (noWord st _ rfl (by intro h; cases h) h).elim

theorem hopIssue (ctl : Nat) (die : Nat) : Statement (.hopIssue ctl die) := fun st h _ => (noWord st _ rfl (by intro h; cases h) h).elim

theorem hopReadDone (ctl : Nat) (idx : Nat) (ok : Bool) : Statement (.hopReadDone ctl idx ok) := fun st h _ => (noWord st _ rfl (by intro h; cases h) h).elim

theorem fetchkv (src : Nat) : Statement (.fetchkv src) := fun st h _ => (noWord st _ rfl (by intro h; cases h) h).elim

theorem idxappend (src : Nat) : Statement (.idxappend src) := fun st h _ => (noWord st _ rfl (by intro h; cases h) h).elim

theorem idxdelete (src : Nat) : Statement (.idxdelete src) := fun st h _ => (noWord st _ rfl (by intro h; cases h) h).elim

theorem idxseal (src : Nat) : Statement (.idxseal src) := fun st h _ => (noWord st _ rfl (by intro h; cases h) h).elim

theorem idxmerge (src : Nat) : Statement (.idxmerge src) := fun st h _ => (noWord st _ rfl (by intro h; cases h) h).elim

theorem mergeDone (xid : Nat) (ok : Bool) : Statement (.mergeDone xid ok) := fun st h _ => (noWord st _ rfl (by intro h; cases h) h).elim

theorem logEntryProgram (xid : Nat) : Statement (.logEntryProgram xid) := fun st h _ => (noWord st _ rfl (by intro h; cases h) h).elim

theorem waitlogEnd (src : Nat) : Statement (.waitlogEnd src) := fun st h _ => (noWord st _ rfl (by intro h; cases h) h).elim

theorem waitmergeEnd (src : Nat) : Statement (.waitmergeEnd src) := fun st h _ => (noWord st _ rfl (by intro h; cases h) h).elim

theorem schComplete (src : Nat) : Statement (.schComplete src) := fun st h _ => (noWord st _ rfl (by intro h; cases h) h).elim

theorem schCmdbound (src : Nat) : Statement (.schCmdbound src) := fun st h _ => (noWord st _ rfl (by intro h; cases h) h).elim

theorem schFlush (core : Nat) : Statement (.schFlush core) := fun st h _ => (noWord st _ rfl (by intro h; cases h) h).elim

theorem schSkip (core : Nat) : Statement (.schSkip core) := fun st h _ => (noWord st _ rfl (by intro h; cases h) h).elim

theorem schResume (core : Nat) : Statement (.schResume core) := fun st h _ => (noWord st _ rfl (by intro h; cases h) h).elim

theorem portRead (port : Nat) (line : Nat) (err : Nat) (retries : Nat) : Statement (.portRead port line err retries) := fun st h _ => (noWord st _ rfl (by intro h; cases h) h).elim

theorem portWrite (port : Nat) : Statement (.portWrite port) := fun st h _ => (noWord st _ rfl (by intro h; cases h) h).elim

theorem portAtomic (port : Nat) : Statement (.portAtomic port) := fun st h _ => (noWord st _ rfl (by intro h; cases h) h).elim

theorem fillReturn (port : Nat) (line : Nat) : Statement (.fillReturn port line) := fun st h _ => (noWord st _ rfl (by intro h; cases h) h).elim

theorem entryDrain (port : Nat) (line : Nat) : Statement (.entryDrain port line) := fun st h _ => (noWord st _ rfl (by intro h; cases h) h).elim

theorem drainDone (port : Nat) (line : Nat) : Statement (.drainDone port line) := fun st h _ => (noWord st _ rfl (by intro h; cases h) h).elim

theorem bankActivate (port : Nat) (bank : Nat) : Statement (.bankActivate port bank) := fun st h _ => (noWord st _ rfl (by intro h; cases h) h).elim

theorem rfmWindowEnd (port : Nat) (bank : Nat) : Statement (.rfmWindowEnd port bank) := fun st h _ => (noWord st _ rfl (by intro h; cases h) h).elim

theorem refresh (port : Nat) (bank : Nat) : Statement (.refresh port bank) := fun st h _ => (noWord st _ rfl (by intro h; cases h) h).elim

theorem countWindowEnd (port : Nat) (bank : Nat) : Statement (.countWindowEnd port bank) := fun st h _ => (noWord st _ rfl (by intro h; cases h) h).elim

theorem channelRetire (port : Nat) : Statement (.channelRetire port) := fun st h _ => (noWord st _ rfl (by intro h; cases h) h).elim

theorem patrolScrub (port : Nat) (line : Nat) (err : Nat) : Statement (.patrolScrub port line err) := fun st h _ => (noWord st _ rfl (by intro h; cases h) h).elim

theorem flitReceive (lk : Nat) (bad : Bool) : Statement (.flitReceive lk bad) := fun st h _ => (noWord st _ rfl (by intro h; cases h) h).elim

theorem flitReplay (lk : Nat) : Statement (.flitReplay lk) := fun st h _ => (noWord st _ rfl (by intro h; cases h) h).elim

theorem moduleRetrain (lk : Nat) : Statement (.moduleRetrain lk) := fun st h _ => (noWord st _ rfl (by intro h; cases h) h).elim

theorem laneFail (lk : Nat) (lane : Nat) : Statement (.laneFail lk lane) := fun st h _ => (noWord st _ rfl (by intro h; cases h) h).elim

theorem fabricLaneFail (port : Nat) (lane : Nat) : Statement (.fabricLaneFail port lane) := fun st h _ => (noWord st _ rfl (by intro h; cases h) h).elim

theorem routeFail (pkg : Nat) (port : Nat) : Statement (.routeFail pkg port) := fun st h _ => (noWord st _ rfl (by intro h; cases h) h).elim

theorem timeExchange (slew : Int) : Statement (.timeExchange slew) := fun st h _ => (noWord st _ rfl (by intro h; cases h) h).elim

theorem remoteRequest (ctx : Nat) (unit : Nat) (off : Nat) (kind : Nat) (op : Nat) (n : Nat) (v : Nat) (v2 : Nat) : Statement (.remoteRequest ctx unit off kind op n v v2) := fun st h _ => (noWord st _ rfl (by intro h; cases h) h).elim

theorem remoteResponse (core : Nat) (slot : Nat) (idx : Nat) (code : Nat) : Statement (.remoteResponse core slot idx code) := fun st h _ => (noWord st _ rfl (by intro h; cases h) h).elim

theorem dqputDraft (src : Nat) : Statement (.dqputDraft src) := fun st h _ => (noWord st _ rfl (by intro h; cases h) h).elim

theorem dqputVerdict (src : Nat) : Statement (.dqputVerdict src) := fun st h _ => (noWord st _ rfl (by intro h; cases h) h).elim

theorem dqgetDraft (src : Nat) : Statement (.dqgetDraft src) := fun st h _ => (noWord st _ rfl (by intro h; cases h) h).elim

theorem dqgetVerdict (src : Nat) : Statement (.dqgetVerdict src) := fun st h _ => (noWord st _ rfl (by intro h; cases h) h).elim

theorem waitdqEnd (src : Nat) : Statement (.waitdqEnd src) := fun st h _ => (noWord st _ rfl (by intro h; cases h) h).elim

theorem coll (src : Nat) : Statement (.coll src) := fun st h _ => (noWord st _ rfl (by intro h; cases h) h).elim

theorem collComplete (src : Nat) : Statement (.collComplete src) := fun st h _ => (noWord st _ rfl (by intro h; cases h) h).elim

theorem withdrawNotice (gid : Nat) : Statement (.withdrawNotice gid) := fun st h _ => (noWord st _ rfl (by intro h; cases h) h).elim

theorem wakepost (src : Nat) : Statement (.wakepost src) := fun st h _ => (noWord st _ rfl (by intro h; cases h) h).elim

theorem lnkstat (src : Nat) : Statement (.lnkstat src) := fun st h _ => (noWord st _ rfl (by intro h; cases h) h).elim

theorem lnkComplete (src : Nat) : Statement (.lnkComplete src) := fun st h _ => (noWord st _ rfl (by intro h; cases h) h).elim

theorem lnkCmdbound (src : Nat) : Statement (.lnkCmdbound src) := fun st h _ => (noWord st _ rfl (by intro h; cases h) h).elim

theorem lnkFlush (core : Nat) : Statement (.lnkFlush core) := fun st h _ => (noWord st _ rfl (by intro h; cases h) h).elim

theorem lnkSkip (core : Nat) : Statement (.lnkSkip core) := fun st h _ => (noWord st _ rfl (by intro h; cases h) h).elim

theorem lnkResume (core : Nat) : Statement (.lnkResume core) := fun st h _ => (noWord st _ rfl (by intro h; cases h) h).elim

theorem xferl (src : Nat) : Statement (.xferl src) := fun st h _ => (noWord st _ rfl (by intro h; cases h) h).elim

theorem xfrArriveWaitEnd (src : Nat) : Statement (.xfrArriveWaitEnd src) := fun st h _ => (noWord st _ rfl (by intro h; cases h) h).elim

theorem arriveOr (src : Nat) : Statement (.arriveOr src) := fun st h _ => (noWord st _ rfl (by intro h; cases h) h).elim

theorem xfrComplete (src : Nat) : Statement (.xfrComplete src) := fun st h _ => (noWord st _ rfl (by intro h; cases h) h).elim

theorem xfrCmdbound (src : Nat) : Statement (.xfrCmdbound src) := fun st h _ => (noWord st _ rfl (by intro h; cases h) h).elim

theorem xfrFlush (core : Nat) : Statement (.xfrFlush core) := fun st h _ => (noWord st _ rfl (by intro h; cases h) h).elim

theorem xfrSkip (core : Nat) : Statement (.xfrSkip core) := fun st h _ => (noWord st _ rfl (by intro h; cases h) h).elim

theorem xfrResume (core : Nat) : Statement (.xfrResume core) := fun st h _ => (noWord st _ rfl (by intro h; cases h) h).elim

theorem hostMemWrite (off : Nat) (bytes : List Byte) : Statement (.hostMemWrite off bytes) := fun st h _ => (noWord st _ rfl (by intro h; cases h) h).elim

theorem hostMemRead (off : Nat) (len : Nat) : Statement (.hostMemRead off len) := fun st h _ => (noWord st _ rfl (by intro h; cases h) h).elim

theorem hostAtomicop (off : Nat) (op : Nat) (n : Nat) (v : Nat) (v2 : Nat) : Statement (.hostAtomicop off op n v v2) := fun st h _ => (noWord st _ rfl (by intro h; cases h) h).elim

theorem hostReadCompletion (core : Nat) (slot : Nat) : Statement (.hostReadCompletion core slot) := fun st h _ => (noWord st _ rfl (by intro h; cases h) h).elim

theorem hostAtomicCompletion (who : Nat) (status : Nat) : Statement (.hostAtomicCompletion who status) := fun st h _ => (noWord st _ rfl (by intro h; cases h) h).elim

theorem hostAtomicTimeout (who : Nat) (applied : Bool) : Statement (.hostAtomicTimeout who applied) := fun st h _ => (noWord st _ rfl (by intro h; cases h) h).elim

theorem fallbackReadDone (who : Nat) (status : Nat) : Statement (.fallbackReadDone who status) := fun st h _ => (noWord st _ rfl (by intro h; cases h) h).elim

theorem ctxswap (core : Nat) : Statement (.ctxswap core) := fun st h _ => (noWord st _ rfl (by intro h; cases h) h).elim

theorem ctxspill (core : Nat) : Statement (.ctxspill core) := fun st h _ => (noWord st _ rfl (by intro h; cases h) h).elim

theorem shadowFillDone (core : Nat) : Statement (.shadowFillDone core) := fun st h _ => (noWord st _ rfl (by intro h; cases h) h).elim

theorem slotsStopped (core : Nat) : Statement (.slotsStopped core) := fun st h _ => (noWord st _ rfl (by intro h; cases h) h).elim

theorem bankExchangeDone (core : Nat) : Statement (.bankExchangeDone core) := fun st h _ => (noWord st _ rfl (by intro h; cases h) h).elim

theorem coreDrainDone (core : Nat) : Statement (.coreDrainDone core) := fun st h _ => (noWord st _ rfl (by intro h; cases h) h).elim

theorem imageSaveDone (core : Nat) : Statement (.imageSaveDone core) := fun st h _ => (noWord st _ rfl (by intro h; cases h) h).elim

theorem imageRestoreDone (core : Nat) : Statement (.imageRestoreDone core) := fun st h _ => (noWord st _ rfl (by intro h; cases h) h).elim

theorem parkEntry (core : Nat) : Statement (.parkEntry core) := fun st h _ => (noWord st _ rfl (by intro h; cases h) h).elim

theorem mustsaveAdd (core : Nat) : Statement (.mustsaveAdd core) := fun st h _ => (noWord st _ rfl (by intro h; cases h) h).elim

theorem mustsaveRemove (core : Nat) : Statement (.mustsaveRemove core) := fun st h _ => (noWord st _ rfl (by intro h; cases h) h).elim

theorem mustsaveClear (core : Nat) : Statement (.mustsaveClear core) := fun st h _ => (noWord st _ rfl (by intro h; cases h) h).elim

theorem shutstatStatus (core : Nat) : Statement (.shutstatStatus core) := fun st h _ => (noWord st _ rfl (by intro h; cases h) h).elim

theorem shutstatLoad (core : Nat) (bad : Nat) : Statement (.shutstatLoad core bad) := fun st h _ => (noWord st _ rfl (by intro h; cases h) h).elim

theorem ctxComplete (core : Nat) : Statement (.ctxComplete core) := fun st h _ => (noWord st _ rfl (by intro h; cases h) h).elim

theorem ctxCmdbound (core : Nat) : Statement (.ctxCmdbound core) := fun st h _ => (noWord st _ rfl (by intro h; cases h) h).elim

theorem ctxFlush (core : Nat) : Statement (.ctxFlush core) := fun st h _ => (noWord st _ rfl (by intro h; cases h) h).elim

theorem ctxSkip (core : Nat) : Statement (.ctxSkip core) := fun st h _ => (noWord st _ rfl (by intro h; cases h) h).elim

theorem ctxResume (core : Nat) : Statement (.ctxResume core) := fun st h _ => (noWord st _ rfl (by intro h; cases h) h).elim

theorem shutterTrap : Statement .shutterTrap := fun st h _ => (noWord st _ rfl (by intro h; cases h) h).elim

theorem shutterSwitchIn (cap : Nat) (vb : Nat) : Statement (.shutterSwitchIn cap vb) := fun st h _ => (noWord st _ rfl (by intro h; cases h) h).elim

theorem bankWatchCut (bytes : Nat) : Statement (.bankWatchCut bytes) := fun st h _ => (noWord st _ rfl (by intro h; cases h) h).elim

theorem pageProgramFail (idx : Nat) : Statement (.pageProgramFail idx) := fun st h _ => (noWord st _ rfl (by intro h; cases h) h).elim

theorem shutterPowerDown (vend : Nat) : Statement (.shutterPowerDown vend) := fun st h _ => (noWord st _ rfl (by intro h; cases h) h).elim

theorem boot (half : Nat) (bases : List Nat) (thrs : List Nat) (fused : List Nat) (train : List Nat) (unread : List Nat) : Statement (.boot half bases thrs fused train unread) := fun st h _ => (noWord st _ rfl (by intro h; cases h) h).elim

theorem ctxopen : Statement .ctxopen := fun st h _ => (noWord st _ rfl (by intro h; cases h) h).elim

theorem ctxclose : Statement .ctxclose := fun st h _ => (noWord st _ rfl (by intro h; cases h) h).elim

theorem inval : Statement .inval := fun st h _ => (noWord st _ rfl (by intro h; cases h) h).elim

theorem accset : Statement .accset := fun st h _ => (noWord st _ rfl (by intro h; cases h) h).elim

theorem mapbar : Statement .mapbar := fun st h _ => (noWord st _ rfl (by intro h; cases h) h).elim

theorem objopen : Statement .objopen := fun st h _ => (noWord st _ rfl (by intro h; cases h) h).elim

theorem objclose : Statement .objclose := fun st h _ => (noWord st _ rfl (by intro h; cases h) h).elim

theorem dqopen : Statement .dqopen := fun st h _ => (noWord st _ rfl (by intro h; cases h) h).elim

theorem dqclose : Statement .dqclose := fun st h _ => (noWord st _ rfl (by intro h; cases h) h).elim

theorem ownset : Statement .ownset := fun st h _ => (noWord st _ rfl (by intro h; cases h) h).elim

theorem retire : Statement .retire := fun st h _ => (noWord st _ rfl (by intro h; cases h) h).elim

theorem clrsuspect (fails : BitVec 16) : Statement (.clrsuspect fails) := fun st h _ => (noWord st _ rfl (by intro h; cases h) h).elim

theorem island : Statement .island := fun st h _ => (noWord st _ rfl (by intro h; cases h) h).elim

theorem setmask : Statement .setmask := fun st h _ => (noWord st _ rfl (by intro h; cases h) h).elim

theorem quote : Statement .quote := fun st h _ => (noWord st _ rfl (by intro h; cases h) h).elim

theorem loadfw : Statement .loadfw := fun st h _ => (noWord st _ rfl (by intro h; cases h) h).elim

theorem grpopen : Statement .grpopen := fun st h _ => (noWord st _ rfl (by intro h; cases h) h).elim

theorem grpclose : Statement .grpclose := fun st h _ => (noWord st _ rfl (by intro h; cases h) h).elim

theorem islandThermal (isl : Nat) (temp : Nat) : Statement (.islandThermal isl temp) := fun st h _ => (noWord st _ rfl (by intro h; cases h) h).elim

theorem powerLimit (isl : Nat) : Statement (.powerLimit isl) := fun st h _ => (noWord st _ rfl (by intro h; cases h) h).elim

theorem healthUpdate (entry : Nat) (wear : Nat) (days : Nat) (cap : Nat) (vb : Nat) : Statement (.healthUpdate entry wear days cap vb) := fun st h _ => (noWord st _ rfl (by intro h; cases h) h).elim

theorem domainBringUp (pkg : Nat) (now : Nat) (routes : List Nat) : Statement (.domainBringUp pkg now routes) := fun st h _ => (noWord st _ rfl (by intro h; cases h) h).elim

theorem modulePauseEnd (lk : Nat) : Statement (.modulePauseEnd lk) := fun st h _ => (noWord st _ rfl (by intro h; cases h) h).elim

end Sys2Proof.Laws.Encoding
end

