-- ==== Sys2Proof/Laws/Tables.lean ====
section
/-! SUPPORT. What a sparse table and a byte memory hold after an update. -/

namespace Sys2Proof.Machine

/-! ### Tables -/

theorem Tab.get_set_self {α : Type} (d : α) (t : Tab α) (i : Nat) (v : α) : Tab.get d (Tab.set t i v) i = v := by
  induction t with
  | nil => simp [Tab.set, Tab.get]
  | cons kv t ih =>
    obtain ⟨k, w⟩ := kv
    by_cases h : i = k
    · simp [Tab.set, Tab.get, h]
    · by_cases h' : i < k
      · simp [Tab.set, Tab.get, h, h']
      · simp [Tab.set, Tab.get, h, h', Ne.symm h, ih]

theorem Tab.get_set_ne {α : Type} (d : α) (t : Tab α) (i j : Nat) (v : α) (h : j ≠ i) :
    Tab.get d (Tab.set t i v) j = Tab.get d t j := by
  induction t with
  | nil => simp [Tab.set, Tab.get, Ne.symm h]
  | cons kv t ih =>
    obtain ⟨k, w⟩ := kv
    by_cases hk : i = k
    · subst hk; simp [Tab.set, Tab.get, Ne.symm h]
    · by_cases h' : i < k
      · simp [Tab.set, Tab.get, hk, h', Ne.symm h]
      · simp [Tab.set, Tab.get, hk, h', ih]

theorem Tab.find_set_self {α : Type} (t : Tab α) (i : Nat) (v : α) : Tab.find (Tab.set t i v) i = some v := by
  induction t with
  | nil => simp [Tab.set, Tab.find]
  | cons kv t ih =>
    obtain ⟨k, w⟩ := kv
    by_cases h : i = k
    · simp [Tab.set, Tab.find, h]
    · by_cases h' : i < k
      · simp [Tab.set, Tab.find, h, h']
      · simp [Tab.set, Tab.find, h, h', Ne.symm h, ih]

theorem Tab.find_set_ne {α : Type} (t : Tab α) (i j : Nat) (v : α) (h : j ≠ i) : Tab.find (Tab.set t i v) j = Tab.find t j := by
  induction t with
  | nil => simp [Tab.set, Tab.find, Ne.symm h]
  | cons kv t ih =>
    obtain ⟨k, w⟩ := kv
    by_cases hk : i = k
    · subst hk; simp [Tab.set, Tab.find, Ne.symm h]
    · by_cases h' : i < k
      · simp [Tab.set, Tab.find, hk, h', Ne.symm h]
      · simp [Tab.set, Tab.find, hk, h', ih]

/-! ### Memories in canonical form -/

/-- Every listed address of a memory lies above a bound. -/
def Mem.above (m : Mem) (a : Nat) : Prop := ∀ kv ∈ m, a < kv.1

theorem Mem.wf_cons {k : Nat} {v : Byte} {m : Mem} : Mem.wf ((k, v) :: m) = true ↔ v ≠ 0 ∧ m.above k ∧ m.wf = true := by
  induction m generalizing k v with
  | nil => simp [Mem.wf, Mem.above]
  | cons kv m ih =>
    obtain ⟨k', v'⟩ := kv
    have hi := @ih k' v'
    constructor
    · intro h
      simp only [Mem.wf, Bool.and_eq_true, bne_iff_ne, ne_eq, decide_eq_true_eq] at h
      obtain ⟨⟨hv, hk⟩, hm⟩ := h
      refine ⟨hv, ?_, hm⟩
      intro x hx
      rcases List.mem_cons.mp hx with rfl | hx
      · exact hk
      · exact lt_trans hk ((hi.mp hm).2.1 x hx)
    · rintro ⟨hv, hk, hm⟩
      simp only [Mem.wf, Bool.and_eq_true, bne_iff_ne, ne_eq, decide_eq_true_eq]
      exact ⟨⟨hv, hk (k', v') (by simp)⟩, hm⟩

theorem Mem.above_write {m : Mem} {a b : Nat} {v : Byte} (h : m.above b) (hb : b < a) : (m.write a v).above b := by
  induction m with
  | nil => intro x hx; simp only [Mem.write] at hx; split at hx <;> simp at hx; subst hx; exact hb
  | cons kv m ih =>
    obtain ⟨k, w⟩ := kv
    have hk : b < k := h (k, w) (by simp)
    have hm : Mem.above m b := fun x hx => h x (by simp [hx])
    intro x hx
    simp only [Mem.write] at hx
    split at hx
    · split at hx
      · exact hm x hx
      · rcases List.mem_cons.mp hx with rfl | hx
        · exact hb
        · exact hm x hx
    · split at hx
      · split at hx
        · exact h x hx
        · rcases List.mem_cons.mp hx with rfl | hx
          · exact hb
          · exact h x hx
      · rcases List.mem_cons.mp hx with rfl | hx
        · exact hk
        · exact ih hm x hx

/-- A write keeps the canonical form. -/
theorem Mem.wf_write {m : Mem} (h : m.wf = true) (a : Nat) (v : Byte) : (m.write a v).wf = true := by
  induction m with
  | nil => by_cases hv : v = 0#8 <;> simp [Mem.write, Mem.wf, hv]
  | cons kv m ih =>
    obtain ⟨k, w⟩ := kv
    have ⟨hw, hk, hm⟩ := Mem.wf_cons.mp h
    simp only [Mem.write]
    split
    · split
      · exact hm
      · next e hv => subst e; exact Mem.wf_cons.mpr ⟨hv, hk, hm⟩
    · split
      · next hlt =>
        split
        · exact h
        · next hv =>
          refine Mem.wf_cons.mpr ⟨hv, ?_, h⟩
          intro x hx
          rcases List.mem_cons.mp hx with rfl | hx
          · exact hlt
          · exact lt_trans hlt (hk x hx)
      · exact Mem.wf_cons.mpr ⟨hw, Mem.above_write hk (by omega), ih hm⟩

theorem Mem.wf_writeBytes {m : Mem} (h : m.wf = true) (a : Nat) (bs : List Byte) : (m.writeBytes a bs).wf = true := by
  induction bs generalizing m a with
  | nil => exact h
  | cons b bs ih => exact ih (Mem.wf_write h a b) (a + 1)

theorem Mem.wf_writeLE {m : Mem} (h : m.wf = true) (a n v : Nat) : (m.writeLE a n v).wf = true := Mem.wf_writeBytes h a _

/-- A byte just written reads as written, every other as before. -/
theorem Mem.read_write (m : Mem) (a b : Nat) (v : Byte) (h : m.wf = true) :
    (m.write a v).read b = if b = a then v else m.read b := by
  induction m with
  | nil =>
    by_cases hv : v = 0#8 <;> by_cases hb : b = a <;> simp [Mem.write, Mem.read, hv, hb]
    intro h; exact absurd h.symm hb
  | cons kv m ih =>
    obtain ⟨k, w⟩ := kv
    have ⟨hw, hk, hm⟩ := Mem.wf_cons.mp h
    have none : ∀ c, c ≤ k → Mem.read m c = 0 := by
      intro c hc
      clear ih h
      induction m with
      | nil => rfl
      | cons x m ih =>
        obtain ⟨k', v'⟩ := x
        have : k < k' := hk (k', v') (by simp)
        have ne : k' ≠ c := by omega
        simp only [Mem.read, if_neg ne]
        exact ih (fun y hy => hk y (by simp [hy])) (Mem.wf_cons.mp hm).2.2
    simp only [Mem.write]
    by_cases hak : a = k
    · subst hak
      by_cases hv : v = 0#8
      · by_cases hb : b = a
        · subst hb; simp [hv, none b (le_refl b)]
        · simp [hv, hb, Mem.read, Ne.symm hb]
      · by_cases hb : b = a
        · subst hb; simp [hv, Mem.read]
        · simp [hv, hb, Mem.read, Ne.symm hb]
    · by_cases hlt : a < k
      · by_cases hv : v = 0#8
        · by_cases hb : b = a
          · subst hb; simp [hak, hlt, hv, Mem.read, Ne.symm hak, none b (le_of_lt hlt)]
          · simp [hak, hlt, hv, hb]
        · by_cases hb : b = a
          · subst hb; simp [hak, hlt, hv, Mem.read]
          · simp [hak, hlt, hv, hb, Mem.read, Ne.symm hb]
      · by_cases hb : b = k
        · subst hb
          simp [hak, hlt, Mem.read, Ne.symm hak]
        · simp [hak, hlt, Mem.read, Ne.symm hb, ih hm]

/-- Bytes just written read as written, every other as before. -/
theorem Mem.read_writeBytes (m : Mem) (a b : Nat) (bs : List Byte) (h : m.wf = true) :
    (m.writeBytes a bs).read b = if a ≤ b ∧ b < a + bs.length then bs.getD (b - a) 0 else m.read b := by
  induction bs generalizing m a with
  | nil => rw [if_neg (by simp)]; rfl
  | cons x bs ih =>
    rw [Mem.writeBytes, ih _ _ (Mem.wf_write h a x), Mem.read_write m a b x h]
    by_cases hb : b = a
    · subst hb; simp
    · rw [if_neg hb, List.length_cons]
      by_cases hc : a ≤ b ∧ b < a + (bs.length + 1)
      · have h2 : b - a = (b - (a + 1)) + 1 := by omega
        rw [if_pos (by omega), if_pos hc, h2, List.getD_cons_succ]
      · rw [if_neg (by omega), if_neg hc]

theorem leBytes_length (v n : Nat) : (leBytes v n).length = n := by
  induction n generalizing v with
  | zero => rfl
  | succ n ih => simp [leBytes, ih]

theorem leValue_leBytes (v n : Nat) : leValue (leBytes v n) = v % 256 ^ n := by
  induction n generalizing v with
  | zero => simp [leBytes, leValue, Nat.mod_one]
  | succ n ih =>
    simp only [leBytes, leValue, ih]
    rw [pow_succ, mul_comm (256 ^ n) 256, Nat.mod_mul]
    simp [BitVec.toNat_ofNat]

/-! ### Lists in order -/

theorem mergeBy_cons {α : Type} (le : α → α → Bool) (n : Nat) (x y : α) (xs ys : List α) : mergeBy le (n + 1) (x :: xs) (y :: ys)
    = if le x y then x :: mergeBy le n xs (y :: ys) else y :: mergeBy le n (x :: xs) ys := rfl

theorem mergeBy_perm {α : Type} (le : α → α → Bool) : ∀ (n : Nat) (xs ys : List α), (mergeBy le n xs ys).Perm (xs ++ ys)
  | 0, _, _ => .refl _
  | _ + 1, [], _ => .refl _
  | _ + 1, x :: xs, [] => by simp [mergeBy]
  | n + 1, x :: xs, y :: ys => by
    rw [mergeBy_cons]
    split
    · exact (mergeBy_perm le n xs (y :: ys)).cons x
    · exact ((mergeBy_perm le n (x :: xs) ys).cons y).trans List.perm_middle.symm

theorem sortFuel_perm {α : Type} (le : α → α → Bool) : ∀ (n : Nat) (xs : List α), (sortFuel le n xs).Perm xs
  | 0, _ => .refl _
  | n + 1, xs => by
    unfold sortFuel
    split
    · exact .refl _
    · have h := (sortFuel_perm le n (xs.take (xs.length / 2))).append (sortFuel_perm le n (xs.drop (xs.length / 2)))
      rw [List.take_append_drop] at h
      exact (mergeBy_perm le _ _ _).trans h

/-- Sorting rearranges. -/
theorem sortBy_perm {α : Type} (le : α → α → Bool) (xs : List α) : (sortBy le xs).Perm xs := sortFuel_perm le _ xs

theorem mergeBy_sorted {α : Type} {le : α → α → Bool} (tr : ∀ a b c, le a b = true → le b c = true → le a c = true)
    (tot : ∀ a b, le a b = true ∨ le b a = true) : ∀ (n : Nat) (xs ys : List α), xs.length + ys.length ≤ n →
    xs.Pairwise (fun a b => le a b = true) → ys.Pairwise (fun a b => le a b = true) → (mergeBy le n xs ys).Pairwise (fun a b => le a b = true)
  | 0, [], [], _, _, _ => .nil
  | 0, _ :: _, _, hn, _, _ => by simp at hn
  | _ + 1, [], _, _, _, h => h
  | _ + 1, x :: xs, [], _, h, _ => by simpa [mergeBy] using h
  | n + 1, x :: xs, y :: ys, hn, hx, hy => by
    have hx' := List.pairwise_cons.1 hx
    have hy' := List.pairwise_cons.1 hy
    simp only [List.length_cons] at hn
    rw [mergeBy_cons]
    split
    · refine List.pairwise_cons.2 ⟨fun b hb => ?_, mergeBy_sorted tr tot n xs (y :: ys) (by simp; omega) hx'.2 hy⟩
      rcases List.mem_append.1 ((mergeBy_perm le n _ _).mem_iff.1 hb) with h | h
      · exact hx'.1 b h
      · rcases List.mem_cons.1 h with rfl | h
        · assumption
        · exact tr _ _ _ ‹_› (hy'.1 b h)
    · have hyx : le y x = true := (tot x y).resolve_left ‹_›
      refine List.pairwise_cons.2 ⟨fun b hb => ?_, mergeBy_sorted tr tot n (x :: xs) ys (by simp; omega) hx hy'.2⟩
      rcases List.mem_append.1 ((mergeBy_perm le n _ _).mem_iff.1 hb) with h | h
      · rcases List.mem_cons.1 h with rfl | h
        · exact hyx
        · exact tr _ _ _ hyx (hx'.1 b h)
      · exact hy'.1 b h

theorem sortFuel_sorted {α : Type} {le : α → α → Bool} (tr : ∀ a b c, le a b = true → le b c = true → le a c = true)
    (tot : ∀ a b, le a b = true ∨ le b a = true) : ∀ (n : Nat) (xs : List α), xs.length ≤ n →
    (sortFuel le n xs).Pairwise (fun a b => le a b = true)
  | 0, [], _ => .nil
  | n + 1, xs, hn => by
    unfold sortFuel
    split
    · match xs, ‹xs.length ≤ 1› with
      | [], _ => exact .nil
      | [a], _ => exact List.pairwise_singleton _ _
    · refine mergeBy_sorted tr tot _ _ _ ?_ (sortFuel_sorted tr tot n _ ?_) (sortFuel_sorted tr tot n _ ?_)
      · rw [(sortFuel_perm le n _).length_eq, (sortFuel_perm le n _).length_eq, List.length_take, List.length_drop]; omega
      · rw [List.length_take]; omega
      · rw [List.length_drop]; omega

/-- By a total transitive order, the result is in order. -/
theorem sortBy_sorted {α : Type} {le : α → α → Bool} (tr : ∀ a b c, le a b = true → le b c = true → le a c = true)
    (tot : ∀ a b, le a b = true ∨ le b a = true) (xs : List α) : (sortBy le xs).Pairwise (fun a b => le a b = true) :=
  sortFuel_sorted tr tot _ xs (le_refl _)

end Sys2Proof.Machine
end

