-- ==== Sys2Proof/Laws/State.lean ====
section
/-! SUPPORT. What each update of the state and of a thread leaves as it was, one lemma a field, and what the accessors read
after an update. -/

namespace Sys2Proof.Machine


@[simp] theorem State.setThread_sched (s : State) (c k : Nat) (t : Thread) : (s.setThread c k t).sched = s.sched := rfl
@[simp] theorem State.setThread_cursor (s : State) (c k : Nat) (t : Thread) : (s.setThread c k t).cursor = s.cursor := rfl
@[simp] theorem State.setThread_cur (s : State) (c k : Nat) (t : Thread) : (s.setThread c k t).cur = s.cur := rfl
@[simp] theorem State.setThread_freeCtr (s : State) (c k : Nat) (t : Thread) : (s.setThread c k t).freeCtr = s.freeCtr := rfl
@[simp] theorem State.setThread_opSeq (s : State) (c k : Nat) (t : Thread) : (s.setThread c k t).opSeq = s.opSeq := rfl
@[simp] theorem State.setThread_time (s : State) (c k : Nat) (t : Thread) : (s.setThread c k t).time = s.time := rfl
@[simp] theorem State.setThread_dev (s : State) (c k : Nat) (t : Thread) : (s.setThread c k t).dev = s.dev := rfl
@[simp] theorem State.setThread_spad (s : State) (c k : Nat) (t : Thread) : (s.setThread c k t).spad = s.spad := rfl
@[simp] theorem State.setThread_host (s : State) (c k : Nat) (t : Thread) : (s.setThread c k t).host = s.host := rfl
@[simp] theorem State.setThread_remote (s : State) (c k : Nat) (t : Thread) : (s.setThread c k t).remote = s.remote := rfl
@[simp] theorem State.setThread_poison (s : State) (c k : Nat) (t : Thread) : (s.setThread c k t).poison = s.poison := rfl
@[simp] theorem State.setThread_spadPoison (s : State) (c k : Nat) (t : Thread) : (s.setThread c k t).spadPoison = s.spadPoison := rfl
@[simp] theorem State.setThread_cores (s : State) (c k : Nat) (t : Thread) : (s.setThread c k t).cores = s.cores := rfl
@[simp] theorem State.setThread_mails (s : State) (c k : Nat) (t : Thread) : (s.setThread c k t).mails = s.mails := rfl
@[simp] theorem State.setThread_bars (s : State) (c k : Nat) (t : Thread) : (s.setThread c k t).bars = s.bars := rfl
@[simp] theorem State.setThread_tlb (s : State) (c k : Nat) (t : Thread) : (s.setThread c k t).tlb = s.tlb := rfl
@[simp] theorem State.setThread_access (s : State) (c k : Nat) (t : Thread) : (s.setThread c k t).access = s.access := rfl
@[simp] theorem State.setThread_masks (s : State) (c k : Nat) (t : Thread) : (s.setThread c k t).masks = s.masks := rfl
@[simp] theorem State.setThread_streams (s : State) (c k : Nat) (t : Thread) : (s.setThread c k t).streams = s.streams := rfl
@[simp] theorem State.setThread_served (s : State) (c k : Nat) (t : Thread) : (s.setThread c k t).served = s.served := rfl
@[simp] theorem State.setThread_results (s : State) (c k : Nat) (t : Thread) : (s.setThread c k t).results = s.results := rfl
@[simp] theorem State.setThread_pkg (s : State) (c k : Nat) (t : Thread) : (s.setThread c k t).pkg = s.pkg := rfl
@[simp] theorem State.setThread_indom (s : State) (c k : Nat) (t : Thread) : (s.setThread c k t).indom = s.indom := rfl
@[simp] theorem State.setThread_unreach (s : State) (c k : Nat) (t : Thread) : (s.setThread c k t).unreach = s.unreach := rfl
@[simp] theorem State.setThread_ctxtab (s : State) (c k : Nat) (t : Thread) : (s.setThread c k t).ctxtab = s.ctxtab := rfl
@[simp] theorem State.setThread_qmgs (s : State) (c k : Nat) (t : Thread) : (s.setThread c k t).qmgs = s.qmgs := rfl
@[simp] theorem State.setThread_outs (s : State) (c k : Nat) (t : Thread) : (s.setThread c k t).outs = s.outs := rfl
@[simp] theorem State.setThread_parks (s : State) (c k : Nat) (t : Thread) : (s.setThread c k t).parks = s.parks := rfl
@[simp] theorem State.setThread_msix (s : State) (c k : Nat) (t : Thread) : (s.setThread c k t).msix = s.msix := rfl
@[simp] theorem State.setThread_islands (s : State) (c k : Nat) (t : Thread) : (s.setThread c k t).islands = s.islands := rfl
@[simp] theorem State.setThread_islandClk (s : State) (c k : Nat) (t : Thread) : (s.setThread c k t).islandClk = s.islandClk := rfl
@[simp] theorem State.setThread_chans (s : State) (c k : Nat) (t : Thread) : (s.setThread c k t).chans = s.chans := rfl
@[simp] theorem State.setThread_mats (s : State) (c k : Nat) (t : Thread) : (s.setThread c k t).mats = s.mats := rfl
@[simp] theorem State.setThread_atts (s : State) (c k : Nat) (t : Thread) : (s.setThread c k t).atts = s.atts := rfl
@[simp] theorem State.setThread_chks (s : State) (c k : Nat) (t : Thread) : (s.setThread c k t).chks = s.chks := rfl
@[simp] theorem State.setThread_smps (s : State) (c k : Nat) (t : Thread) : (s.setThread c k t).smps = s.smps := rfl
@[simp] theorem State.setThread_ringCtrs (s : State) (c k : Nat) (t : Thread) : (s.setThread c k t).ringCtrs = s.ringCtrs := rfl
@[simp] theorem State.setThread_trees (s : State) (c k : Nat) (t : Thread) : (s.setThread c k t).trees = s.trees := rfl
@[simp] theorem State.setThread_walks (s : State) (c k : Nat) (t : Thread) : (s.setThread c k t).walks = s.walks := rfl
@[simp] theorem State.setThread_objs (s : State) (c k : Nat) (t : Thread) : (s.setThread c k t).objs = s.objs := rfl
@[simp] theorem State.setThread_ctls (s : State) (c k : Nat) (t : Thread) : (s.setThread c k t).ctls = s.ctls := rfl
@[simp] theorem State.setThread_looks (s : State) (c k : Nat) (t : Thread) : (s.setThread c k t).looks = s.looks := rfl
@[simp] theorem State.setThread_schobj (s : State) (c k : Nat) (t : Thread) : (s.setThread c k t).schobj = s.schobj := rfl
@[simp] theorem State.setThread_schRetry (s : State) (c k : Nat) (t : Thread) : (s.setThread c k t).schRetry = s.schRetry := rfl
@[simp] theorem State.setThread_schLimit (s : State) (c k : Nat) (t : Thread) : (s.setThread c k t).schLimit = s.schLimit := rfl
@[simp] theorem State.setThread_extents (s : State) (c k : Nat) (t : Thread) : (s.setThread c k t).extents = s.extents := rfl
@[simp] theorem State.setThread_mods (s : State) (c k : Nat) (t : Thread) : (s.setThread c k t).mods = s.mods := rfl
@[simp] theorem State.setThread_halfMode (s : State) (c k : Nat) (t : Thread) : (s.setThread c k t).halfMode = s.halfMode := rfl
@[simp] theorem State.setThread_dqs (s : State) (c k : Nat) (t : Thread) : (s.setThread c k t).dqs = s.dqs := rfl
@[simp] theorem State.setThread_groups (s : State) (c k : Nat) (t : Thread) : (s.setThread c k t).groups = s.groups := rfl
@[simp] theorem State.setThread_peers (s : State) (c k : Nat) (t : Thread) : (s.setThread c k t).peers = s.peers := rfl
@[simp] theorem State.setThread_xruns (s : State) (c k : Nat) (t : Thread) : (s.setThread c k t).xruns = s.xruns := rfl
@[simp] theorem State.setThread_hostReqs (s : State) (c k : Nat) (t : Thread) : (s.setThread c k t).hostReqs = s.hostReqs := rfl
@[simp] theorem State.setThread_hostMode (s : State) (c k : Nat) (t : Thread) : (s.setThread c k t).hostMode = s.hostMode := rfl
@[simp] theorem State.setThread_hostFb (s : State) (c k : Nat) (t : Thread) : (s.setThread c k t).hostFb = s.hostFb := rfl
@[simp] theorem State.setThread_hostFbca (s : State) (c k : Nat) (t : Thread) : (s.setThread c k t).hostFbca = s.hostFbca := rfl
@[simp] theorem State.setThread_fbcnt (s : State) (c k : Nat) (t : Thread) : (s.setThread c k t).fbcnt = s.fbcnt := rfl
@[simp] theorem State.setThread_fbq (s : State) (c k : Nat) (t : Thread) : (s.setThread c k t).fbq = s.fbq := rfl
@[simp] theorem State.setThread_lnklog (s : State) (c k : Nat) (t : Thread) : (s.setThread c k t).lnklog = s.lnklog := rfl
@[simp] theorem State.setThread_routes (s : State) (c k : Nat) (t : Thread) : (s.setThread c k t).routes = s.routes := rfl
@[simp] theorem State.setThread_routeDown (s : State) (c k : Nat) (t : Thread) : (s.setThread c k t).routeDown = s.routeDown := rfl
@[simp] theorem State.setThread_bar2 (s : State) (c k : Nat) (t : Thread) : (s.setThread c k t).bar2 = s.bar2 := rfl
@[simp] theorem State.setThread_answer (s : State) (c k : Nat) (t : Thread) : (s.setThread c k t).answer = s.answer := rfl
@[simp] theorem State.setThread_svState (s : State) (c k : Nat) (t : Thread) : (s.setThread c k t).svState = s.svState := rfl
@[simp] theorem State.setThread_svCode (s : State) (c k : Nat) (t : Thread) : (s.setThread c k t).svCode = s.svCode := rfl
@[simp] theorem State.setThread_reqbase (s : State) (c k : Nat) (t : Thread) : (s.setThread c k t).reqbase = s.reqbase := rfl
@[simp] theorem State.setThread_reqtail (s : State) (c k : Nat) (t : Thread) : (s.setThread c k t).reqtail = s.reqtail := rfl
@[simp] theorem State.setThread_reqhead (s : State) (c k : Nat) (t : Thread) : (s.setThread c k t).reqhead = s.reqhead := rfl
@[simp] theorem State.setThread_firmware (s : State) (c k : Nat) (t : Thread) : (s.setThread c k t).firmware = s.firmware := rfl
@[simp] theorem State.setThread_svn (s : State) (c k : Nat) (t : Thread) : (s.setThread c k t).svn = s.svn := rfl
@[simp] theorem State.setThread_maskRec (s : State) (c k : Nat) (t : Thread) : (s.setThread c k t).maskRec = s.maskRec := rfl
@[simp] theorem State.setThread_running (s : State) (c k : Nat) (t : Thread) : (s.setThread c k t).running = s.running := rfl
@[simp] theorem State.setThread_rsaHash (s : State) (c k : Nat) (t : Thread) : (s.setThread c k t).rsaHash = s.rsaHash := rfl
@[simp] theorem State.setThread_slhHash (s : State) (c k : Nat) (t : Thread) : (s.setThread c k t).slhHash = s.slhHash := rfl
@[simp] theorem State.setThread_secret (s : State) (c k : Nat) (t : Thread) : (s.setThread c k t).secret = s.secret := rfl
@[simp] theorem State.setThread_idRsa (s : State) (c k : Nat) (t : Thread) : (s.setThread c k t).idRsa = s.idRsa := rfl
@[simp] theorem State.setThread_idSlh (s : State) (c k : Nat) (t : Thread) : (s.setThread c k t).idSlh = s.idSlh := rfl
@[simp] theorem State.setThread_certRsa (s : State) (c k : Nat) (t : Thread) : (s.setThread c k t).certRsa = s.certRsa := rfl
@[simp] theorem State.setThread_certSlh (s : State) (c k : Nat) (t : Thread) : (s.setThread c k t).certSlh = s.certSlh := rfl
@[simp] theorem State.setThread_health (s : State) (c k : Nat) (t : Thread) : (s.setThread c k t).health = s.health := rfl
@[simp] theorem State.setThread_temps (s : State) (c k : Nat) (t : Thread) : (s.setThread c k t).temps = s.temps := rfl
@[simp] theorem State.setThread_images (s : State) (c k : Nat) (t : Thread) : (s.setThread c k t).images = s.images := rfl
@[simp] theorem State.setThread_swaps (s : State) (c k : Nat) (t : Thread) : (s.setThread c k t).swaps = s.swaps := rfl
@[simp] theorem State.setThread_shut (s : State) (c k : Nat) (t : Thread) : (s.setThread c k t).shut = s.shut := rfl
@[simp] theorem State.setThread_halves (s : State) (c k : Nat) (t : Thread) : (s.setThread c k t).halves = s.halves := rfl
@[simp] theorem State.setThread_target (s : State) (c k : Nat) (t : Thread) : (s.setThread c k t).target = s.target := rfl
@[simp] theorem State.setThread_epoch (s : State) (c k : Nat) (t : Thread) : (s.setThread c k t).epoch = s.epoch := rfl
@[simp] theorem State.setThread_ctxrpt (s : State) (c k : Nat) (t : Thread) : (s.setThread c k t).ctxrpt = s.ctxrpt := rfl
@[simp] theorem State.setThread_report (s : State) (c k : Nat) (t : Thread) : (s.setThread c k t).report = s.report := rfl
@[simp] theorem State.setThread_cap (s : State) (c k : Nat) (t : Thread) : (s.setThread c k t).cap = s.cap := rfl
@[simp] theorem State.setThread_vbank (s : State) (c k : Nat) (t : Thread) : (s.setThread c k t).vbank = s.vbank := rfl
@[simp] theorem State.setThread_ports (s : State) (c k : Nat) (t : Thread) : (s.setThread c k t).ports = s.ports := rfl
@[simp] theorem State.setThread_mplog (s : State) (c k : Nat) (t : Thread) : (s.setThread c k t).mplog = s.mplog := rfl
@[simp] theorem State.setThread_selog (s : State) (c k : Nat) (t : Thread) : (s.setThread c k t).selog = s.selog := rfl

@[simp] theorem State.setCurT_sched (s : State) (t : Thread) : (s.setCurT t).sched = s.sched := rfl
@[simp] theorem State.setCurT_cursor (s : State) (t : Thread) : (s.setCurT t).cursor = s.cursor := rfl
@[simp] theorem State.setCurT_cur (s : State) (t : Thread) : (s.setCurT t).cur = s.cur := rfl
@[simp] theorem State.setCurT_freeCtr (s : State) (t : Thread) : (s.setCurT t).freeCtr = s.freeCtr := rfl
@[simp] theorem State.setCurT_opSeq (s : State) (t : Thread) : (s.setCurT t).opSeq = s.opSeq := rfl
@[simp] theorem State.setCurT_time (s : State) (t : Thread) : (s.setCurT t).time = s.time := rfl
@[simp] theorem State.setCurT_dev (s : State) (t : Thread) : (s.setCurT t).dev = s.dev := rfl
@[simp] theorem State.setCurT_spad (s : State) (t : Thread) : (s.setCurT t).spad = s.spad := rfl
@[simp] theorem State.setCurT_host (s : State) (t : Thread) : (s.setCurT t).host = s.host := rfl
@[simp] theorem State.setCurT_remote (s : State) (t : Thread) : (s.setCurT t).remote = s.remote := rfl
@[simp] theorem State.setCurT_poison (s : State) (t : Thread) : (s.setCurT t).poison = s.poison := rfl
@[simp] theorem State.setCurT_spadPoison (s : State) (t : Thread) : (s.setCurT t).spadPoison = s.spadPoison := rfl
@[simp] theorem State.setCurT_cores (s : State) (t : Thread) : (s.setCurT t).cores = s.cores := rfl
@[simp] theorem State.setCurT_mails (s : State) (t : Thread) : (s.setCurT t).mails = s.mails := rfl
@[simp] theorem State.setCurT_bars (s : State) (t : Thread) : (s.setCurT t).bars = s.bars := rfl
@[simp] theorem State.setCurT_tlb (s : State) (t : Thread) : (s.setCurT t).tlb = s.tlb := rfl
@[simp] theorem State.setCurT_access (s : State) (t : Thread) : (s.setCurT t).access = s.access := rfl
@[simp] theorem State.setCurT_masks (s : State) (t : Thread) : (s.setCurT t).masks = s.masks := rfl
@[simp] theorem State.setCurT_streams (s : State) (t : Thread) : (s.setCurT t).streams = s.streams := rfl
@[simp] theorem State.setCurT_served (s : State) (t : Thread) : (s.setCurT t).served = s.served := rfl
@[simp] theorem State.setCurT_results (s : State) (t : Thread) : (s.setCurT t).results = s.results := rfl
@[simp] theorem State.setCurT_pkg (s : State) (t : Thread) : (s.setCurT t).pkg = s.pkg := rfl
@[simp] theorem State.setCurT_indom (s : State) (t : Thread) : (s.setCurT t).indom = s.indom := rfl
@[simp] theorem State.setCurT_unreach (s : State) (t : Thread) : (s.setCurT t).unreach = s.unreach := rfl
@[simp] theorem State.setCurT_ctxtab (s : State) (t : Thread) : (s.setCurT t).ctxtab = s.ctxtab := rfl
@[simp] theorem State.setCurT_qmgs (s : State) (t : Thread) : (s.setCurT t).qmgs = s.qmgs := rfl
@[simp] theorem State.setCurT_outs (s : State) (t : Thread) : (s.setCurT t).outs = s.outs := rfl
@[simp] theorem State.setCurT_parks (s : State) (t : Thread) : (s.setCurT t).parks = s.parks := rfl
@[simp] theorem State.setCurT_msix (s : State) (t : Thread) : (s.setCurT t).msix = s.msix := rfl
@[simp] theorem State.setCurT_islands (s : State) (t : Thread) : (s.setCurT t).islands = s.islands := rfl
@[simp] theorem State.setCurT_islandClk (s : State) (t : Thread) : (s.setCurT t).islandClk = s.islandClk := rfl
@[simp] theorem State.setCurT_chans (s : State) (t : Thread) : (s.setCurT t).chans = s.chans := rfl
@[simp] theorem State.setCurT_mats (s : State) (t : Thread) : (s.setCurT t).mats = s.mats := rfl
@[simp] theorem State.setCurT_atts (s : State) (t : Thread) : (s.setCurT t).atts = s.atts := rfl
@[simp] theorem State.setCurT_chks (s : State) (t : Thread) : (s.setCurT t).chks = s.chks := rfl
@[simp] theorem State.setCurT_smps (s : State) (t : Thread) : (s.setCurT t).smps = s.smps := rfl
@[simp] theorem State.setCurT_ringCtrs (s : State) (t : Thread) : (s.setCurT t).ringCtrs = s.ringCtrs := rfl
@[simp] theorem State.setCurT_trees (s : State) (t : Thread) : (s.setCurT t).trees = s.trees := rfl
@[simp] theorem State.setCurT_walks (s : State) (t : Thread) : (s.setCurT t).walks = s.walks := rfl
@[simp] theorem State.setCurT_objs (s : State) (t : Thread) : (s.setCurT t).objs = s.objs := rfl
@[simp] theorem State.setCurT_ctls (s : State) (t : Thread) : (s.setCurT t).ctls = s.ctls := rfl
@[simp] theorem State.setCurT_looks (s : State) (t : Thread) : (s.setCurT t).looks = s.looks := rfl
@[simp] theorem State.setCurT_schobj (s : State) (t : Thread) : (s.setCurT t).schobj = s.schobj := rfl
@[simp] theorem State.setCurT_schRetry (s : State) (t : Thread) : (s.setCurT t).schRetry = s.schRetry := rfl
@[simp] theorem State.setCurT_schLimit (s : State) (t : Thread) : (s.setCurT t).schLimit = s.schLimit := rfl
@[simp] theorem State.setCurT_extents (s : State) (t : Thread) : (s.setCurT t).extents = s.extents := rfl
@[simp] theorem State.setCurT_mods (s : State) (t : Thread) : (s.setCurT t).mods = s.mods := rfl
@[simp] theorem State.setCurT_halfMode (s : State) (t : Thread) : (s.setCurT t).halfMode = s.halfMode := rfl
@[simp] theorem State.setCurT_dqs (s : State) (t : Thread) : (s.setCurT t).dqs = s.dqs := rfl
@[simp] theorem State.setCurT_groups (s : State) (t : Thread) : (s.setCurT t).groups = s.groups := rfl
@[simp] theorem State.setCurT_peers (s : State) (t : Thread) : (s.setCurT t).peers = s.peers := rfl
@[simp] theorem State.setCurT_xruns (s : State) (t : Thread) : (s.setCurT t).xruns = s.xruns := rfl
@[simp] theorem State.setCurT_hostReqs (s : State) (t : Thread) : (s.setCurT t).hostReqs = s.hostReqs := rfl
@[simp] theorem State.setCurT_hostMode (s : State) (t : Thread) : (s.setCurT t).hostMode = s.hostMode := rfl
@[simp] theorem State.setCurT_hostFb (s : State) (t : Thread) : (s.setCurT t).hostFb = s.hostFb := rfl
@[simp] theorem State.setCurT_hostFbca (s : State) (t : Thread) : (s.setCurT t).hostFbca = s.hostFbca := rfl
@[simp] theorem State.setCurT_fbcnt (s : State) (t : Thread) : (s.setCurT t).fbcnt = s.fbcnt := rfl
@[simp] theorem State.setCurT_fbq (s : State) (t : Thread) : (s.setCurT t).fbq = s.fbq := rfl
@[simp] theorem State.setCurT_lnklog (s : State) (t : Thread) : (s.setCurT t).lnklog = s.lnklog := rfl
@[simp] theorem State.setCurT_routes (s : State) (t : Thread) : (s.setCurT t).routes = s.routes := rfl
@[simp] theorem State.setCurT_routeDown (s : State) (t : Thread) : (s.setCurT t).routeDown = s.routeDown := rfl
@[simp] theorem State.setCurT_bar2 (s : State) (t : Thread) : (s.setCurT t).bar2 = s.bar2 := rfl
@[simp] theorem State.setCurT_answer (s : State) (t : Thread) : (s.setCurT t).answer = s.answer := rfl
@[simp] theorem State.setCurT_svState (s : State) (t : Thread) : (s.setCurT t).svState = s.svState := rfl
@[simp] theorem State.setCurT_svCode (s : State) (t : Thread) : (s.setCurT t).svCode = s.svCode := rfl
@[simp] theorem State.setCurT_reqbase (s : State) (t : Thread) : (s.setCurT t).reqbase = s.reqbase := rfl
@[simp] theorem State.setCurT_reqtail (s : State) (t : Thread) : (s.setCurT t).reqtail = s.reqtail := rfl
@[simp] theorem State.setCurT_reqhead (s : State) (t : Thread) : (s.setCurT t).reqhead = s.reqhead := rfl
@[simp] theorem State.setCurT_firmware (s : State) (t : Thread) : (s.setCurT t).firmware = s.firmware := rfl
@[simp] theorem State.setCurT_svn (s : State) (t : Thread) : (s.setCurT t).svn = s.svn := rfl
@[simp] theorem State.setCurT_maskRec (s : State) (t : Thread) : (s.setCurT t).maskRec = s.maskRec := rfl
@[simp] theorem State.setCurT_running (s : State) (t : Thread) : (s.setCurT t).running = s.running := rfl
@[simp] theorem State.setCurT_rsaHash (s : State) (t : Thread) : (s.setCurT t).rsaHash = s.rsaHash := rfl
@[simp] theorem State.setCurT_slhHash (s : State) (t : Thread) : (s.setCurT t).slhHash = s.slhHash := rfl
@[simp] theorem State.setCurT_secret (s : State) (t : Thread) : (s.setCurT t).secret = s.secret := rfl
@[simp] theorem State.setCurT_idRsa (s : State) (t : Thread) : (s.setCurT t).idRsa = s.idRsa := rfl
@[simp] theorem State.setCurT_idSlh (s : State) (t : Thread) : (s.setCurT t).idSlh = s.idSlh := rfl
@[simp] theorem State.setCurT_certRsa (s : State) (t : Thread) : (s.setCurT t).certRsa = s.certRsa := rfl
@[simp] theorem State.setCurT_certSlh (s : State) (t : Thread) : (s.setCurT t).certSlh = s.certSlh := rfl
@[simp] theorem State.setCurT_health (s : State) (t : Thread) : (s.setCurT t).health = s.health := rfl
@[simp] theorem State.setCurT_temps (s : State) (t : Thread) : (s.setCurT t).temps = s.temps := rfl
@[simp] theorem State.setCurT_images (s : State) (t : Thread) : (s.setCurT t).images = s.images := rfl
@[simp] theorem State.setCurT_swaps (s : State) (t : Thread) : (s.setCurT t).swaps = s.swaps := rfl
@[simp] theorem State.setCurT_shut (s : State) (t : Thread) : (s.setCurT t).shut = s.shut := rfl
@[simp] theorem State.setCurT_halves (s : State) (t : Thread) : (s.setCurT t).halves = s.halves := rfl
@[simp] theorem State.setCurT_target (s : State) (t : Thread) : (s.setCurT t).target = s.target := rfl
@[simp] theorem State.setCurT_epoch (s : State) (t : Thread) : (s.setCurT t).epoch = s.epoch := rfl
@[simp] theorem State.setCurT_ctxrpt (s : State) (t : Thread) : (s.setCurT t).ctxrpt = s.ctxrpt := rfl
@[simp] theorem State.setCurT_report (s : State) (t : Thread) : (s.setCurT t).report = s.report := rfl
@[simp] theorem State.setCurT_cap (s : State) (t : Thread) : (s.setCurT t).cap = s.cap := rfl
@[simp] theorem State.setCurT_vbank (s : State) (t : Thread) : (s.setCurT t).vbank = s.vbank := rfl
@[simp] theorem State.setCurT_ports (s : State) (t : Thread) : (s.setCurT t).ports = s.ports := rfl
@[simp] theorem State.setCurT_mplog (s : State) (t : Thread) : (s.setCurT t).mplog = s.mplog := rfl
@[simp] theorem State.setCurT_selog (s : State) (t : Thread) : (s.setCurT t).selog = s.selog := rfl

@[simp] theorem State.setCore_sched (s : State) (c : Nat) (k : Core) : (s.setCore c k).sched = s.sched := rfl
@[simp] theorem State.setCore_cursor (s : State) (c : Nat) (k : Core) : (s.setCore c k).cursor = s.cursor := rfl
@[simp] theorem State.setCore_cur (s : State) (c : Nat) (k : Core) : (s.setCore c k).cur = s.cur := rfl
@[simp] theorem State.setCore_freeCtr (s : State) (c : Nat) (k : Core) : (s.setCore c k).freeCtr = s.freeCtr := rfl
@[simp] theorem State.setCore_opSeq (s : State) (c : Nat) (k : Core) : (s.setCore c k).opSeq = s.opSeq := rfl
@[simp] theorem State.setCore_time (s : State) (c : Nat) (k : Core) : (s.setCore c k).time = s.time := rfl
@[simp] theorem State.setCore_dev (s : State) (c : Nat) (k : Core) : (s.setCore c k).dev = s.dev := rfl
@[simp] theorem State.setCore_spad (s : State) (c : Nat) (k : Core) : (s.setCore c k).spad = s.spad := rfl
@[simp] theorem State.setCore_host (s : State) (c : Nat) (k : Core) : (s.setCore c k).host = s.host := rfl
@[simp] theorem State.setCore_remote (s : State) (c : Nat) (k : Core) : (s.setCore c k).remote = s.remote := rfl
@[simp] theorem State.setCore_poison (s : State) (c : Nat) (k : Core) : (s.setCore c k).poison = s.poison := rfl
@[simp] theorem State.setCore_spadPoison (s : State) (c : Nat) (k : Core) : (s.setCore c k).spadPoison = s.spadPoison := rfl
@[simp] theorem State.setCore_threads (s : State) (c : Nat) (k : Core) : (s.setCore c k).threads = s.threads := rfl
@[simp] theorem State.setCore_mails (s : State) (c : Nat) (k : Core) : (s.setCore c k).mails = s.mails := rfl
@[simp] theorem State.setCore_bars (s : State) (c : Nat) (k : Core) : (s.setCore c k).bars = s.bars := rfl
@[simp] theorem State.setCore_tlb (s : State) (c : Nat) (k : Core) : (s.setCore c k).tlb = s.tlb := rfl
@[simp] theorem State.setCore_access (s : State) (c : Nat) (k : Core) : (s.setCore c k).access = s.access := rfl
@[simp] theorem State.setCore_masks (s : State) (c : Nat) (k : Core) : (s.setCore c k).masks = s.masks := rfl
@[simp] theorem State.setCore_streams (s : State) (c : Nat) (k : Core) : (s.setCore c k).streams = s.streams := rfl
@[simp] theorem State.setCore_served (s : State) (c : Nat) (k : Core) : (s.setCore c k).served = s.served := rfl
@[simp] theorem State.setCore_results (s : State) (c : Nat) (k : Core) : (s.setCore c k).results = s.results := rfl
@[simp] theorem State.setCore_pkg (s : State) (c : Nat) (k : Core) : (s.setCore c k).pkg = s.pkg := rfl
@[simp] theorem State.setCore_indom (s : State) (c : Nat) (k : Core) : (s.setCore c k).indom = s.indom := rfl
@[simp] theorem State.setCore_unreach (s : State) (c : Nat) (k : Core) : (s.setCore c k).unreach = s.unreach := rfl
@[simp] theorem State.setCore_ctxtab (s : State) (c : Nat) (k : Core) : (s.setCore c k).ctxtab = s.ctxtab := rfl
@[simp] theorem State.setCore_qmgs (s : State) (c : Nat) (k : Core) : (s.setCore c k).qmgs = s.qmgs := rfl
@[simp] theorem State.setCore_outs (s : State) (c : Nat) (k : Core) : (s.setCore c k).outs = s.outs := rfl
@[simp] theorem State.setCore_parks (s : State) (c : Nat) (k : Core) : (s.setCore c k).parks = s.parks := rfl
@[simp] theorem State.setCore_msix (s : State) (c : Nat) (k : Core) : (s.setCore c k).msix = s.msix := rfl
@[simp] theorem State.setCore_islands (s : State) (c : Nat) (k : Core) : (s.setCore c k).islands = s.islands := rfl
@[simp] theorem State.setCore_islandClk (s : State) (c : Nat) (k : Core) : (s.setCore c k).islandClk = s.islandClk := rfl
@[simp] theorem State.setCore_chans (s : State) (c : Nat) (k : Core) : (s.setCore c k).chans = s.chans := rfl
@[simp] theorem State.setCore_mats (s : State) (c : Nat) (k : Core) : (s.setCore c k).mats = s.mats := rfl
@[simp] theorem State.setCore_atts (s : State) (c : Nat) (k : Core) : (s.setCore c k).atts = s.atts := rfl
@[simp] theorem State.setCore_chks (s : State) (c : Nat) (k : Core) : (s.setCore c k).chks = s.chks := rfl
@[simp] theorem State.setCore_smps (s : State) (c : Nat) (k : Core) : (s.setCore c k).smps = s.smps := rfl
@[simp] theorem State.setCore_ringCtrs (s : State) (c : Nat) (k : Core) : (s.setCore c k).ringCtrs = s.ringCtrs := rfl
@[simp] theorem State.setCore_trees (s : State) (c : Nat) (k : Core) : (s.setCore c k).trees = s.trees := rfl
@[simp] theorem State.setCore_walks (s : State) (c : Nat) (k : Core) : (s.setCore c k).walks = s.walks := rfl
@[simp] theorem State.setCore_objs (s : State) (c : Nat) (k : Core) : (s.setCore c k).objs = s.objs := rfl
@[simp] theorem State.setCore_ctls (s : State) (c : Nat) (k : Core) : (s.setCore c k).ctls = s.ctls := rfl
@[simp] theorem State.setCore_looks (s : State) (c : Nat) (k : Core) : (s.setCore c k).looks = s.looks := rfl
@[simp] theorem State.setCore_schobj (s : State) (c : Nat) (k : Core) : (s.setCore c k).schobj = s.schobj := rfl
@[simp] theorem State.setCore_schRetry (s : State) (c : Nat) (k : Core) : (s.setCore c k).schRetry = s.schRetry := rfl
@[simp] theorem State.setCore_schLimit (s : State) (c : Nat) (k : Core) : (s.setCore c k).schLimit = s.schLimit := rfl
@[simp] theorem State.setCore_extents (s : State) (c : Nat) (k : Core) : (s.setCore c k).extents = s.extents := rfl
@[simp] theorem State.setCore_mods (s : State) (c : Nat) (k : Core) : (s.setCore c k).mods = s.mods := rfl
@[simp] theorem State.setCore_halfMode (s : State) (c : Nat) (k : Core) : (s.setCore c k).halfMode = s.halfMode := rfl
@[simp] theorem State.setCore_dqs (s : State) (c : Nat) (k : Core) : (s.setCore c k).dqs = s.dqs := rfl
@[simp] theorem State.setCore_groups (s : State) (c : Nat) (k : Core) : (s.setCore c k).groups = s.groups := rfl
@[simp] theorem State.setCore_peers (s : State) (c : Nat) (k : Core) : (s.setCore c k).peers = s.peers := rfl
@[simp] theorem State.setCore_xruns (s : State) (c : Nat) (k : Core) : (s.setCore c k).xruns = s.xruns := rfl
@[simp] theorem State.setCore_hostReqs (s : State) (c : Nat) (k : Core) : (s.setCore c k).hostReqs = s.hostReqs := rfl
@[simp] theorem State.setCore_hostMode (s : State) (c : Nat) (k : Core) : (s.setCore c k).hostMode = s.hostMode := rfl
@[simp] theorem State.setCore_hostFb (s : State) (c : Nat) (k : Core) : (s.setCore c k).hostFb = s.hostFb := rfl
@[simp] theorem State.setCore_hostFbca (s : State) (c : Nat) (k : Core) : (s.setCore c k).hostFbca = s.hostFbca := rfl
@[simp] theorem State.setCore_fbcnt (s : State) (c : Nat) (k : Core) : (s.setCore c k).fbcnt = s.fbcnt := rfl
@[simp] theorem State.setCore_fbq (s : State) (c : Nat) (k : Core) : (s.setCore c k).fbq = s.fbq := rfl
@[simp] theorem State.setCore_lnklog (s : State) (c : Nat) (k : Core) : (s.setCore c k).lnklog = s.lnklog := rfl
@[simp] theorem State.setCore_routes (s : State) (c : Nat) (k : Core) : (s.setCore c k).routes = s.routes := rfl
@[simp] theorem State.setCore_routeDown (s : State) (c : Nat) (k : Core) : (s.setCore c k).routeDown = s.routeDown := rfl
@[simp] theorem State.setCore_bar2 (s : State) (c : Nat) (k : Core) : (s.setCore c k).bar2 = s.bar2 := rfl
@[simp] theorem State.setCore_answer (s : State) (c : Nat) (k : Core) : (s.setCore c k).answer = s.answer := rfl
@[simp] theorem State.setCore_svState (s : State) (c : Nat) (k : Core) : (s.setCore c k).svState = s.svState := rfl
@[simp] theorem State.setCore_svCode (s : State) (c : Nat) (k : Core) : (s.setCore c k).svCode = s.svCode := rfl
@[simp] theorem State.setCore_reqbase (s : State) (c : Nat) (k : Core) : (s.setCore c k).reqbase = s.reqbase := rfl
@[simp] theorem State.setCore_reqtail (s : State) (c : Nat) (k : Core) : (s.setCore c k).reqtail = s.reqtail := rfl
@[simp] theorem State.setCore_reqhead (s : State) (c : Nat) (k : Core) : (s.setCore c k).reqhead = s.reqhead := rfl
@[simp] theorem State.setCore_firmware (s : State) (c : Nat) (k : Core) : (s.setCore c k).firmware = s.firmware := rfl
@[simp] theorem State.setCore_svn (s : State) (c : Nat) (k : Core) : (s.setCore c k).svn = s.svn := rfl
@[simp] theorem State.setCore_maskRec (s : State) (c : Nat) (k : Core) : (s.setCore c k).maskRec = s.maskRec := rfl
@[simp] theorem State.setCore_running (s : State) (c : Nat) (k : Core) : (s.setCore c k).running = s.running := rfl
@[simp] theorem State.setCore_rsaHash (s : State) (c : Nat) (k : Core) : (s.setCore c k).rsaHash = s.rsaHash := rfl
@[simp] theorem State.setCore_slhHash (s : State) (c : Nat) (k : Core) : (s.setCore c k).slhHash = s.slhHash := rfl
@[simp] theorem State.setCore_secret (s : State) (c : Nat) (k : Core) : (s.setCore c k).secret = s.secret := rfl
@[simp] theorem State.setCore_idRsa (s : State) (c : Nat) (k : Core) : (s.setCore c k).idRsa = s.idRsa := rfl
@[simp] theorem State.setCore_idSlh (s : State) (c : Nat) (k : Core) : (s.setCore c k).idSlh = s.idSlh := rfl
@[simp] theorem State.setCore_certRsa (s : State) (c : Nat) (k : Core) : (s.setCore c k).certRsa = s.certRsa := rfl
@[simp] theorem State.setCore_certSlh (s : State) (c : Nat) (k : Core) : (s.setCore c k).certSlh = s.certSlh := rfl
@[simp] theorem State.setCore_health (s : State) (c : Nat) (k : Core) : (s.setCore c k).health = s.health := rfl
@[simp] theorem State.setCore_temps (s : State) (c : Nat) (k : Core) : (s.setCore c k).temps = s.temps := rfl
@[simp] theorem State.setCore_images (s : State) (c : Nat) (k : Core) : (s.setCore c k).images = s.images := rfl
@[simp] theorem State.setCore_swaps (s : State) (c : Nat) (k : Core) : (s.setCore c k).swaps = s.swaps := rfl
@[simp] theorem State.setCore_shut (s : State) (c : Nat) (k : Core) : (s.setCore c k).shut = s.shut := rfl
@[simp] theorem State.setCore_halves (s : State) (c : Nat) (k : Core) : (s.setCore c k).halves = s.halves := rfl
@[simp] theorem State.setCore_target (s : State) (c : Nat) (k : Core) : (s.setCore c k).target = s.target := rfl
@[simp] theorem State.setCore_epoch (s : State) (c : Nat) (k : Core) : (s.setCore c k).epoch = s.epoch := rfl
@[simp] theorem State.setCore_ctxrpt (s : State) (c : Nat) (k : Core) : (s.setCore c k).ctxrpt = s.ctxrpt := rfl
@[simp] theorem State.setCore_report (s : State) (c : Nat) (k : Core) : (s.setCore c k).report = s.report := rfl
@[simp] theorem State.setCore_cap (s : State) (c : Nat) (k : Core) : (s.setCore c k).cap = s.cap := rfl
@[simp] theorem State.setCore_vbank (s : State) (c : Nat) (k : Core) : (s.setCore c k).vbank = s.vbank := rfl
@[simp] theorem State.setCore_ports (s : State) (c : Nat) (k : Core) : (s.setCore c k).ports = s.ports := rfl
@[simp] theorem State.setCore_mplog (s : State) (c : Nat) (k : Core) : (s.setCore c k).mplog = s.mplog := rfl
@[simp] theorem State.setCore_selog (s : State) (c : Nat) (k : Core) : (s.setCore c k).selog = s.selog := rfl

@[simp] theorem State.setEstream_sched (s : State) (e c : Nat) (v : EStream) : (s.setEstream e c v).sched = s.sched := rfl
@[simp] theorem State.setEstream_cursor (s : State) (e c : Nat) (v : EStream) : (s.setEstream e c v).cursor = s.cursor := rfl
@[simp] theorem State.setEstream_cur (s : State) (e c : Nat) (v : EStream) : (s.setEstream e c v).cur = s.cur := rfl
@[simp] theorem State.setEstream_freeCtr (s : State) (e c : Nat) (v : EStream) : (s.setEstream e c v).freeCtr = s.freeCtr := rfl
@[simp] theorem State.setEstream_opSeq (s : State) (e c : Nat) (v : EStream) : (s.setEstream e c v).opSeq = s.opSeq := rfl
@[simp] theorem State.setEstream_time (s : State) (e c : Nat) (v : EStream) : (s.setEstream e c v).time = s.time := rfl
@[simp] theorem State.setEstream_dev (s : State) (e c : Nat) (v : EStream) : (s.setEstream e c v).dev = s.dev := rfl
@[simp] theorem State.setEstream_spad (s : State) (e c : Nat) (v : EStream) : (s.setEstream e c v).spad = s.spad := rfl
@[simp] theorem State.setEstream_host (s : State) (e c : Nat) (v : EStream) : (s.setEstream e c v).host = s.host := rfl
@[simp] theorem State.setEstream_remote (s : State) (e c : Nat) (v : EStream) : (s.setEstream e c v).remote = s.remote := rfl
@[simp] theorem State.setEstream_poison (s : State) (e c : Nat) (v : EStream) : (s.setEstream e c v).poison = s.poison := rfl
@[simp] theorem State.setEstream_spadPoison (s : State) (e c : Nat) (v : EStream) : (s.setEstream e c v).spadPoison = s.spadPoison := rfl
@[simp] theorem State.setEstream_threads (s : State) (e c : Nat) (v : EStream) : (s.setEstream e c v).threads = s.threads := rfl
@[simp] theorem State.setEstream_cores (s : State) (e c : Nat) (v : EStream) : (s.setEstream e c v).cores = s.cores := rfl
@[simp] theorem State.setEstream_mails (s : State) (e c : Nat) (v : EStream) : (s.setEstream e c v).mails = s.mails := rfl
@[simp] theorem State.setEstream_bars (s : State) (e c : Nat) (v : EStream) : (s.setEstream e c v).bars = s.bars := rfl
@[simp] theorem State.setEstream_tlb (s : State) (e c : Nat) (v : EStream) : (s.setEstream e c v).tlb = s.tlb := rfl
@[simp] theorem State.setEstream_access (s : State) (e c : Nat) (v : EStream) : (s.setEstream e c v).access = s.access := rfl
@[simp] theorem State.setEstream_masks (s : State) (e c : Nat) (v : EStream) : (s.setEstream e c v).masks = s.masks := rfl
@[simp] theorem State.setEstream_served (s : State) (e c : Nat) (v : EStream) : (s.setEstream e c v).served = s.served := rfl
@[simp] theorem State.setEstream_results (s : State) (e c : Nat) (v : EStream) : (s.setEstream e c v).results = s.results := rfl
@[simp] theorem State.setEstream_pkg (s : State) (e c : Nat) (v : EStream) : (s.setEstream e c v).pkg = s.pkg := rfl
@[simp] theorem State.setEstream_indom (s : State) (e c : Nat) (v : EStream) : (s.setEstream e c v).indom = s.indom := rfl
@[simp] theorem State.setEstream_unreach (s : State) (e c : Nat) (v : EStream) : (s.setEstream e c v).unreach = s.unreach := rfl
@[simp] theorem State.setEstream_ctxtab (s : State) (e c : Nat) (v : EStream) : (s.setEstream e c v).ctxtab = s.ctxtab := rfl
@[simp] theorem State.setEstream_qmgs (s : State) (e c : Nat) (v : EStream) : (s.setEstream e c v).qmgs = s.qmgs := rfl
@[simp] theorem State.setEstream_outs (s : State) (e c : Nat) (v : EStream) : (s.setEstream e c v).outs = s.outs := rfl
@[simp] theorem State.setEstream_parks (s : State) (e c : Nat) (v : EStream) : (s.setEstream e c v).parks = s.parks := rfl
@[simp] theorem State.setEstream_msix (s : State) (e c : Nat) (v : EStream) : (s.setEstream e c v).msix = s.msix := rfl
@[simp] theorem State.setEstream_islands (s : State) (e c : Nat) (v : EStream) : (s.setEstream e c v).islands = s.islands := rfl
@[simp] theorem State.setEstream_islandClk (s : State) (e c : Nat) (v : EStream) : (s.setEstream e c v).islandClk = s.islandClk := rfl
@[simp] theorem State.setEstream_chans (s : State) (e c : Nat) (v : EStream) : (s.setEstream e c v).chans = s.chans := rfl
@[simp] theorem State.setEstream_mats (s : State) (e c : Nat) (v : EStream) : (s.setEstream e c v).mats = s.mats := rfl
@[simp] theorem State.setEstream_atts (s : State) (e c : Nat) (v : EStream) : (s.setEstream e c v).atts = s.atts := rfl
@[simp] theorem State.setEstream_chks (s : State) (e c : Nat) (v : EStream) : (s.setEstream e c v).chks = s.chks := rfl
@[simp] theorem State.setEstream_smps (s : State) (e c : Nat) (v : EStream) : (s.setEstream e c v).smps = s.smps := rfl
@[simp] theorem State.setEstream_ringCtrs (s : State) (e c : Nat) (v : EStream) : (s.setEstream e c v).ringCtrs = s.ringCtrs := rfl
@[simp] theorem State.setEstream_trees (s : State) (e c : Nat) (v : EStream) : (s.setEstream e c v).trees = s.trees := rfl
@[simp] theorem State.setEstream_walks (s : State) (e c : Nat) (v : EStream) : (s.setEstream e c v).walks = s.walks := rfl
@[simp] theorem State.setEstream_objs (s : State) (e c : Nat) (v : EStream) : (s.setEstream e c v).objs = s.objs := rfl
@[simp] theorem State.setEstream_ctls (s : State) (e c : Nat) (v : EStream) : (s.setEstream e c v).ctls = s.ctls := rfl
@[simp] theorem State.setEstream_looks (s : State) (e c : Nat) (v : EStream) : (s.setEstream e c v).looks = s.looks := rfl
@[simp] theorem State.setEstream_schobj (s : State) (e c : Nat) (v : EStream) : (s.setEstream e c v).schobj = s.schobj := rfl
@[simp] theorem State.setEstream_schRetry (s : State) (e c : Nat) (v : EStream) : (s.setEstream e c v).schRetry = s.schRetry := rfl
@[simp] theorem State.setEstream_schLimit (s : State) (e c : Nat) (v : EStream) : (s.setEstream e c v).schLimit = s.schLimit := rfl
@[simp] theorem State.setEstream_extents (s : State) (e c : Nat) (v : EStream) : (s.setEstream e c v).extents = s.extents := rfl
@[simp] theorem State.setEstream_mods (s : State) (e c : Nat) (v : EStream) : (s.setEstream e c v).mods = s.mods := rfl
@[simp] theorem State.setEstream_halfMode (s : State) (e c : Nat) (v : EStream) : (s.setEstream e c v).halfMode = s.halfMode := rfl
@[simp] theorem State.setEstream_dqs (s : State) (e c : Nat) (v : EStream) : (s.setEstream e c v).dqs = s.dqs := rfl
@[simp] theorem State.setEstream_groups (s : State) (e c : Nat) (v : EStream) : (s.setEstream e c v).groups = s.groups := rfl
@[simp] theorem State.setEstream_peers (s : State) (e c : Nat) (v : EStream) : (s.setEstream e c v).peers = s.peers := rfl
@[simp] theorem State.setEstream_xruns (s : State) (e c : Nat) (v : EStream) : (s.setEstream e c v).xruns = s.xruns := rfl
@[simp] theorem State.setEstream_hostReqs (s : State) (e c : Nat) (v : EStream) : (s.setEstream e c v).hostReqs = s.hostReqs := rfl
@[simp] theorem State.setEstream_hostMode (s : State) (e c : Nat) (v : EStream) : (s.setEstream e c v).hostMode = s.hostMode := rfl
@[simp] theorem State.setEstream_hostFb (s : State) (e c : Nat) (v : EStream) : (s.setEstream e c v).hostFb = s.hostFb := rfl
@[simp] theorem State.setEstream_hostFbca (s : State) (e c : Nat) (v : EStream) : (s.setEstream e c v).hostFbca = s.hostFbca := rfl
@[simp] theorem State.setEstream_fbcnt (s : State) (e c : Nat) (v : EStream) : (s.setEstream e c v).fbcnt = s.fbcnt := rfl
@[simp] theorem State.setEstream_fbq (s : State) (e c : Nat) (v : EStream) : (s.setEstream e c v).fbq = s.fbq := rfl
@[simp] theorem State.setEstream_lnklog (s : State) (e c : Nat) (v : EStream) : (s.setEstream e c v).lnklog = s.lnklog := rfl
@[simp] theorem State.setEstream_routes (s : State) (e c : Nat) (v : EStream) : (s.setEstream e c v).routes = s.routes := rfl
@[simp] theorem State.setEstream_routeDown (s : State) (e c : Nat) (v : EStream) : (s.setEstream e c v).routeDown = s.routeDown := rfl
@[simp] theorem State.setEstream_bar2 (s : State) (e c : Nat) (v : EStream) : (s.setEstream e c v).bar2 = s.bar2 := rfl
@[simp] theorem State.setEstream_answer (s : State) (e c : Nat) (v : EStream) : (s.setEstream e c v).answer = s.answer := rfl
@[simp] theorem State.setEstream_svState (s : State) (e c : Nat) (v : EStream) : (s.setEstream e c v).svState = s.svState := rfl
@[simp] theorem State.setEstream_svCode (s : State) (e c : Nat) (v : EStream) : (s.setEstream e c v).svCode = s.svCode := rfl
@[simp] theorem State.setEstream_reqbase (s : State) (e c : Nat) (v : EStream) : (s.setEstream e c v).reqbase = s.reqbase := rfl
@[simp] theorem State.setEstream_reqtail (s : State) (e c : Nat) (v : EStream) : (s.setEstream e c v).reqtail = s.reqtail := rfl
@[simp] theorem State.setEstream_reqhead (s : State) (e c : Nat) (v : EStream) : (s.setEstream e c v).reqhead = s.reqhead := rfl
@[simp] theorem State.setEstream_firmware (s : State) (e c : Nat) (v : EStream) : (s.setEstream e c v).firmware = s.firmware := rfl
@[simp] theorem State.setEstream_svn (s : State) (e c : Nat) (v : EStream) : (s.setEstream e c v).svn = s.svn := rfl
@[simp] theorem State.setEstream_maskRec (s : State) (e c : Nat) (v : EStream) : (s.setEstream e c v).maskRec = s.maskRec := rfl
@[simp] theorem State.setEstream_running (s : State) (e c : Nat) (v : EStream) : (s.setEstream e c v).running = s.running := rfl
@[simp] theorem State.setEstream_rsaHash (s : State) (e c : Nat) (v : EStream) : (s.setEstream e c v).rsaHash = s.rsaHash := rfl
@[simp] theorem State.setEstream_slhHash (s : State) (e c : Nat) (v : EStream) : (s.setEstream e c v).slhHash = s.slhHash := rfl
@[simp] theorem State.setEstream_secret (s : State) (e c : Nat) (v : EStream) : (s.setEstream e c v).secret = s.secret := rfl
@[simp] theorem State.setEstream_idRsa (s : State) (e c : Nat) (v : EStream) : (s.setEstream e c v).idRsa = s.idRsa := rfl
@[simp] theorem State.setEstream_idSlh (s : State) (e c : Nat) (v : EStream) : (s.setEstream e c v).idSlh = s.idSlh := rfl
@[simp] theorem State.setEstream_certRsa (s : State) (e c : Nat) (v : EStream) : (s.setEstream e c v).certRsa = s.certRsa := rfl
@[simp] theorem State.setEstream_certSlh (s : State) (e c : Nat) (v : EStream) : (s.setEstream e c v).certSlh = s.certSlh := rfl
@[simp] theorem State.setEstream_health (s : State) (e c : Nat) (v : EStream) : (s.setEstream e c v).health = s.health := rfl
@[simp] theorem State.setEstream_temps (s : State) (e c : Nat) (v : EStream) : (s.setEstream e c v).temps = s.temps := rfl
@[simp] theorem State.setEstream_images (s : State) (e c : Nat) (v : EStream) : (s.setEstream e c v).images = s.images := rfl
@[simp] theorem State.setEstream_swaps (s : State) (e c : Nat) (v : EStream) : (s.setEstream e c v).swaps = s.swaps := rfl
@[simp] theorem State.setEstream_shut (s : State) (e c : Nat) (v : EStream) : (s.setEstream e c v).shut = s.shut := rfl
@[simp] theorem State.setEstream_halves (s : State) (e c : Nat) (v : EStream) : (s.setEstream e c v).halves = s.halves := rfl
@[simp] theorem State.setEstream_target (s : State) (e c : Nat) (v : EStream) : (s.setEstream e c v).target = s.target := rfl
@[simp] theorem State.setEstream_epoch (s : State) (e c : Nat) (v : EStream) : (s.setEstream e c v).epoch = s.epoch := rfl
@[simp] theorem State.setEstream_ctxrpt (s : State) (e c : Nat) (v : EStream) : (s.setEstream e c v).ctxrpt = s.ctxrpt := rfl
@[simp] theorem State.setEstream_report (s : State) (e c : Nat) (v : EStream) : (s.setEstream e c v).report = s.report := rfl
@[simp] theorem State.setEstream_cap (s : State) (e c : Nat) (v : EStream) : (s.setEstream e c v).cap = s.cap := rfl
@[simp] theorem State.setEstream_vbank (s : State) (e c : Nat) (v : EStream) : (s.setEstream e c v).vbank = s.vbank := rfl
@[simp] theorem State.setEstream_ports (s : State) (e c : Nat) (v : EStream) : (s.setEstream e c v).ports = s.ports := rfl
@[simp] theorem State.setEstream_mplog (s : State) (e c : Nat) (v : EStream) : (s.setEstream e c v).mplog = s.mplog := rfl
@[simp] theorem State.setEstream_selog (s : State) (e c : Nat) (v : EStream) : (s.setEstream e c v).selog = s.selog := rfl

@[simp] theorem State.setResult_sched (s : State) (c e : Nat) (v : List Elem) : (s.setResult c e v).sched = s.sched := rfl
@[simp] theorem State.setResult_cursor (s : State) (c e : Nat) (v : List Elem) : (s.setResult c e v).cursor = s.cursor := rfl
@[simp] theorem State.setResult_cur (s : State) (c e : Nat) (v : List Elem) : (s.setResult c e v).cur = s.cur := rfl
@[simp] theorem State.setResult_freeCtr (s : State) (c e : Nat) (v : List Elem) : (s.setResult c e v).freeCtr = s.freeCtr := rfl
@[simp] theorem State.setResult_opSeq (s : State) (c e : Nat) (v : List Elem) : (s.setResult c e v).opSeq = s.opSeq := rfl
@[simp] theorem State.setResult_time (s : State) (c e : Nat) (v : List Elem) : (s.setResult c e v).time = s.time := rfl
@[simp] theorem State.setResult_dev (s : State) (c e : Nat) (v : List Elem) : (s.setResult c e v).dev = s.dev := rfl
@[simp] theorem State.setResult_spad (s : State) (c e : Nat) (v : List Elem) : (s.setResult c e v).spad = s.spad := rfl
@[simp] theorem State.setResult_host (s : State) (c e : Nat) (v : List Elem) : (s.setResult c e v).host = s.host := rfl
@[simp] theorem State.setResult_remote (s : State) (c e : Nat) (v : List Elem) : (s.setResult c e v).remote = s.remote := rfl
@[simp] theorem State.setResult_poison (s : State) (c e : Nat) (v : List Elem) : (s.setResult c e v).poison = s.poison := rfl
@[simp] theorem State.setResult_spadPoison (s : State) (c e : Nat) (v : List Elem) : (s.setResult c e v).spadPoison = s.spadPoison := rfl
@[simp] theorem State.setResult_threads (s : State) (c e : Nat) (v : List Elem) : (s.setResult c e v).threads = s.threads := rfl
@[simp] theorem State.setResult_cores (s : State) (c e : Nat) (v : List Elem) : (s.setResult c e v).cores = s.cores := rfl
@[simp] theorem State.setResult_mails (s : State) (c e : Nat) (v : List Elem) : (s.setResult c e v).mails = s.mails := rfl
@[simp] theorem State.setResult_bars (s : State) (c e : Nat) (v : List Elem) : (s.setResult c e v).bars = s.bars := rfl
@[simp] theorem State.setResult_tlb (s : State) (c e : Nat) (v : List Elem) : (s.setResult c e v).tlb = s.tlb := rfl
@[simp] theorem State.setResult_access (s : State) (c e : Nat) (v : List Elem) : (s.setResult c e v).access = s.access := rfl
@[simp] theorem State.setResult_masks (s : State) (c e : Nat) (v : List Elem) : (s.setResult c e v).masks = s.masks := rfl
@[simp] theorem State.setResult_streams (s : State) (c e : Nat) (v : List Elem) : (s.setResult c e v).streams = s.streams := rfl
@[simp] theorem State.setResult_served (s : State) (c e : Nat) (v : List Elem) : (s.setResult c e v).served = s.served := rfl
@[simp] theorem State.setResult_pkg (s : State) (c e : Nat) (v : List Elem) : (s.setResult c e v).pkg = s.pkg := rfl
@[simp] theorem State.setResult_indom (s : State) (c e : Nat) (v : List Elem) : (s.setResult c e v).indom = s.indom := rfl
@[simp] theorem State.setResult_unreach (s : State) (c e : Nat) (v : List Elem) : (s.setResult c e v).unreach = s.unreach := rfl
@[simp] theorem State.setResult_ctxtab (s : State) (c e : Nat) (v : List Elem) : (s.setResult c e v).ctxtab = s.ctxtab := rfl
@[simp] theorem State.setResult_qmgs (s : State) (c e : Nat) (v : List Elem) : (s.setResult c e v).qmgs = s.qmgs := rfl
@[simp] theorem State.setResult_outs (s : State) (c e : Nat) (v : List Elem) : (s.setResult c e v).outs = s.outs := rfl
@[simp] theorem State.setResult_parks (s : State) (c e : Nat) (v : List Elem) : (s.setResult c e v).parks = s.parks := rfl
@[simp] theorem State.setResult_msix (s : State) (c e : Nat) (v : List Elem) : (s.setResult c e v).msix = s.msix := rfl
@[simp] theorem State.setResult_islands (s : State) (c e : Nat) (v : List Elem) : (s.setResult c e v).islands = s.islands := rfl
@[simp] theorem State.setResult_islandClk (s : State) (c e : Nat) (v : List Elem) : (s.setResult c e v).islandClk = s.islandClk := rfl
@[simp] theorem State.setResult_chans (s : State) (c e : Nat) (v : List Elem) : (s.setResult c e v).chans = s.chans := rfl
@[simp] theorem State.setResult_mats (s : State) (c e : Nat) (v : List Elem) : (s.setResult c e v).mats = s.mats := rfl
@[simp] theorem State.setResult_atts (s : State) (c e : Nat) (v : List Elem) : (s.setResult c e v).atts = s.atts := rfl
@[simp] theorem State.setResult_chks (s : State) (c e : Nat) (v : List Elem) : (s.setResult c e v).chks = s.chks := rfl
@[simp] theorem State.setResult_smps (s : State) (c e : Nat) (v : List Elem) : (s.setResult c e v).smps = s.smps := rfl
@[simp] theorem State.setResult_ringCtrs (s : State) (c e : Nat) (v : List Elem) : (s.setResult c e v).ringCtrs = s.ringCtrs := rfl
@[simp] theorem State.setResult_trees (s : State) (c e : Nat) (v : List Elem) : (s.setResult c e v).trees = s.trees := rfl
@[simp] theorem State.setResult_walks (s : State) (c e : Nat) (v : List Elem) : (s.setResult c e v).walks = s.walks := rfl
@[simp] theorem State.setResult_objs (s : State) (c e : Nat) (v : List Elem) : (s.setResult c e v).objs = s.objs := rfl
@[simp] theorem State.setResult_ctls (s : State) (c e : Nat) (v : List Elem) : (s.setResult c e v).ctls = s.ctls := rfl
@[simp] theorem State.setResult_looks (s : State) (c e : Nat) (v : List Elem) : (s.setResult c e v).looks = s.looks := rfl
@[simp] theorem State.setResult_schobj (s : State) (c e : Nat) (v : List Elem) : (s.setResult c e v).schobj = s.schobj := rfl
@[simp] theorem State.setResult_schRetry (s : State) (c e : Nat) (v : List Elem) : (s.setResult c e v).schRetry = s.schRetry := rfl
@[simp] theorem State.setResult_schLimit (s : State) (c e : Nat) (v : List Elem) : (s.setResult c e v).schLimit = s.schLimit := rfl
@[simp] theorem State.setResult_extents (s : State) (c e : Nat) (v : List Elem) : (s.setResult c e v).extents = s.extents := rfl
@[simp] theorem State.setResult_mods (s : State) (c e : Nat) (v : List Elem) : (s.setResult c e v).mods = s.mods := rfl
@[simp] theorem State.setResult_halfMode (s : State) (c e : Nat) (v : List Elem) : (s.setResult c e v).halfMode = s.halfMode := rfl
@[simp] theorem State.setResult_dqs (s : State) (c e : Nat) (v : List Elem) : (s.setResult c e v).dqs = s.dqs := rfl
@[simp] theorem State.setResult_groups (s : State) (c e : Nat) (v : List Elem) : (s.setResult c e v).groups = s.groups := rfl
@[simp] theorem State.setResult_peers (s : State) (c e : Nat) (v : List Elem) : (s.setResult c e v).peers = s.peers := rfl
@[simp] theorem State.setResult_xruns (s : State) (c e : Nat) (v : List Elem) : (s.setResult c e v).xruns = s.xruns := rfl
@[simp] theorem State.setResult_hostReqs (s : State) (c e : Nat) (v : List Elem) : (s.setResult c e v).hostReqs = s.hostReqs := rfl
@[simp] theorem State.setResult_hostMode (s : State) (c e : Nat) (v : List Elem) : (s.setResult c e v).hostMode = s.hostMode := rfl
@[simp] theorem State.setResult_hostFb (s : State) (c e : Nat) (v : List Elem) : (s.setResult c e v).hostFb = s.hostFb := rfl
@[simp] theorem State.setResult_hostFbca (s : State) (c e : Nat) (v : List Elem) : (s.setResult c e v).hostFbca = s.hostFbca := rfl
@[simp] theorem State.setResult_fbcnt (s : State) (c e : Nat) (v : List Elem) : (s.setResult c e v).fbcnt = s.fbcnt := rfl
@[simp] theorem State.setResult_fbq (s : State) (c e : Nat) (v : List Elem) : (s.setResult c e v).fbq = s.fbq := rfl
@[simp] theorem State.setResult_lnklog (s : State) (c e : Nat) (v : List Elem) : (s.setResult c e v).lnklog = s.lnklog := rfl
@[simp] theorem State.setResult_routes (s : State) (c e : Nat) (v : List Elem) : (s.setResult c e v).routes = s.routes := rfl
@[simp] theorem State.setResult_routeDown (s : State) (c e : Nat) (v : List Elem) : (s.setResult c e v).routeDown = s.routeDown := rfl
@[simp] theorem State.setResult_bar2 (s : State) (c e : Nat) (v : List Elem) : (s.setResult c e v).bar2 = s.bar2 := rfl
@[simp] theorem State.setResult_answer (s : State) (c e : Nat) (v : List Elem) : (s.setResult c e v).answer = s.answer := rfl
@[simp] theorem State.setResult_svState (s : State) (c e : Nat) (v : List Elem) : (s.setResult c e v).svState = s.svState := rfl
@[simp] theorem State.setResult_svCode (s : State) (c e : Nat) (v : List Elem) : (s.setResult c e v).svCode = s.svCode := rfl
@[simp] theorem State.setResult_reqbase (s : State) (c e : Nat) (v : List Elem) : (s.setResult c e v).reqbase = s.reqbase := rfl
@[simp] theorem State.setResult_reqtail (s : State) (c e : Nat) (v : List Elem) : (s.setResult c e v).reqtail = s.reqtail := rfl
@[simp] theorem State.setResult_reqhead (s : State) (c e : Nat) (v : List Elem) : (s.setResult c e v).reqhead = s.reqhead := rfl
@[simp] theorem State.setResult_firmware (s : State) (c e : Nat) (v : List Elem) : (s.setResult c e v).firmware = s.firmware := rfl
@[simp] theorem State.setResult_svn (s : State) (c e : Nat) (v : List Elem) : (s.setResult c e v).svn = s.svn := rfl
@[simp] theorem State.setResult_maskRec (s : State) (c e : Nat) (v : List Elem) : (s.setResult c e v).maskRec = s.maskRec := rfl
@[simp] theorem State.setResult_running (s : State) (c e : Nat) (v : List Elem) : (s.setResult c e v).running = s.running := rfl
@[simp] theorem State.setResult_rsaHash (s : State) (c e : Nat) (v : List Elem) : (s.setResult c e v).rsaHash = s.rsaHash := rfl
@[simp] theorem State.setResult_slhHash (s : State) (c e : Nat) (v : List Elem) : (s.setResult c e v).slhHash = s.slhHash := rfl
@[simp] theorem State.setResult_secret (s : State) (c e : Nat) (v : List Elem) : (s.setResult c e v).secret = s.secret := rfl
@[simp] theorem State.setResult_idRsa (s : State) (c e : Nat) (v : List Elem) : (s.setResult c e v).idRsa = s.idRsa := rfl
@[simp] theorem State.setResult_idSlh (s : State) (c e : Nat) (v : List Elem) : (s.setResult c e v).idSlh = s.idSlh := rfl
@[simp] theorem State.setResult_certRsa (s : State) (c e : Nat) (v : List Elem) : (s.setResult c e v).certRsa = s.certRsa := rfl
@[simp] theorem State.setResult_certSlh (s : State) (c e : Nat) (v : List Elem) : (s.setResult c e v).certSlh = s.certSlh := rfl
@[simp] theorem State.setResult_health (s : State) (c e : Nat) (v : List Elem) : (s.setResult c e v).health = s.health := rfl
@[simp] theorem State.setResult_temps (s : State) (c e : Nat) (v : List Elem) : (s.setResult c e v).temps = s.temps := rfl
@[simp] theorem State.setResult_images (s : State) (c e : Nat) (v : List Elem) : (s.setResult c e v).images = s.images := rfl
@[simp] theorem State.setResult_swaps (s : State) (c e : Nat) (v : List Elem) : (s.setResult c e v).swaps = s.swaps := rfl
@[simp] theorem State.setResult_shut (s : State) (c e : Nat) (v : List Elem) : (s.setResult c e v).shut = s.shut := rfl
@[simp] theorem State.setResult_halves (s : State) (c e : Nat) (v : List Elem) : (s.setResult c e v).halves = s.halves := rfl
@[simp] theorem State.setResult_target (s : State) (c e : Nat) (v : List Elem) : (s.setResult c e v).target = s.target := rfl
@[simp] theorem State.setResult_epoch (s : State) (c e : Nat) (v : List Elem) : (s.setResult c e v).epoch = s.epoch := rfl
@[simp] theorem State.setResult_ctxrpt (s : State) (c e : Nat) (v : List Elem) : (s.setResult c e v).ctxrpt = s.ctxrpt := rfl
@[simp] theorem State.setResult_report (s : State) (c e : Nat) (v : List Elem) : (s.setResult c e v).report = s.report := rfl
@[simp] theorem State.setResult_cap (s : State) (c e : Nat) (v : List Elem) : (s.setResult c e v).cap = s.cap := rfl
@[simp] theorem State.setResult_vbank (s : State) (c e : Nat) (v : List Elem) : (s.setResult c e v).vbank = s.vbank := rfl
@[simp] theorem State.setResult_ports (s : State) (c e : Nat) (v : List Elem) : (s.setResult c e v).ports = s.ports := rfl
@[simp] theorem State.setResult_mplog (s : State) (c e : Nat) (v : List Elem) : (s.setResult c e v).mplog = s.mplog := rfl
@[simp] theorem State.setResult_selog (s : State) (c e : Nat) (v : List Elem) : (s.setResult c e v).selog = s.selog := rfl

@[simp] theorem State.setPort_sched (s : State) (p : Nat) (v : Port) : (s.setPort p v).sched = s.sched := rfl
@[simp] theorem State.setPort_cursor (s : State) (p : Nat) (v : Port) : (s.setPort p v).cursor = s.cursor := rfl
@[simp] theorem State.setPort_cur (s : State) (p : Nat) (v : Port) : (s.setPort p v).cur = s.cur := rfl
@[simp] theorem State.setPort_freeCtr (s : State) (p : Nat) (v : Port) : (s.setPort p v).freeCtr = s.freeCtr := rfl
@[simp] theorem State.setPort_opSeq (s : State) (p : Nat) (v : Port) : (s.setPort p v).opSeq = s.opSeq := rfl
@[simp] theorem State.setPort_time (s : State) (p : Nat) (v : Port) : (s.setPort p v).time = s.time := rfl
@[simp] theorem State.setPort_dev (s : State) (p : Nat) (v : Port) : (s.setPort p v).dev = s.dev := rfl
@[simp] theorem State.setPort_spad (s : State) (p : Nat) (v : Port) : (s.setPort p v).spad = s.spad := rfl
@[simp] theorem State.setPort_host (s : State) (p : Nat) (v : Port) : (s.setPort p v).host = s.host := rfl
@[simp] theorem State.setPort_remote (s : State) (p : Nat) (v : Port) : (s.setPort p v).remote = s.remote := rfl
@[simp] theorem State.setPort_poison (s : State) (p : Nat) (v : Port) : (s.setPort p v).poison = s.poison := rfl
@[simp] theorem State.setPort_spadPoison (s : State) (p : Nat) (v : Port) : (s.setPort p v).spadPoison = s.spadPoison := rfl
@[simp] theorem State.setPort_threads (s : State) (p : Nat) (v : Port) : (s.setPort p v).threads = s.threads := rfl
@[simp] theorem State.setPort_cores (s : State) (p : Nat) (v : Port) : (s.setPort p v).cores = s.cores := rfl
@[simp] theorem State.setPort_mails (s : State) (p : Nat) (v : Port) : (s.setPort p v).mails = s.mails := rfl
@[simp] theorem State.setPort_bars (s : State) (p : Nat) (v : Port) : (s.setPort p v).bars = s.bars := rfl
@[simp] theorem State.setPort_tlb (s : State) (p : Nat) (v : Port) : (s.setPort p v).tlb = s.tlb := rfl
@[simp] theorem State.setPort_access (s : State) (p : Nat) (v : Port) : (s.setPort p v).access = s.access := rfl
@[simp] theorem State.setPort_masks (s : State) (p : Nat) (v : Port) : (s.setPort p v).masks = s.masks := rfl
@[simp] theorem State.setPort_streams (s : State) (p : Nat) (v : Port) : (s.setPort p v).streams = s.streams := rfl
@[simp] theorem State.setPort_served (s : State) (p : Nat) (v : Port) : (s.setPort p v).served = s.served := rfl
@[simp] theorem State.setPort_results (s : State) (p : Nat) (v : Port) : (s.setPort p v).results = s.results := rfl
@[simp] theorem State.setPort_pkg (s : State) (p : Nat) (v : Port) : (s.setPort p v).pkg = s.pkg := rfl
@[simp] theorem State.setPort_indom (s : State) (p : Nat) (v : Port) : (s.setPort p v).indom = s.indom := rfl
@[simp] theorem State.setPort_unreach (s : State) (p : Nat) (v : Port) : (s.setPort p v).unreach = s.unreach := rfl
@[simp] theorem State.setPort_ctxtab (s : State) (p : Nat) (v : Port) : (s.setPort p v).ctxtab = s.ctxtab := rfl
@[simp] theorem State.setPort_qmgs (s : State) (p : Nat) (v : Port) : (s.setPort p v).qmgs = s.qmgs := rfl
@[simp] theorem State.setPort_outs (s : State) (p : Nat) (v : Port) : (s.setPort p v).outs = s.outs := rfl
@[simp] theorem State.setPort_parks (s : State) (p : Nat) (v : Port) : (s.setPort p v).parks = s.parks := rfl
@[simp] theorem State.setPort_msix (s : State) (p : Nat) (v : Port) : (s.setPort p v).msix = s.msix := rfl
@[simp] theorem State.setPort_islands (s : State) (p : Nat) (v : Port) : (s.setPort p v).islands = s.islands := rfl
@[simp] theorem State.setPort_islandClk (s : State) (p : Nat) (v : Port) : (s.setPort p v).islandClk = s.islandClk := rfl
@[simp] theorem State.setPort_chans (s : State) (p : Nat) (v : Port) : (s.setPort p v).chans = s.chans := rfl
@[simp] theorem State.setPort_mats (s : State) (p : Nat) (v : Port) : (s.setPort p v).mats = s.mats := rfl
@[simp] theorem State.setPort_atts (s : State) (p : Nat) (v : Port) : (s.setPort p v).atts = s.atts := rfl
@[simp] theorem State.setPort_chks (s : State) (p : Nat) (v : Port) : (s.setPort p v).chks = s.chks := rfl
@[simp] theorem State.setPort_smps (s : State) (p : Nat) (v : Port) : (s.setPort p v).smps = s.smps := rfl
@[simp] theorem State.setPort_ringCtrs (s : State) (p : Nat) (v : Port) : (s.setPort p v).ringCtrs = s.ringCtrs := rfl
@[simp] theorem State.setPort_trees (s : State) (p : Nat) (v : Port) : (s.setPort p v).trees = s.trees := rfl
@[simp] theorem State.setPort_walks (s : State) (p : Nat) (v : Port) : (s.setPort p v).walks = s.walks := rfl
@[simp] theorem State.setPort_objs (s : State) (p : Nat) (v : Port) : (s.setPort p v).objs = s.objs := rfl
@[simp] theorem State.setPort_ctls (s : State) (p : Nat) (v : Port) : (s.setPort p v).ctls = s.ctls := rfl
@[simp] theorem State.setPort_looks (s : State) (p : Nat) (v : Port) : (s.setPort p v).looks = s.looks := rfl
@[simp] theorem State.setPort_schobj (s : State) (p : Nat) (v : Port) : (s.setPort p v).schobj = s.schobj := rfl
@[simp] theorem State.setPort_schRetry (s : State) (p : Nat) (v : Port) : (s.setPort p v).schRetry = s.schRetry := rfl
@[simp] theorem State.setPort_schLimit (s : State) (p : Nat) (v : Port) : (s.setPort p v).schLimit = s.schLimit := rfl
@[simp] theorem State.setPort_extents (s : State) (p : Nat) (v : Port) : (s.setPort p v).extents = s.extents := rfl
@[simp] theorem State.setPort_mods (s : State) (p : Nat) (v : Port) : (s.setPort p v).mods = s.mods := rfl
@[simp] theorem State.setPort_halfMode (s : State) (p : Nat) (v : Port) : (s.setPort p v).halfMode = s.halfMode := rfl
@[simp] theorem State.setPort_dqs (s : State) (p : Nat) (v : Port) : (s.setPort p v).dqs = s.dqs := rfl
@[simp] theorem State.setPort_groups (s : State) (p : Nat) (v : Port) : (s.setPort p v).groups = s.groups := rfl
@[simp] theorem State.setPort_peers (s : State) (p : Nat) (v : Port) : (s.setPort p v).peers = s.peers := rfl
@[simp] theorem State.setPort_xruns (s : State) (p : Nat) (v : Port) : (s.setPort p v).xruns = s.xruns := rfl
@[simp] theorem State.setPort_hostReqs (s : State) (p : Nat) (v : Port) : (s.setPort p v).hostReqs = s.hostReqs := rfl
@[simp] theorem State.setPort_hostMode (s : State) (p : Nat) (v : Port) : (s.setPort p v).hostMode = s.hostMode := rfl
@[simp] theorem State.setPort_hostFb (s : State) (p : Nat) (v : Port) : (s.setPort p v).hostFb = s.hostFb := rfl
@[simp] theorem State.setPort_hostFbca (s : State) (p : Nat) (v : Port) : (s.setPort p v).hostFbca = s.hostFbca := rfl
@[simp] theorem State.setPort_fbcnt (s : State) (p : Nat) (v : Port) : (s.setPort p v).fbcnt = s.fbcnt := rfl
@[simp] theorem State.setPort_fbq (s : State) (p : Nat) (v : Port) : (s.setPort p v).fbq = s.fbq := rfl
@[simp] theorem State.setPort_lnklog (s : State) (p : Nat) (v : Port) : (s.setPort p v).lnklog = s.lnklog := rfl
@[simp] theorem State.setPort_routes (s : State) (p : Nat) (v : Port) : (s.setPort p v).routes = s.routes := rfl
@[simp] theorem State.setPort_routeDown (s : State) (p : Nat) (v : Port) : (s.setPort p v).routeDown = s.routeDown := rfl
@[simp] theorem State.setPort_bar2 (s : State) (p : Nat) (v : Port) : (s.setPort p v).bar2 = s.bar2 := rfl
@[simp] theorem State.setPort_answer (s : State) (p : Nat) (v : Port) : (s.setPort p v).answer = s.answer := rfl
@[simp] theorem State.setPort_svState (s : State) (p : Nat) (v : Port) : (s.setPort p v).svState = s.svState := rfl
@[simp] theorem State.setPort_svCode (s : State) (p : Nat) (v : Port) : (s.setPort p v).svCode = s.svCode := rfl
@[simp] theorem State.setPort_reqbase (s : State) (p : Nat) (v : Port) : (s.setPort p v).reqbase = s.reqbase := rfl
@[simp] theorem State.setPort_reqtail (s : State) (p : Nat) (v : Port) : (s.setPort p v).reqtail = s.reqtail := rfl
@[simp] theorem State.setPort_reqhead (s : State) (p : Nat) (v : Port) : (s.setPort p v).reqhead = s.reqhead := rfl
@[simp] theorem State.setPort_firmware (s : State) (p : Nat) (v : Port) : (s.setPort p v).firmware = s.firmware := rfl
@[simp] theorem State.setPort_svn (s : State) (p : Nat) (v : Port) : (s.setPort p v).svn = s.svn := rfl
@[simp] theorem State.setPort_maskRec (s : State) (p : Nat) (v : Port) : (s.setPort p v).maskRec = s.maskRec := rfl
@[simp] theorem State.setPort_running (s : State) (p : Nat) (v : Port) : (s.setPort p v).running = s.running := rfl
@[simp] theorem State.setPort_rsaHash (s : State) (p : Nat) (v : Port) : (s.setPort p v).rsaHash = s.rsaHash := rfl
@[simp] theorem State.setPort_slhHash (s : State) (p : Nat) (v : Port) : (s.setPort p v).slhHash = s.slhHash := rfl
@[simp] theorem State.setPort_secret (s : State) (p : Nat) (v : Port) : (s.setPort p v).secret = s.secret := rfl
@[simp] theorem State.setPort_idRsa (s : State) (p : Nat) (v : Port) : (s.setPort p v).idRsa = s.idRsa := rfl
@[simp] theorem State.setPort_idSlh (s : State) (p : Nat) (v : Port) : (s.setPort p v).idSlh = s.idSlh := rfl
@[simp] theorem State.setPort_certRsa (s : State) (p : Nat) (v : Port) : (s.setPort p v).certRsa = s.certRsa := rfl
@[simp] theorem State.setPort_certSlh (s : State) (p : Nat) (v : Port) : (s.setPort p v).certSlh = s.certSlh := rfl
@[simp] theorem State.setPort_health (s : State) (p : Nat) (v : Port) : (s.setPort p v).health = s.health := rfl
@[simp] theorem State.setPort_temps (s : State) (p : Nat) (v : Port) : (s.setPort p v).temps = s.temps := rfl
@[simp] theorem State.setPort_images (s : State) (p : Nat) (v : Port) : (s.setPort p v).images = s.images := rfl
@[simp] theorem State.setPort_swaps (s : State) (p : Nat) (v : Port) : (s.setPort p v).swaps = s.swaps := rfl
@[simp] theorem State.setPort_shut (s : State) (p : Nat) (v : Port) : (s.setPort p v).shut = s.shut := rfl
@[simp] theorem State.setPort_halves (s : State) (p : Nat) (v : Port) : (s.setPort p v).halves = s.halves := rfl
@[simp] theorem State.setPort_target (s : State) (p : Nat) (v : Port) : (s.setPort p v).target = s.target := rfl
@[simp] theorem State.setPort_epoch (s : State) (p : Nat) (v : Port) : (s.setPort p v).epoch = s.epoch := rfl
@[simp] theorem State.setPort_ctxrpt (s : State) (p : Nat) (v : Port) : (s.setPort p v).ctxrpt = s.ctxrpt := rfl
@[simp] theorem State.setPort_report (s : State) (p : Nat) (v : Port) : (s.setPort p v).report = s.report := rfl
@[simp] theorem State.setPort_cap (s : State) (p : Nat) (v : Port) : (s.setPort p v).cap = s.cap := rfl
@[simp] theorem State.setPort_vbank (s : State) (p : Nat) (v : Port) : (s.setPort p v).vbank = s.vbank := rfl
@[simp] theorem State.setPort_mplog (s : State) (p : Nat) (v : Port) : (s.setPort p v).mplog = s.mplog := rfl
@[simp] theorem State.setPort_selog (s : State) (p : Nat) (v : Port) : (s.setPort p v).selog = s.selog := rfl

@[simp] theorem Thread.wr_live (t : Thread) (st : Stream) (i : BitVec 5) (v : W64) : (t.wr st i v).live = t.live := by cases st <;> rfl
@[simp] theorem Thread.wr_phase (t : Thread) (st : Stream) (i : BitVec 5) (v : W64) : (t.wr st i v).phase = t.phase := by cases st <;> rfl
@[simp] theorem Thread.wr_halting (t : Thread) (st : Stream) (i : BitVec 5) (v : W64) : (t.wr st i v).halting = t.halting := by cases st <;> rfl
@[simp] theorem Thread.wr_halted (t : Thread) (st : Stream) (i : BitVec 5) (v : W64) : (t.wr st i v).halted = t.halted := by cases st <;> rfl
@[simp] theorem Thread.wr_cancelled (t : Thread) (st : Stream) (i : BitVec 5) (v : W64) : (t.wr st i v).cancelled = t.cancelled := by cases st <;> rfl
@[simp] theorem Thread.wr_failed (t : Thread) (st : Stream) (i : BitVec 5) (v : W64) : (t.wr st i v).failed = t.failed := by cases st <;> rfl
@[simp] theorem Thread.wr_ctx (t : Thread) (st : Stream) (i : BitVec 5) (v : W64) : (t.wr st i v).ctx = t.ctx := by cases st <;> rfl
@[simp] theorem Thread.wr_task (t : Thread) (st : Stream) (i : BitVec 5) (v : W64) : (t.wr st i v).task = t.task := by cases st <;> rfl
@[simp] theorem Thread.wr_record (t : Thread) (st : Stream) (i : BitVec 5) (v : W64) : (t.wr st i v).record = t.record := by cases st <;> rfl
@[simp] theorem Thread.wr_disp (t : Thread) (st : Stream) (i : BitVec 5) (v : W64) : (t.wr st i v).disp = t.disp := by cases st <;> rfl
@[simp] theorem Thread.wr_p (t : Thread) (st : Stream) (i : BitVec 5) (v : W64) : (t.wr st i v).p = t.p := by cases st <;> rfl
@[simp] theorem Thread.wr_apc (t : Thread) (st : Stream) (i : BitVec 5) (v : W64) : (t.wr st i v).apc = t.apc := by cases st <;> rfl
@[simp] theorem Thread.wr_epc (t : Thread) (st : Stream) (i : BitVec 5) (v : W64) : (t.wr st i v).epc = t.epc := by cases st <;> rfl
@[simp] theorem Thread.wr_agrp (t : Thread) (st : Stream) (i : BitVec 5) (v : W64) : (t.wr st i v).agrp = t.agrp := by cases st <;> rfl
@[simp] theorem Thread.wr_egrp (t : Thread) (st : Stream) (i : BitVec 5) (v : W64) : (t.wr st i v).egrp = t.egrp := by cases st <;> rfl
@[simp] theorem Thread.wr_x (t : Thread) (st : Stream) (i : BitVec 5) (v : W64) : (t.wr st i v).x = t.x := by cases st <;> rfl
@[simp] theorem Thread.wr_flights (t : Thread) (st : Stream) (i : BitVec 5) (v : W64) : (t.wr st i v).flights = t.flights := by cases st <;> rfl
@[simp] theorem Thread.wr_eclk (t : Thread) (st : Stream) (i : BitVec 5) (v : W64) : (t.wr st i v).eclk = t.eclk := by cases st <;> rfl
@[simp] theorem Thread.wr_mirrorAt (t : Thread) (st : Stream) (i : BitVec 5) (v : W64) : (t.wr st i v).mirrorAt = t.mirrorAt := by cases st <;> rfl
@[simp] theorem Thread.wr_fpmode (t : Thread) (st : Stream) (i : BitVec 5) (v : W64) : (t.wr st i v).fpmode = t.fpmode := by cases st <;> rfl
@[simp] theorem Thread.wr_repidx (t : Thread) (st : Stream) (i : BitVec 5) (v : W64) : (t.wr st i v).repidx = t.repidx := by cases st <;> rfl
@[simp] theorem Thread.wr_rotbase (t : Thread) (st : Stream) (i : BitVec 5) (v : W64) : (t.wr st i v).rotbase = t.rotbase := by cases st <;> rfl
@[simp] theorem Thread.wr_tfmt (t : Thread) (st : Stream) (i : BitVec 5) (v : W64) : (t.wr st i v).tfmt = t.tfmt := by cases st <;> rfl
@[simp] theorem Thread.wr_async (t : Thread) (st : Stream) (i : BitVec 5) (v : W64) : (t.wr st i v).async = t.async := by cases st <;> rfl
@[simp] theorem Thread.wr_inh (t : Thread) (st : Stream) (i : BitVec 5) (v : W64) : (t.wr st i v).inh = t.inh := by cases st <;> rfl
@[simp] theorem Thread.wr_traps (t : Thread) (st : Stream) (i : BitVec 5) (v : W64) : (t.wr st i v).traps = t.traps := by cases st <;> rfl
@[simp] theorem Thread.wr_cstream (t : Thread) (st : Stream) (i : BitVec 5) (v : W64) : (t.wr st i v).cstream = t.cstream := by cases st <;> rfl
@[simp] theorem Thread.wr_code (t : Thread) (st : Stream) (i : BitVec 5) (v : W64) : (t.wr st i v).code = t.code := by cases st <;> rfl
@[simp] theorem Thread.wr_domset (t : Thread) (st : Stream) (i : BitVec 5) (v : W64) : (t.wr st i v).domset = t.domset := by cases st <;> rfl
@[simp] theorem Thread.wr_tveca (t : Thread) (st : Stream) (i : BitVec 5) (v : W64) : (t.wr st i v).tveca = t.tveca := by cases st <;> rfl
@[simp] theorem Thread.wr_tvece (t : Thread) (st : Stream) (i : BitVec 5) (v : W64) : (t.wr st i v).tvece = t.tvece := by cases st <;> rfl
@[simp] theorem Thread.wr_traprec (t : Thread) (st : Stream) (i : BitVec 5) (v : W64) : (t.wr st i v).traprec = t.traprec := by cases st <;> rfl
@[simp] theorem Thread.wr_epca (t : Thread) (st : Stream) (i : BitVec 5) (v : W64) : (t.wr st i v).epca = t.epca := by cases st <;> rfl
@[simp] theorem Thread.wr_epce (t : Thread) (st : Stream) (i : BitVec 5) (v : W64) : (t.wr st i v).epce = t.epce := by cases st <;> rfl
@[simp] theorem Thread.wr_tsavea (t : Thread) (st : Stream) (i : BitVec 5) (v : W64) : (t.wr st i v).tsavea = t.tsavea := by cases st <;> rfl
@[simp] theorem Thread.wr_tsavee (t : Thread) (st : Stream) (i : BitVec 5) (v : W64) : (t.wr st i v).tsavee = t.tsavee := by cases st <;> rfl
@[simp] theorem Thread.wr_tpredlo (t : Thread) (st : Stream) (i : BitVec 5) (v : W64) : (t.wr st i v).tpredlo = t.tpredlo := by cases st <;> rfl
@[simp] theorem Thread.wr_tpredhi (t : Thread) (st : Stream) (i : BitVec 5) (v : W64) : (t.wr st i v).tpredhi = t.tpredhi := by cases st <;> rfl
@[simp] theorem Thread.wr_tstate (t : Thread) (st : Stream) (i : BitVec 5) (v : W64) : (t.wr st i v).tstate = t.tstate := by cases st <;> rfl
@[simp] theorem Thread.wr_mpsel (t : Thread) (st : Stream) (i : BitVec 5) (v : W64) : (t.wr st i v).mpsel = t.mpsel := by cases st <;> rfl
@[simp] theorem Thread.wr_invva (t : Thread) (st : Stream) (i : BitVec 5) (v : W64) : (t.wr st i v).invva = t.invva := by cases st <;> rfl
@[simp] theorem Thread.wr_queues (t : Thread) (st : Stream) (i : BitVec 5) (v : W64) : (t.wr st i v).queues = t.queues := by cases st <;> rfl
@[simp] theorem Thread.wr_frozen (t : Thread) (st : Stream) (i : BitVec 5) (v : W64) : (t.wr st i v).frozen = t.frozen := by cases st <;> rfl
@[simp] theorem Thread.wr_saq (t : Thread) (st : Stream) (i : BitVec 5) (v : W64) : (t.wr st i v).saq = t.saq := by cases st <;> rfl
@[simp] theorem Thread.wr_setAside (t : Thread) (st : Stream) (i : BitVec 5) (v : W64) : (t.wr st i v).setAside = t.setAside := by cases st <;> rfl
@[simp] theorem Thread.wr_sqSkip (t : Thread) (st : Stream) (i : BitVec 5) (v : W64) : (t.wr st i v).sqSkip = t.sqSkip := by cases st <;> rfl
@[simp] theorem Thread.wr_ldqRow (t : Thread) (st : Stream) (i : BitVec 5) (v : W64) : (t.wr st i v).ldqRow = t.ldqRow := by cases st <;> rfl
@[simp] theorem Thread.wr_frozenLdq (t : Thread) (st : Stream) (i : BitVec 5) (v : W64) : (t.wr st i v).frozenLdq = t.frozenLdq := by cases st <;> rfl
@[simp] theorem Thread.wr_ldqAt (t : Thread) (st : Stream) (i : BitVec 5) (v : W64) : (t.wr st i v).ldqAt = t.ldqAt := by cases st <;> rfl
@[simp] theorem Thread.wr_atomsOut (t : Thread) (st : Stream) (i : BitVec 5) (v : W64) : (t.wr st i v).atomsOut = t.atomsOut := by cases st <;> rfl
@[simp] theorem Thread.wr_heldUncorr (t : Thread) (st : Stream) (i : BitVec 5) (v : W64) : (t.wr st i v).heldUncorr = t.heldUncorr := by cases st <;> rfl
@[simp] theorem Thread.wr_handUncorr (t : Thread) (st : Stream) (i : BitVec 5) (v : W64) : (t.wr st i v).handUncorr = t.handUncorr := by cases st <;> rfl
@[simp] theorem Thread.wr_out (t : Thread) (st : Stream) (i : BitVec 5) (v : W64) : (t.wr st i v).out = t.out := by cases st <;> rfl
@[simp] theorem Thread.wr_arrival (t : Thread) (st : Stream) (i : BitVec 5) (v : W64) : (t.wr st i v).arrival = t.arrival := by cases st <;> rfl
@[simp] theorem Thread.wr_asleep (t : Thread) (st : Stream) (i : BitVec 5) (v : W64) : (t.wr st i v).asleep = t.asleep := by cases st <;> rfl
@[simp] theorem Thread.wr_ecut (t : Thread) (st : Stream) (i : BitVec 5) (v : W64) : (t.wr st i v).ecut = t.ecut := by cases st <;> rfl
@[simp] theorem Thread.wr_pends (t : Thread) (st : Stream) (i : BitVec 5) (v : W64) : (t.wr st i v).pends = t.pends := by cases st <;> rfl
@[simp] theorem Thread.wr_lastTime (t : Thread) (st : Stream) (i : BitVec 5) (v : W64) : (t.wr st i v).lastTime = t.lastTime := by cases st <;> rfl

@[simp] theorem Thread.tick_live (t : Thread) (st : Stream) (n : Nat) : (t.tick st n).live = t.live := by cases st <;> rfl
@[simp] theorem Thread.tick_phase (t : Thread) (st : Stream) (n : Nat) : (t.tick st n).phase = t.phase := by cases st <;> rfl
@[simp] theorem Thread.tick_halting (t : Thread) (st : Stream) (n : Nat) : (t.tick st n).halting = t.halting := by cases st <;> rfl
@[simp] theorem Thread.tick_halted (t : Thread) (st : Stream) (n : Nat) : (t.tick st n).halted = t.halted := by cases st <;> rfl
@[simp] theorem Thread.tick_cancelled (t : Thread) (st : Stream) (n : Nat) : (t.tick st n).cancelled = t.cancelled := by cases st <;> rfl
@[simp] theorem Thread.tick_failed (t : Thread) (st : Stream) (n : Nat) : (t.tick st n).failed = t.failed := by cases st <;> rfl
@[simp] theorem Thread.tick_ctx (t : Thread) (st : Stream) (n : Nat) : (t.tick st n).ctx = t.ctx := by cases st <;> rfl
@[simp] theorem Thread.tick_task (t : Thread) (st : Stream) (n : Nat) : (t.tick st n).task = t.task := by cases st <;> rfl
@[simp] theorem Thread.tick_record (t : Thread) (st : Stream) (n : Nat) : (t.tick st n).record = t.record := by cases st <;> rfl
@[simp] theorem Thread.tick_disp (t : Thread) (st : Stream) (n : Nat) : (t.tick st n).disp = t.disp := by cases st <;> rfl
@[simp] theorem Thread.tick_a (t : Thread) (st : Stream) (n : Nat) : (t.tick st n).a = t.a := by cases st <;> rfl
@[simp] theorem Thread.tick_e (t : Thread) (st : Stream) (n : Nat) : (t.tick st n).e = t.e := by cases st <;> rfl
@[simp] theorem Thread.tick_p (t : Thread) (st : Stream) (n : Nat) : (t.tick st n).p = t.p := by cases st <;> rfl
@[simp] theorem Thread.tick_apc (t : Thread) (st : Stream) (n : Nat) : (t.tick st n).apc = t.apc := by cases st <;> rfl
@[simp] theorem Thread.tick_epc (t : Thread) (st : Stream) (n : Nat) : (t.tick st n).epc = t.epc := by cases st <;> rfl
@[simp] theorem Thread.tick_agrp (t : Thread) (st : Stream) (n : Nat) : (t.tick st n).agrp = t.agrp := by cases st <;> rfl
@[simp] theorem Thread.tick_egrp (t : Thread) (st : Stream) (n : Nat) : (t.tick st n).egrp = t.egrp := by cases st <;> rfl
@[simp] theorem Thread.tick_x (t : Thread) (st : Stream) (n : Nat) : (t.tick st n).x = t.x := by cases st <;> rfl
@[simp] theorem Thread.tick_flights (t : Thread) (st : Stream) (n : Nat) : (t.tick st n).flights = t.flights := by cases st <;> rfl
@[simp] theorem Thread.tick_eready (t : Thread) (st : Stream) (n : Nat) : (t.tick st n).eready = t.eready := by cases st <;> rfl
@[simp] theorem Thread.tick_mirrorAt (t : Thread) (st : Stream) (n : Nat) : (t.tick st n).mirrorAt = t.mirrorAt := by cases st <;> rfl
@[simp] theorem Thread.tick_fpmode (t : Thread) (st : Stream) (n : Nat) : (t.tick st n).fpmode = t.fpmode := by cases st <;> rfl
@[simp] theorem Thread.tick_repidx (t : Thread) (st : Stream) (n : Nat) : (t.tick st n).repidx = t.repidx := by cases st <;> rfl
@[simp] theorem Thread.tick_rotbase (t : Thread) (st : Stream) (n : Nat) : (t.tick st n).rotbase = t.rotbase := by cases st <;> rfl
@[simp] theorem Thread.tick_tfmt (t : Thread) (st : Stream) (n : Nat) : (t.tick st n).tfmt = t.tfmt := by cases st <;> rfl
@[simp] theorem Thread.tick_async (t : Thread) (st : Stream) (n : Nat) : (t.tick st n).async = t.async := by cases st <;> rfl
@[simp] theorem Thread.tick_inh (t : Thread) (st : Stream) (n : Nat) : (t.tick st n).inh = t.inh := by cases st <;> rfl
@[simp] theorem Thread.tick_traps (t : Thread) (st : Stream) (n : Nat) : (t.tick st n).traps = t.traps := by cases st <;> rfl
@[simp] theorem Thread.tick_cstream (t : Thread) (st : Stream) (n : Nat) : (t.tick st n).cstream = t.cstream := by cases st <;> rfl
@[simp] theorem Thread.tick_code (t : Thread) (st : Stream) (n : Nat) : (t.tick st n).code = t.code := by cases st <;> rfl
@[simp] theorem Thread.tick_domset (t : Thread) (st : Stream) (n : Nat) : (t.tick st n).domset = t.domset := by cases st <;> rfl
@[simp] theorem Thread.tick_tveca (t : Thread) (st : Stream) (n : Nat) : (t.tick st n).tveca = t.tveca := by cases st <;> rfl
@[simp] theorem Thread.tick_tvece (t : Thread) (st : Stream) (n : Nat) : (t.tick st n).tvece = t.tvece := by cases st <;> rfl
@[simp] theorem Thread.tick_traprec (t : Thread) (st : Stream) (n : Nat) : (t.tick st n).traprec = t.traprec := by cases st <;> rfl
@[simp] theorem Thread.tick_epca (t : Thread) (st : Stream) (n : Nat) : (t.tick st n).epca = t.epca := by cases st <;> rfl
@[simp] theorem Thread.tick_epce (t : Thread) (st : Stream) (n : Nat) : (t.tick st n).epce = t.epce := by cases st <;> rfl
@[simp] theorem Thread.tick_tsavea (t : Thread) (st : Stream) (n : Nat) : (t.tick st n).tsavea = t.tsavea := by cases st <;> rfl
@[simp] theorem Thread.tick_tsavee (t : Thread) (st : Stream) (n : Nat) : (t.tick st n).tsavee = t.tsavee := by cases st <;> rfl
@[simp] theorem Thread.tick_tpredlo (t : Thread) (st : Stream) (n : Nat) : (t.tick st n).tpredlo = t.tpredlo := by cases st <;> rfl
@[simp] theorem Thread.tick_tpredhi (t : Thread) (st : Stream) (n : Nat) : (t.tick st n).tpredhi = t.tpredhi := by cases st <;> rfl
@[simp] theorem Thread.tick_tstate (t : Thread) (st : Stream) (n : Nat) : (t.tick st n).tstate = t.tstate := by cases st <;> rfl
@[simp] theorem Thread.tick_mpsel (t : Thread) (st : Stream) (n : Nat) : (t.tick st n).mpsel = t.mpsel := by cases st <;> rfl
@[simp] theorem Thread.tick_invva (t : Thread) (st : Stream) (n : Nat) : (t.tick st n).invva = t.invva := by cases st <;> rfl
@[simp] theorem Thread.tick_queues (t : Thread) (st : Stream) (n : Nat) : (t.tick st n).queues = t.queues := by cases st <;> rfl
@[simp] theorem Thread.tick_frozen (t : Thread) (st : Stream) (n : Nat) : (t.tick st n).frozen = t.frozen := by cases st <;> rfl
@[simp] theorem Thread.tick_saq (t : Thread) (st : Stream) (n : Nat) : (t.tick st n).saq = t.saq := by cases st <;> rfl
@[simp] theorem Thread.tick_setAside (t : Thread) (st : Stream) (n : Nat) : (t.tick st n).setAside = t.setAside := by cases st <;> rfl
@[simp] theorem Thread.tick_sqSkip (t : Thread) (st : Stream) (n : Nat) : (t.tick st n).sqSkip = t.sqSkip := by cases st <;> rfl
@[simp] theorem Thread.tick_ldqRow (t : Thread) (st : Stream) (n : Nat) : (t.tick st n).ldqRow = t.ldqRow := by cases st <;> rfl
@[simp] theorem Thread.tick_frozenLdq (t : Thread) (st : Stream) (n : Nat) : (t.tick st n).frozenLdq = t.frozenLdq := by cases st <;> rfl
@[simp] theorem Thread.tick_ldqAt (t : Thread) (st : Stream) (n : Nat) : (t.tick st n).ldqAt = t.ldqAt := by cases st <;> rfl
@[simp] theorem Thread.tick_atomsOut (t : Thread) (st : Stream) (n : Nat) : (t.tick st n).atomsOut = t.atomsOut := by cases st <;> rfl
@[simp] theorem Thread.tick_heldUncorr (t : Thread) (st : Stream) (n : Nat) : (t.tick st n).heldUncorr = t.heldUncorr := by cases st <;> rfl
@[simp] theorem Thread.tick_handUncorr (t : Thread) (st : Stream) (n : Nat) : (t.tick st n).handUncorr = t.handUncorr := by cases st <;> rfl
@[simp] theorem Thread.tick_out (t : Thread) (st : Stream) (n : Nat) : (t.tick st n).out = t.out := by cases st <;> rfl
@[simp] theorem Thread.tick_arrival (t : Thread) (st : Stream) (n : Nat) : (t.tick st n).arrival = t.arrival := by cases st <;> rfl
@[simp] theorem Thread.tick_asleep (t : Thread) (st : Stream) (n : Nat) : (t.tick st n).asleep = t.asleep := by cases st <;> rfl
@[simp] theorem Thread.tick_ecut (t : Thread) (st : Stream) (n : Nat) : (t.tick st n).ecut = t.ecut := by cases st <;> rfl
@[simp] theorem Thread.tick_pends (t : Thread) (st : Stream) (n : Nat) : (t.tick st n).pends = t.pends := by cases st <;> rfl
@[simp] theorem Thread.tick_lastTime (t : Thread) (st : Stream) (n : Nat) : (t.tick st n).lastTime = t.lastTime := by cases st <;> rfl

@[simp] theorem Thread.goto_live (t : Thread) (st : Stream) (pc : W64) : (t.goto st pc).live = t.live := by cases st <;> rfl
@[simp] theorem Thread.goto_phase (t : Thread) (st : Stream) (pc : W64) : (t.goto st pc).phase = t.phase := by cases st <;> rfl
@[simp] theorem Thread.goto_halting (t : Thread) (st : Stream) (pc : W64) : (t.goto st pc).halting = t.halting := by cases st <;> rfl
@[simp] theorem Thread.goto_halted (t : Thread) (st : Stream) (pc : W64) : (t.goto st pc).halted = t.halted := by cases st <;> rfl
@[simp] theorem Thread.goto_cancelled (t : Thread) (st : Stream) (pc : W64) : (t.goto st pc).cancelled = t.cancelled := by cases st <;> rfl
@[simp] theorem Thread.goto_failed (t : Thread) (st : Stream) (pc : W64) : (t.goto st pc).failed = t.failed := by cases st <;> rfl
@[simp] theorem Thread.goto_ctx (t : Thread) (st : Stream) (pc : W64) : (t.goto st pc).ctx = t.ctx := by cases st <;> rfl
@[simp] theorem Thread.goto_task (t : Thread) (st : Stream) (pc : W64) : (t.goto st pc).task = t.task := by cases st <;> rfl
@[simp] theorem Thread.goto_record (t : Thread) (st : Stream) (pc : W64) : (t.goto st pc).record = t.record := by cases st <;> rfl
@[simp] theorem Thread.goto_disp (t : Thread) (st : Stream) (pc : W64) : (t.goto st pc).disp = t.disp := by cases st <;> rfl
@[simp] theorem Thread.goto_a (t : Thread) (st : Stream) (pc : W64) : (t.goto st pc).a = t.a := by cases st <;> rfl
@[simp] theorem Thread.goto_e (t : Thread) (st : Stream) (pc : W64) : (t.goto st pc).e = t.e := by cases st <;> rfl
@[simp] theorem Thread.goto_p (t : Thread) (st : Stream) (pc : W64) : (t.goto st pc).p = t.p := by cases st <;> rfl
@[simp] theorem Thread.goto_x (t : Thread) (st : Stream) (pc : W64) : (t.goto st pc).x = t.x := by cases st <;> rfl
@[simp] theorem Thread.goto_flights (t : Thread) (st : Stream) (pc : W64) : (t.goto st pc).flights = t.flights := by cases st <;> rfl
@[simp] theorem Thread.goto_eclk (t : Thread) (st : Stream) (pc : W64) : (t.goto st pc).eclk = t.eclk := by cases st <;> rfl
@[simp] theorem Thread.goto_eready (t : Thread) (st : Stream) (pc : W64) : (t.goto st pc).eready = t.eready := by cases st <;> rfl
@[simp] theorem Thread.goto_mirrorAt (t : Thread) (st : Stream) (pc : W64) : (t.goto st pc).mirrorAt = t.mirrorAt := by cases st <;> rfl
@[simp] theorem Thread.goto_fpmode (t : Thread) (st : Stream) (pc : W64) : (t.goto st pc).fpmode = t.fpmode := by cases st <;> rfl
@[simp] theorem Thread.goto_repidx (t : Thread) (st : Stream) (pc : W64) : (t.goto st pc).repidx = t.repidx := by cases st <;> rfl
@[simp] theorem Thread.goto_rotbase (t : Thread) (st : Stream) (pc : W64) : (t.goto st pc).rotbase = t.rotbase := by cases st <;> rfl
@[simp] theorem Thread.goto_tfmt (t : Thread) (st : Stream) (pc : W64) : (t.goto st pc).tfmt = t.tfmt := by cases st <;> rfl
@[simp] theorem Thread.goto_async (t : Thread) (st : Stream) (pc : W64) : (t.goto st pc).async = t.async := by cases st <;> rfl
@[simp] theorem Thread.goto_inh (t : Thread) (st : Stream) (pc : W64) : (t.goto st pc).inh = t.inh := by cases st <;> rfl
@[simp] theorem Thread.goto_traps (t : Thread) (st : Stream) (pc : W64) : (t.goto st pc).traps = t.traps := by cases st <;> rfl
@[simp] theorem Thread.goto_cstream (t : Thread) (st : Stream) (pc : W64) : (t.goto st pc).cstream = t.cstream := by cases st <;> rfl
@[simp] theorem Thread.goto_code (t : Thread) (st : Stream) (pc : W64) : (t.goto st pc).code = t.code := by cases st <;> rfl
@[simp] theorem Thread.goto_domset (t : Thread) (st : Stream) (pc : W64) : (t.goto st pc).domset = t.domset := by cases st <;> rfl
@[simp] theorem Thread.goto_tveca (t : Thread) (st : Stream) (pc : W64) : (t.goto st pc).tveca = t.tveca := by cases st <;> rfl
@[simp] theorem Thread.goto_tvece (t : Thread) (st : Stream) (pc : W64) : (t.goto st pc).tvece = t.tvece := by cases st <;> rfl
@[simp] theorem Thread.goto_traprec (t : Thread) (st : Stream) (pc : W64) : (t.goto st pc).traprec = t.traprec := by cases st <;> rfl
@[simp] theorem Thread.goto_epca (t : Thread) (st : Stream) (pc : W64) : (t.goto st pc).epca = t.epca := by cases st <;> rfl
@[simp] theorem Thread.goto_epce (t : Thread) (st : Stream) (pc : W64) : (t.goto st pc).epce = t.epce := by cases st <;> rfl
@[simp] theorem Thread.goto_tsavea (t : Thread) (st : Stream) (pc : W64) : (t.goto st pc).tsavea = t.tsavea := by cases st <;> rfl
@[simp] theorem Thread.goto_tsavee (t : Thread) (st : Stream) (pc : W64) : (t.goto st pc).tsavee = t.tsavee := by cases st <;> rfl
@[simp] theorem Thread.goto_tpredlo (t : Thread) (st : Stream) (pc : W64) : (t.goto st pc).tpredlo = t.tpredlo := by cases st <;> rfl
@[simp] theorem Thread.goto_tpredhi (t : Thread) (st : Stream) (pc : W64) : (t.goto st pc).tpredhi = t.tpredhi := by cases st <;> rfl
@[simp] theorem Thread.goto_tstate (t : Thread) (st : Stream) (pc : W64) : (t.goto st pc).tstate = t.tstate := by cases st <;> rfl
@[simp] theorem Thread.goto_mpsel (t : Thread) (st : Stream) (pc : W64) : (t.goto st pc).mpsel = t.mpsel := by cases st <;> rfl
@[simp] theorem Thread.goto_invva (t : Thread) (st : Stream) (pc : W64) : (t.goto st pc).invva = t.invva := by cases st <;> rfl
@[simp] theorem Thread.goto_queues (t : Thread) (st : Stream) (pc : W64) : (t.goto st pc).queues = t.queues := by cases st <;> rfl
@[simp] theorem Thread.goto_frozen (t : Thread) (st : Stream) (pc : W64) : (t.goto st pc).frozen = t.frozen := by cases st <;> rfl
@[simp] theorem Thread.goto_saq (t : Thread) (st : Stream) (pc : W64) : (t.goto st pc).saq = t.saq := by cases st <;> rfl
@[simp] theorem Thread.goto_setAside (t : Thread) (st : Stream) (pc : W64) : (t.goto st pc).setAside = t.setAside := by cases st <;> rfl
@[simp] theorem Thread.goto_sqSkip (t : Thread) (st : Stream) (pc : W64) : (t.goto st pc).sqSkip = t.sqSkip := by cases st <;> rfl
@[simp] theorem Thread.goto_ldqRow (t : Thread) (st : Stream) (pc : W64) : (t.goto st pc).ldqRow = t.ldqRow := by cases st <;> rfl
@[simp] theorem Thread.goto_frozenLdq (t : Thread) (st : Stream) (pc : W64) : (t.goto st pc).frozenLdq = t.frozenLdq := by cases st <;> rfl
@[simp] theorem Thread.goto_ldqAt (t : Thread) (st : Stream) (pc : W64) : (t.goto st pc).ldqAt = t.ldqAt := by cases st <;> rfl
@[simp] theorem Thread.goto_atomsOut (t : Thread) (st : Stream) (pc : W64) : (t.goto st pc).atomsOut = t.atomsOut := by cases st <;> rfl
@[simp] theorem Thread.goto_heldUncorr (t : Thread) (st : Stream) (pc : W64) : (t.goto st pc).heldUncorr = t.heldUncorr := by cases st <;> rfl
@[simp] theorem Thread.goto_handUncorr (t : Thread) (st : Stream) (pc : W64) : (t.goto st pc).handUncorr = t.handUncorr := by cases st <;> rfl
@[simp] theorem Thread.goto_out (t : Thread) (st : Stream) (pc : W64) : (t.goto st pc).out = t.out := by cases st <;> rfl
@[simp] theorem Thread.goto_arrival (t : Thread) (st : Stream) (pc : W64) : (t.goto st pc).arrival = t.arrival := by cases st <;> rfl
@[simp] theorem Thread.goto_asleep (t : Thread) (st : Stream) (pc : W64) : (t.goto st pc).asleep = t.asleep := by cases st <;> rfl
@[simp] theorem Thread.goto_ecut (t : Thread) (st : Stream) (pc : W64) : (t.goto st pc).ecut = t.ecut := by cases st <;> rfl
@[simp] theorem Thread.goto_pends (t : Thread) (st : Stream) (pc : W64) : (t.goto st pc).pends = t.pends := by cases st <;> rfl
@[simp] theorem Thread.goto_lastTime (t : Thread) (st : Stream) (pc : W64) : (t.goto st pc).lastTime = t.lastTime := by cases st <;> rfl

@[simp] theorem Thread.setPred_live (t : Thread) (i : BitVec 7) (b : Bool) : (t.setPred i b).live = t.live := rfl
@[simp] theorem Thread.setPred_phase (t : Thread) (i : BitVec 7) (b : Bool) : (t.setPred i b).phase = t.phase := rfl
@[simp] theorem Thread.setPred_halting (t : Thread) (i : BitVec 7) (b : Bool) : (t.setPred i b).halting = t.halting := rfl
@[simp] theorem Thread.setPred_halted (t : Thread) (i : BitVec 7) (b : Bool) : (t.setPred i b).halted = t.halted := rfl
@[simp] theorem Thread.setPred_cancelled (t : Thread) (i : BitVec 7) (b : Bool) : (t.setPred i b).cancelled = t.cancelled := rfl
@[simp] theorem Thread.setPred_failed (t : Thread) (i : BitVec 7) (b : Bool) : (t.setPred i b).failed = t.failed := rfl
@[simp] theorem Thread.setPred_ctx (t : Thread) (i : BitVec 7) (b : Bool) : (t.setPred i b).ctx = t.ctx := rfl
@[simp] theorem Thread.setPred_task (t : Thread) (i : BitVec 7) (b : Bool) : (t.setPred i b).task = t.task := rfl
@[simp] theorem Thread.setPred_record (t : Thread) (i : BitVec 7) (b : Bool) : (t.setPred i b).record = t.record := rfl
@[simp] theorem Thread.setPred_disp (t : Thread) (i : BitVec 7) (b : Bool) : (t.setPred i b).disp = t.disp := rfl
@[simp] theorem Thread.setPred_a (t : Thread) (i : BitVec 7) (b : Bool) : (t.setPred i b).a = t.a := rfl
@[simp] theorem Thread.setPred_e (t : Thread) (i : BitVec 7) (b : Bool) : (t.setPred i b).e = t.e := rfl
@[simp] theorem Thread.setPred_apc (t : Thread) (i : BitVec 7) (b : Bool) : (t.setPred i b).apc = t.apc := rfl
@[simp] theorem Thread.setPred_epc (t : Thread) (i : BitVec 7) (b : Bool) : (t.setPred i b).epc = t.epc := rfl
@[simp] theorem Thread.setPred_agrp (t : Thread) (i : BitVec 7) (b : Bool) : (t.setPred i b).agrp = t.agrp := rfl
@[simp] theorem Thread.setPred_egrp (t : Thread) (i : BitVec 7) (b : Bool) : (t.setPred i b).egrp = t.egrp := rfl
@[simp] theorem Thread.setPred_x (t : Thread) (i : BitVec 7) (b : Bool) : (t.setPred i b).x = t.x := rfl
@[simp] theorem Thread.setPred_flights (t : Thread) (i : BitVec 7) (b : Bool) : (t.setPred i b).flights = t.flights := rfl
@[simp] theorem Thread.setPred_eclk (t : Thread) (i : BitVec 7) (b : Bool) : (t.setPred i b).eclk = t.eclk := rfl
@[simp] theorem Thread.setPred_eready (t : Thread) (i : BitVec 7) (b : Bool) : (t.setPred i b).eready = t.eready := rfl
@[simp] theorem Thread.setPred_mirrorAt (t : Thread) (i : BitVec 7) (b : Bool) : (t.setPred i b).mirrorAt = t.mirrorAt := rfl
@[simp] theorem Thread.setPred_fpmode (t : Thread) (i : BitVec 7) (b : Bool) : (t.setPred i b).fpmode = t.fpmode := rfl
@[simp] theorem Thread.setPred_repidx (t : Thread) (i : BitVec 7) (b : Bool) : (t.setPred i b).repidx = t.repidx := rfl
@[simp] theorem Thread.setPred_rotbase (t : Thread) (i : BitVec 7) (b : Bool) : (t.setPred i b).rotbase = t.rotbase := rfl
@[simp] theorem Thread.setPred_tfmt (t : Thread) (i : BitVec 7) (b : Bool) : (t.setPred i b).tfmt = t.tfmt := rfl
@[simp] theorem Thread.setPred_async (t : Thread) (i : BitVec 7) (b : Bool) : (t.setPred i b).async = t.async := rfl
@[simp] theorem Thread.setPred_inh (t : Thread) (i : BitVec 7) (b : Bool) : (t.setPred i b).inh = t.inh := rfl
@[simp] theorem Thread.setPred_traps (t : Thread) (i : BitVec 7) (b : Bool) : (t.setPred i b).traps = t.traps := rfl
@[simp] theorem Thread.setPred_cstream (t : Thread) (i : BitVec 7) (b : Bool) : (t.setPred i b).cstream = t.cstream := rfl
@[simp] theorem Thread.setPred_code (t : Thread) (i : BitVec 7) (b : Bool) : (t.setPred i b).code = t.code := rfl
@[simp] theorem Thread.setPred_domset (t : Thread) (i : BitVec 7) (b : Bool) : (t.setPred i b).domset = t.domset := rfl
@[simp] theorem Thread.setPred_tveca (t : Thread) (i : BitVec 7) (b : Bool) : (t.setPred i b).tveca = t.tveca := rfl
@[simp] theorem Thread.setPred_tvece (t : Thread) (i : BitVec 7) (b : Bool) : (t.setPred i b).tvece = t.tvece := rfl
@[simp] theorem Thread.setPred_traprec (t : Thread) (i : BitVec 7) (b : Bool) : (t.setPred i b).traprec = t.traprec := rfl
@[simp] theorem Thread.setPred_epca (t : Thread) (i : BitVec 7) (b : Bool) : (t.setPred i b).epca = t.epca := rfl
@[simp] theorem Thread.setPred_epce (t : Thread) (i : BitVec 7) (b : Bool) : (t.setPred i b).epce = t.epce := rfl
@[simp] theorem Thread.setPred_tsavea (t : Thread) (i : BitVec 7) (b : Bool) : (t.setPred i b).tsavea = t.tsavea := rfl
@[simp] theorem Thread.setPred_tsavee (t : Thread) (i : BitVec 7) (b : Bool) : (t.setPred i b).tsavee = t.tsavee := rfl
@[simp] theorem Thread.setPred_tpredlo (t : Thread) (i : BitVec 7) (b : Bool) : (t.setPred i b).tpredlo = t.tpredlo := rfl
@[simp] theorem Thread.setPred_tpredhi (t : Thread) (i : BitVec 7) (b : Bool) : (t.setPred i b).tpredhi = t.tpredhi := rfl
@[simp] theorem Thread.setPred_tstate (t : Thread) (i : BitVec 7) (b : Bool) : (t.setPred i b).tstate = t.tstate := rfl
@[simp] theorem Thread.setPred_mpsel (t : Thread) (i : BitVec 7) (b : Bool) : (t.setPred i b).mpsel = t.mpsel := rfl
@[simp] theorem Thread.setPred_invva (t : Thread) (i : BitVec 7) (b : Bool) : (t.setPred i b).invva = t.invva := rfl
@[simp] theorem Thread.setPred_queues (t : Thread) (i : BitVec 7) (b : Bool) : (t.setPred i b).queues = t.queues := rfl
@[simp] theorem Thread.setPred_frozen (t : Thread) (i : BitVec 7) (b : Bool) : (t.setPred i b).frozen = t.frozen := rfl
@[simp] theorem Thread.setPred_saq (t : Thread) (i : BitVec 7) (b : Bool) : (t.setPred i b).saq = t.saq := rfl
@[simp] theorem Thread.setPred_setAside (t : Thread) (i : BitVec 7) (b : Bool) : (t.setPred i b).setAside = t.setAside := rfl
@[simp] theorem Thread.setPred_sqSkip (t : Thread) (i : BitVec 7) (b : Bool) : (t.setPred i b).sqSkip = t.sqSkip := rfl
@[simp] theorem Thread.setPred_ldqRow (t : Thread) (i : BitVec 7) (b : Bool) : (t.setPred i b).ldqRow = t.ldqRow := rfl
@[simp] theorem Thread.setPred_frozenLdq (t : Thread) (i : BitVec 7) (b : Bool) : (t.setPred i b).frozenLdq = t.frozenLdq := rfl
@[simp] theorem Thread.setPred_ldqAt (t : Thread) (i : BitVec 7) (b : Bool) : (t.setPred i b).ldqAt = t.ldqAt := rfl
@[simp] theorem Thread.setPred_atomsOut (t : Thread) (i : BitVec 7) (b : Bool) : (t.setPred i b).atomsOut = t.atomsOut := rfl
@[simp] theorem Thread.setPred_heldUncorr (t : Thread) (i : BitVec 7) (b : Bool) : (t.setPred i b).heldUncorr = t.heldUncorr := rfl
@[simp] theorem Thread.setPred_handUncorr (t : Thread) (i : BitVec 7) (b : Bool) : (t.setPred i b).handUncorr = t.handUncorr := rfl
@[simp] theorem Thread.setPred_out (t : Thread) (i : BitVec 7) (b : Bool) : (t.setPred i b).out = t.out := rfl
@[simp] theorem Thread.setPred_arrival (t : Thread) (i : BitVec 7) (b : Bool) : (t.setPred i b).arrival = t.arrival := rfl
@[simp] theorem Thread.setPred_asleep (t : Thread) (i : BitVec 7) (b : Bool) : (t.setPred i b).asleep = t.asleep := rfl
@[simp] theorem Thread.setPred_ecut (t : Thread) (i : BitVec 7) (b : Bool) : (t.setPred i b).ecut = t.ecut := rfl
@[simp] theorem Thread.setPred_pends (t : Thread) (i : BitVec 7) (b : Bool) : (t.setPred i b).pends = t.pends := rfl
@[simp] theorem Thread.setPred_lastTime (t : Thread) (i : BitVec 7) (b : Bool) : (t.setPred i b).lastTime = t.lastTime := rfl

/-! ### Reading after an update -/

@[simp] theorem State.thread_setThread (s : State) (c k : Nat) (t : Thread) : (s.setThread c k t).thread c k = t :=
  Tab.get_set_self _ _ _ _

theorem State.thread_setThread_ne (s : State) (c k c' k' : Nat) (t : Thread) (h : c' * 16 + k' ≠ c * 16 + k) :
    (s.setThread c k t).thread c' k' = s.thread c' k' := Tab.get_set_ne _ _ _ _ _ h

@[simp] theorem State.curT_setCurT (s : State) (t : Thread) : (s.setCurT t).curT = t := State.thread_setThread _ _ _ _

@[simp] theorem State.core_setThread (s : State) (c k : Nat) (t : Thread) (n : Nat) : (s.setThread c k t).core n = s.core n := rfl

@[simp] theorem State.core_setCurT (s : State) (t : Thread) (n : Nat) : (s.setCurT t).core n = s.core n := rfl

@[simp] theorem State.core_setCore (s : State) (c : Nat) (k : Core) : (s.setCore c k).core c = k := Tab.get_set_self _ _ _ _

theorem State.core_setCore_ne (s : State) (c c' : Nat) (k : Core) (h : c' ≠ c) : (s.setCore c k).core c' = s.core c' :=
  Tab.get_set_ne _ _ _ _ _ h

@[simp] theorem State.thread_setCore (s : State) (c : Nat) (k : Core) (n m : Nat) : (s.setCore c k).thread n m = s.thread n m := rfl

@[simp] theorem State.estream_setEstream (s : State) (e c : Nat) (v : EStream) : (s.setEstream e c v).estream e c = v :=
  Tab.get_set_self _ _ _ _

theorem State.estream_setEstream_ne (s : State) (e c e' c' : Nat) (v : EStream) (h : e' * 512 + c' ≠ e * 512 + c) :
    (s.setEstream e c v).estream e' c' = s.estream e' c' := Tab.get_set_ne _ _ _ _ _ h

@[simp] theorem State.estream_setThread (s : State) (c k : Nat) (t : Thread) (e n : Nat) :
    (s.setThread c k t).estream e n = s.estream e n := rfl

@[simp] theorem State.estream_setCurT (s : State) (t : Thread) (e n : Nat) : (s.setCurT t).estream e n = s.estream e n := rfl

@[simp] theorem State.thread_setEstream (s : State) (e c : Nat) (v : EStream) (n m : Nat) :
    (s.setEstream e c v).thread n m = s.thread n m := rfl

@[simp] theorem State.core_setEstream (s : State) (e c : Nat) (v : EStream) (n : Nat) : (s.setEstream e c v).core n = s.core n := rfl

@[simp] theorem State.result_setResult (s : State) (c e : Nat) (v : List Elem) : (s.setResult c e v).result c e = v :=
  Tab.get_set_self _ _ _ _

@[simp] theorem State.result_setCurT (s : State) (t : Thread) (c e : Nat) : (s.setCurT t).result c e = s.result c e := rfl

@[simp] theorem State.port_setPort (s : State) (p : Nat) (v : Port) : (s.setPort p v).port p = v := Tab.get_set_self _ _ _ _

theorem State.port_setPort_ne (s : State) (p p' : Nat) (v : Port) (h : p' ≠ p) : (s.setPort p v).port p' = s.port p' :=
  Tab.get_set_ne _ _ _ _ _ h

@[simp] theorem State.port_setCurT (s : State) (t : Thread) (p : Nat) : (s.setCurT t).port p = s.port p := rfl

@[simp] theorem State.curT_setCore (s : State) (c : Nat) (k : Core) : (s.setCore c k).curT = s.curT := rfl

@[simp] theorem State.coreOn_setCurT (s : State) (t : Thread) (c : Nat) : (s.setCurT t).coreOn c = s.coreOn c := rfl

/-- A register just written reads as written; every other of its file, and the other file, as before (03 R63). -/
@[simp] theorem Thread.rd_wr (t : Thread) (st : Stream) (i : BitVec 5) (v : W64) : (t.wr st i v).rd st i = v := by
  cases st <;> simp [Thread.wr, Thread.rd]

theorem Thread.rd_wr_ne (t : Thread) (st : Stream) (i j : BitVec 5) (v : W64) (h : j ≠ i) : (t.wr st i v).rd st j = t.rd st j := by
  have h' : i.toNat ≠ j.toNat := fun e => h (BitVec.eq_of_toNat_eq e.symm)
  cases st <;> simp [Thread.wr, Thread.rd, Vector.getElem_set_ne, h']

@[simp] theorem Thread.rd_tick (t : Thread) (st st' : Stream) (n : Nat) (i : BitVec 5) : (t.tick st n).rd st' i = t.rd st' i := by
  cases st <;> cases st' <;> rfl

@[simp] theorem Thread.rd_goto (t : Thread) (st st' : Stream) (pc : W64) (i : BitVec 5) :
    (t.goto st pc).rd st' i = t.rd st' i := by
  cases st <;> cases st' <;> rfl

@[simp] theorem Thread.pred_setPred (t : Thread) (i : BitVec 7) (b : Bool) : (t.setPred i b).pred i = b := by
  have hi : i.toNat < 128 := i.isLt
  cases b <;> simp [Thread.setPred, Thread.pred, hi]

end Sys2Proof.Machine
end

