-- ==== Sys2Proof/Laws/Run.lean ====
section
/-! SUPPORT. What the shared operations do: running a word, the checks before it, accesses of a core's own scratchpad, and the
store-address queue, which never touches memory. -/

namespace Sys2Proof

open Sys2Proof.Machine

/-! ### Running a word -/

theorem runWord_ok {s s' : State} {f : Thread → X State} (h : mayIssue s = true) (e : f s.curT = .ok s') :
    runWord s f = .next s' := by simp [runWord, h, e]

theorem runWord_wait {s : State} {f : Thread → X State} (h : mayIssue s = true) (e : f s.curT = .error .wait) :
    runWord s f = .next (waiting s) := by simp [runWord, h, e]

theorem runWord_fault {s : State} {f : Thread → X State} {c : Code} {a : W64} {o : Option State} (h : mayIssue s = true)
    (e : f s.curT = .error (.flt c a o)) : runWord s f = .next (raise s c a o) := by simp [runWord, h, e]

/-- A word under `mayIssue` always answers a next state: its effect, a wait, or its fault. -/
theorem runWord_cases {s : State} (f : Thread → X State) (h : mayIssue s = true) :
    (∃ s', f s.curT = .ok s' ∧ runWord s f = .next s') ∨ (f s.curT = .error .wait ∧ runWord s f = .next (waiting s))
      ∨ ∃ c a o, f s.curT = .error (.flt c a o) ∧ runWord s f = .next (raise s c a o) := by
  rcases e : f s.curT with (_ | ⟨c, a, o⟩) | s'
  · exact .inr (.inl ⟨rfl, runWord_wait h e⟩)
  · exact .inr (.inr ⟨c, a, o, rfl, runWord_fault h e⟩)
  · exact .inl ⟨s', rfl, runWord_ok h e⟩

theorem scalar_next {s : State} (h : mayIssue s = true) (f : Stream → Thread → Thread) :
    scalar s f = .next (s.setCurT (((f s.cur.st s.curT).tick s.cur.st).advance s.cur.st)) := runWord_ok h rfl

theorem alu_next {s : State} (h : mayIssue s = true) {d a b : BitVec 5} {f : W64 → W64 → W64} {v : W64}
    (e : f (s.curT.rd s.cur.st a) (s.curT.rd s.cur.st b) = v) :
    alu s d a b f = .next (s.setCurT (((s.curT.wr s.cur.st d v).tick s.cur.st).advance s.cur.st)) := by
  rw [← e]; exact scalar_next h _

theorem alu1_next {s : State} (h : mayIssue s = true) {d a : BitVec 5} {f : W64 → W64} {v : W64}
    (e : f (s.curT.rd s.cur.st a) = v) :
    alu1 s d a f = .next (s.setCurT (((s.curT.wr s.cur.st d v).tick s.cur.st).advance s.cur.st)) := by
  rw [← e]; exact scalar_next h _

theorem plog_next {s : State} (h : mayIssue s = true) {d a b : BitVec 7} {f : Bool → Bool → Bool} {v : Bool}
    (e : f (s.curT.pred a) (s.curT.pred b) = v) :
    plog s d a b f = .next (s.setCurT (((s.curT.setPred d v).tick s.cur.st).advance s.cur.st)) := by
  rw [← e]; exact scalar_next h _

/-! ### Words that take pending faults first -/

theorem weakGuard_none {s : State} (rel : Bool) (h1 : NoneHeld s.curT)
    (h2 : guardOf s s.cur.core s.curT 0 s.curT.saq = .clear) (h3 : s.curT.cancelled = false) :
    weakGuard s s.cur.core s.cur.slot rel = .pass := by
  obtain ⟨ha, hb, hc⟩ := h1
  unfold State.curT at *
  have hp : (if (s.thread s.cur.core s.cur.slot).inh = true then none
      else (s.thread s.cur.core s.cur.slot).pends.find? Pend.weak) = none := by
    split
    · rfl
    · next hi => simpa [weakHeld, h3, hi, List.find?_eq_none] using hc
  simp [weakGuard, h2, hp, ha, hb]

/-- A thread that may issue has not been cancelled. -/
theorem mayIssue_cancelled {s : State} (h : mayIssue s = true) : s.curT.cancelled = false := by
  unfold mayIssue at h; simp only [Bool.and_eq_true, Bool.not_eq_true'] at h; tauto

/-- A word of the A-stream with no fault pending and no exchange at its core runs at once. -/
theorem strong_run {s : State} (h : IssuesStrong s) (rel : Bool) (f : Thread → X State) : strong s rel f = runWord s f := by
  obtain ⟨⟨h1, _⟩, _, h4, h5⟩ := h
  simp [strong, h1, weakGuard_none rel h4 h5 (mayIssue_cancelled h1)]

/-- A releasing word of the E-stream with everything before it performed runs at once. -/
theorem guardedE_run {s : State} (h : IssuesRelease s) (f : Thread → X State) : guardedE s f = runWord s f := by
  obtain ⟨⟨h1, _⟩, _, h3, _, h5, _⟩ := h
  have : weakGuard s s.cur.core s.cur.slot true = .pass :=
    weakGuard_none true h5 (by rw [h3]; rfl) (mayIssue_cancelled h1)
  simp [guardedE, h1, this]

/-! ### A core's own scratchpad -/

theorem bytes_cases (z : BitVec 2) :
    (Machine.sizeOf z).bytes = 1 ∨ (Machine.sizeOf z).bytes = 2 ∨ (Machine.sizeOf z).bytes = 4 ∨ (Machine.sizeOf z).bytes = 8 := by
  revert z; decide

/-- An access that lies in the core's own scratchpad resolves to its one place, and changes nothing. -/
theorem resolve_own {s : State} {core ctx : Nat} {ea : W64} {n : Nat} {k : Kind}
    (h : OwnSpad s core ea n k) (hn : n = 1 ∨ n = 2 ∨ n = 4 ∨ n = 8) :
    resolve s (whoA core ctx) ea n k = .ok (s, [(.spad (ownKey core ea), n)]) := by
  obtain ⟨h1, h2, h3, h4⟩ := h
  have hlt : ea.toNat < spadSize := by unfold carveBase at h2; omega
  have ha : alignOf n = n := by rcases hn with rfl | rfl | rfl | rfl <;> rfl
  have hp : pieces ea n = [(ea, n)] := by rcases hn with rfl | rfl | rfl | rfl <;> rfl
  have h2' : ¬ carveBase (s.core core).ways < ea.toNat + n := by omega
  simp [resolve, ha, h1, hp, locateAll, locate, whoA, hlt, h3, h2', h4, ownKey]

theorem readAll_spad {s : State} {ea : W64} {k n : Nat} (h : locPoisoned s (.spad k) n = false) :
    readAll s ea [(.spad k, n)] = .ok (s, s.spad.bytes k n) := by simp [readAll, readLocs, readLoc, h]

theorem forward_memory {q : List SaOp} {ea n : Nat} (h : q.any (SaOp.touches ea n) = false) : forward q ea n = .memory := by
  have : q.filter (SaOp.touches ea n) = [] := by simpa using h
  simp [forward, this]

/-! ### Loads -/

/-- A load once its address has been checked. -/
theorem loadTo_resolved {s s': State} {d : BitVec 5} {ea : W64} {n : Nat} {ls} (hf : fencedAll s.curT.saq = false)
   (hr : resolve s (curWho s) ea n .read = .ok (s', ls)) (hw : wordBehind s' s'.cur.core s.curT.ctx s.curT.saq true ls = false) :
   loadTo s d ea n =
    (match forward s.curT.saq ea.toNat n with
      | .wait => .error .wait
      | .bytes v => .ok (nextA (s'.setCurT (s'.curT.wr .a d (BitVec.ofNat 64 v))))
      | .memory => match outside ls with
        | some (k, a) => outAccess s' { kind := k, addr := a, ea := ea, size := n } ea fun (s : State) (v : Nat) => nextA (s.setCurT (s.curT.wr .a d (BitVec.ofNat 64 v)))
        | none => match readAll s' 0 ls with
          | .error e => .error e
          | .ok (s, bs) => .ok (nextA (s.setCurT (s.curT.wr .a d (BitVec.ofNat 64 (leValue bs)))))) := by
  unfold loadTo; dsimp only; rw [hf, hr]; simp only [hw]; rfl
/-- A load from the core's own scratchpad. -/
theorem loadTo_own {s : State} {d : BitVec 5} {ea : W64} {n : Nat} (hn : n = 1 ∨ n = 2 ∨ n = 4 ∨ n = 8)
   (ho : OwnSpad s s.cur.core ea n .read) (hu : Unhindered s ea n) (hp : locPoisoned s (.spad (ownKey s.cur.core ea)) n = false) :
   loadTo s d ea n = .ok (nextA (s.setCurT (s.curT.wr .a d (BitVec.ofNat 64 (s.spad.readLE (ownKey s.cur.core ea) n))))) := by
  rw [loadTo_resolved hu.1 (resolve_own ho hn) hu.2.2, forward_memory hu.2.1]
  simp only [outside, readAll_spad hp]
  rw [Mem.readLE]


/-! ### The store-address queue -/

/-- Two states with the same memories. -/
theorem SameMem.bytes {s t : State} (h : t.dev = s.dev ∧ t.spad = s.spad ∧ t.host = s.host ∧ t.remote = s.remote) :
    SameBytes s t := fun a => by obtain ⟨h1, h2, h3, h4⟩ := h; rw [h1, h2, h3, h4]; exact ⟨rfl, rfl, rfl, rfl⟩

theorem postCtr_mem (s : State) (core c : Nat) (v : BitVec 32) :
    (postCtr s core c v).dev = s.dev ∧ (postCtr s core c v).spad = s.spad ∧ (postCtr s core c v).host = s.host
      ∧ (postCtr s core c v).remote = s.remote := by
  unfold postCtr; split <;> exact ⟨rfl, rfl, rfl, rfl⟩

theorem deliver_mem (s : State) (eng : Nat) (c : Cmd) :
    (deliver s eng c).dev = s.dev ∧ (deliver s eng c).spad = s.spad ∧ (deliver s eng c).host = s.host
      ∧ (deliver s eng c).remote = s.remote := by
  unfold deliver; dsimp only; split <;> exact ⟨rfl, rfl, rfl, rfl⟩

/-- The ordering operations of a store-address queue change no byte of memory. -/
theorem settleHead_mem : ∀ (n : Nat) (s : State) (core slot : Nat),
    (settleHead n s core slot).dev = s.dev ∧ (settleHead n s core slot).spad = s.spad
      ∧ (settleHead n s core slot).host = s.host ∧ (settleHead n s core slot).remote = s.remote
  | 0, _, _, _ => ⟨rfl, rfl, rfl, rfl⟩
  | n + 1, s, core, slot => by
    have drop : ∀ u : State, u.dev = s.dev ∧ u.spad = s.spad ∧ u.host = s.host ∧ u.remote = s.remote →
        (settleHead n u core slot).dev = s.dev ∧ (settleHead n u core slot).spad = s.spad
          ∧ (settleHead n u core slot).host = s.host ∧ (settleHead n u core slot).remote = s.remote := fun u hu => by
      obtain ⟨a, b, c, d⟩ := settleHead_mem n u core slot
      obtain ⟨a', b', c', d'⟩ := hu
      exact ⟨a.trans a', b.trans b', c.trans c', d.trans d'⟩
    unfold settleHead
    dsimp only
    split
    · exact ⟨rfl, rfl, rfl, rfl⟩
    · split
      · split
        · exact ⟨rfl, rfl, rfl, rfl⟩
        · exact drop _ ⟨rfl, rfl, rfl, rfl⟩
      · split
        · exact ⟨rfl, rfl, rfl, rfl⟩
        · exact drop _ (postCtr_mem _ _ _ _)
      · split
        · exact ⟨rfl, rfl, rfl, rfl⟩
        · exact drop _ (deliver_mem _ _ _)
      · split
        · exact ⟨rfl, rfl, rfl, rfl⟩
        · exact drop _ ⟨rfl, rfl, rfl, rfl⟩
      · exact ⟨rfl, rfl, rfl, rfl⟩

/-- Operations of a queue that cover no FLT_UNCORR of a handler's own. -/
theorem uncorrCovered_mem (s : State) (core slot : Nat) (h : (s.thread core slot).handUncorr = none) :
    (uncorrCovered s core slot).dev = s.dev ∧ (uncorrCovered s core slot).spad = s.spad
      ∧ (uncorrCovered s core slot).host = s.host ∧ (uncorrCovered s core slot).remote = s.remote := by
  unfold uncorrCovered
  dsimp only
  rw [h]
  repeat' split
  all_goals first | exact ⟨rfl, rfl, rfl, rfl⟩ | simp_all

theorem settle_mem (s : State) (core slot : Nat) (h : (s.thread core slot).handUncorr = none) :
    (settle s core slot).dev = s.dev ∧ (settle s core slot).spad = s.spad
      ∧ (settle s core slot).host = s.host ∧ (settle s core slot).remote = s.remote := by
  obtain ⟨a, b, c, d⟩ := uncorrCovered_mem s core slot h
  obtain ⟨a', b', c', d'⟩ := settleHead_mem (((uncorrCovered s core slot).thread core slot).saq.length + 1)
    (uncorrCovered s core slot) core slot
  exact ⟨a'.trans a, b'.trans b, c'.trans c, d'.trans d⟩

theorem settle_same (s : State) (core slot : Nat) (h : (s.thread core slot).handUncorr = none) : SameBytes s (settle s core slot) :=
  SameMem.bytes (settle_mem _ _ _ h)

/-- A store or an ordering operation that joins the queue changes no byte of memory. -/
theorem enqueueOp_same (s : State) (o : SaOp) (h : s.curT.handUncorr = none) : SameBytes s (nextA (enqueueOp s o)) :=
  SameMem.bytes (settle_mem (s.setCurT { s.curT with saq := s.curT.saq ++ [o] }) s.cur.core s.cur.slot (by
    have : (s.setCurT { s.curT with saq := s.curT.saq ++ [o] }).thread s.cur.core s.cur.slot
        = { s.curT with saq := s.curT.saq ++ [o] } := State.curT_setCurT _ _
    rw [this]; exact h))

end Sys2Proof
end

