-- ==== Sys2Proof/Laws/Tile.lean ====
section
/-! SUPPORT. What a tile word leaves when it issues, by itself or as one repetition of a REP. -/

namespace Sys2Proof

open Sys2Proof.Machine

/-- A steppable word whose body answers a state: that state, with the stream moved on. -/
theorem repeated_ok {s s' : State} {stall : Nat} {d a b d' a' b' : BitVec 7}
    {body : BitVec 7 → BitVec 7 → BitVec 7 → Bool → Thread → State → X State} (h : mayIssue s = true)
    (hr : rowFields s.curT d a b = some (d', a', b')) (hb : ∀ rep, body d' a' b' rep s.curT s = .ok s') :
    repeated s stall d a b body = .next (tileIssued s s' stall) := by
  unfold rowFields at hr
  unfold repeated tileIssued
  rcases hrep : s.curT.egrp.rep with _ | r
  · rw [hrep] at hr
    cases hr
    exact runWord_ok h (by rw [hb])
  · rw [hrep] at hr
    revert hr
    dsimp only
    rcases stepField d s.curT.repIndex r.sd with _ | _ <;> rcases stepField a s.curT.repIndex r.sa with _ | _
      <;> rcases stepField b s.curT.repIndex r.sb with _ | _ <;> simp only [reduceCtorEq, false_imp_iff]
    intro hr
    cases hr
    simp only [hb]
    refine (runWord_ok h rfl).trans ?_
    split <;> rfl

/-- A steppable word outside REP whose body faults. -/
theorem repeated_fault {s : State} {stall : Nat} {d a b : BitVec 7} {c : Code} {ad : W64}
    {body : BitVec 7 → BitVec 7 → BitVec 7 → Bool → Thread → State → X State} (h : mayIssue s = true)
    (hr : s.curT.egrp.rep = none) (hb : body d a b false s.curT s = .error (.flt c ad)) :
    repeated s stall d a b body = .next (raise s c ad) := by
  unfold repeated
  rw [hr]
  exact runWord_fault h (by rw [hb])

theorem tileIssue_ok {s : State} {srcs : List Nat} {lat : Nat} {f : Thread → X TileOut}
    {rows : List (Nat × RowData × Option Sideband)} {fl : FFlags} (h : f (atIssue s.curT srcs) = .ok ⟨rows, fl⟩) :
    tileIssue s srcs lat f = .ok (launchAll (s.setCurT ((atIssue s.curT srcs).addFlags fl)) lat rows) := by
  unfold tileIssue
  simp only [h]

/-- A steppable word whose body issues one destination row. -/
theorem repeated_oneRow {s : State} {stall lat : Nat} {d a b d' a' b' : BitVec 7} {srcs : List Nat}
    {body : BitVec 7 → BitVec 7 → BitVec 7 → Bool → Thread → State → X State} {f : Thread → X TileOut} {r : RowData × FFlags}
    {sb : Option Sideband} (h : mayIssue s = true) (hr : rowFields s.curT d a b = some (d', a', b'))
    (hb : ∀ rep, body d' a' b' rep s.curT s = tileIssue s srcs lat f)
    (hf : f (atIssue s.curT srcs) = .ok ⟨[((atIssue s.curT srcs).phys d', r.1, sb)], r.2⟩) :
    repeated s stall d a b body = oneRow s stall lat (atIssue s.curT srcs) d' r sb := by
  unfold oneRow tileRows
  exact repeated_ok h hr fun rep => (hb rep).trans (tileIssue_ok hf)

/-- A word over two rows. -/
theorem tile2_ok {s : State} {st : BitVec 2} {d a b d' a' b' : BitVec 7} {lat : Nat}
    {f : Thread → RowData → RowData → RowData × FFlags} (h : IssuesE s) (hr : rowFields s.curT d a b = some (d', a', b')) :
    tile2 s st d a b lat f = oneRow s st.toNat lat (atIssue s.curT [s.curT.phys a', s.curT.phys b']) d'
      (f (atIssue s.curT [s.curT.phys a', s.curT.phys b'])
        ((atIssue s.curT [s.curT.phys a', s.curT.phys b']).data a')
        ((atIssue s.curT [s.curT.phys a', s.curT.phys b']).data b')) none := by
  unfold tile2
  exact repeated_oneRow h.1.1 hr (fun _ => rfl) rfl

/-- A word over one row. -/
theorem tile1_ok {s : State} {st : BitVec 2} {d a d' a' b' : BitVec 7} {lat : Nat} {r : RowData × FFlags}
    {f : Thread → RowData → X (RowData × FFlags)} (h : IssuesE s) (hr : rowFields s.curT d a 0 = some (d', a', b'))
    (hf : f (atIssue s.curT [s.curT.phys a']) ((atIssue s.curT [s.curT.phys a']).data a') = .ok r) :
    tile1 s st d a lat f = oneRow s st.toNat lat (atIssue s.curT [s.curT.phys a']) d' r none := by
  unfold tile1
  refine repeated_oneRow h.1.1 hr (fun _ => rfl) ?_
  simp only [hf]

end Sys2Proof
end

