-- ==== Sys2Proof/Tests/Slice0.lean ====
section
/-! SUPPORT. The author's tests: ill-formed terms each check refuses, words of the spec's encodings, small steps whose results
the spec's rules give, and for each statement with hypotheses states and operands that meet them. -/

namespace Sys2Proof.Tests

open Sys2Proof Sys2Proof.Machine

set_option Elab.async false -- the kernel evaluates one test at a time

/-! ### Small states -/

/-- Slot 0 of core 0 runs a thread of context 1, its A-stream next. -/
def tA (t : Thread := {}) : State := { threads := [(0, { t with live := true, ctx := 1 })] }

/-- The same, its E-stream next. -/
def tE (t : Thread := {}) : State := { tA t with cur := ⟨0, 0, .e⟩ }

/-- A thread with A-stream registers 1, 2 and 3. -/
def regA (x y z : W64) : Thread := { a := (((Vector.replicate 32 0).set 1 x).set 2 y).set 3 z }

/-- A thread with E-stream registers 1, 2 and 3. -/
def regE (x y z : W64) : Thread := { e := (((Vector.replicate 32 0).set 1 x).set 2 y).set 3 z }

/-- Words in the memory of core 0's scratchpad. -/
def words (xs : List Nat) : Mem := (xs.zipIdx.foldl (fun (m : Mem) x => m.writeLE (4 * x.2) 4 x.1) [])

/-- What holds of the next state. -/
def ran (o : Host.Outcome State Fault Refusal) (p : State → Bool) : Bool := match o with | .next t => p t | _ => false

/-- A command's work that succeeds. -/
def okE {α : Type} (m : Eng α) (s : State) : Bool := match m s with | (.ok _, _) => true | _ => false

/-- An access that succeeds, with what holds of it. -/
def okX {α : Type} (x : X α) (p : α → Bool := fun _ => true) : Bool := match x with | .ok a => p a | .error _ => false

/-- An address of package 0's device memory that `mapped` maps, and words there. -/
def far (off : Nat) : W64 := BitVec.ofNat 64 (0x400000 + off)
def farMem (xs : List (Nat × Nat × Nat)) : Mem := xs.foldl (fun (m : Mem) x => m.writeLE (0x400000 + x.1) x.2.1 x.2.2) []

/-- Words of device memory written over those of a state. -/
def withMem (s : State) (xs : List (Nat × Nat × Nat)) : State :=
  { s with dev := xs.foldl (fun (m : Mem) x => m.writeLE (0x400000 + x.1) x.2.1 x.2.2) s.dev }

/-- Every slice and port of both dies opened to every unit for context 1, and every engine's queue of core 0 to the commands of
contexts 1 and 2: keys of `targetKey` and `engineTarget`. -/
def openAll : Tab W64 := ((List.range 192).map fun p => (524288 * (p + 32 * (p / 96)) + 1, 0x3FFF3FFF3FFF))
  ++ (List.range 24).map fun e => (4096 * engineTarget (e / 2) 0 + 1 + e % 2, 0x3FFF3FFF3FFF)

/-- Context 1 exists with every grant, low device memory is mapped to itself and at 2 GiB for it by leaves of 1 GiB. -/
def mapped (s : State) : State :=
  { s with
    ctxtab := 0x10000
    access := openAll
    dev := [(0x10000 + 64, 0xFC), (0x10000 + 72, 0x20000), (0x20000, 0x8000000000030000), (0x30000, 0xA000000000000083),
      (0x30010, 0xA000000000000083)].foldl (fun m x => m.writeLE x.1 8 x.2) s.dev }

/-- The second GiB mapped to host memory beside it. -/
def hosted (s : State) : State :=
  let s := mapped s
  { s with
    access := (4096 * targetKey 3 0 0 0 + 1, 0x3FFF3FFF3FFF) :: s.access
    dev := s.dev.writeLE 0x30008 8 0xA800000040000093 }

/-- A command of slot 0 of core 0, with its code. -/
def cmd (op : Nat) (w0 : Nat) (ws : List W64) : Cmd :=
  { words := BitVec.ofNat 64 (op * 2 ^ 58 + w0) :: ws, core := 0, slot := 0, disp := 0, hand := false, ctx := 1, scope := 0 }

/-- A stream that runs a command, and one whose head it is. -/
def running (s : State) (eng : Nat) (c : Cmd) : State := (mapped s).setEstream eng 0 { run := some c }
def heading (s : State) (eng : Nat) (c : Cmd) : State := (mapped s).setEstream eng 0 { queue := [c] }

/-- Device address 0x400000 mapped for context 1 by a leaf in cluster 0's cache, its port open to every unit. -/
def onDev (s : State) : State :=
  { s with tlb := [(0, [⟨1, 0x400000, 4, 0xA000000000400083⟩])], access := [(4096 * targetKey 0 0 64 0 + 1, 0x3FFF3FFF3FFF)] }

/-- Context 1 exists with every grant. -/
def granted (s : State) : State := { s with ctxtab := 0x10000, dev := s.dev.writeLE (0x10000 + 64) 8 0xFC }

/-! ### Ill-formed terms -/

/-- 03 R65-R67: each field check of `Instr.fieldsOk` refuses a term, and admits the value beside it. -/
theorem test_fieldsRefused :
    ([Instr.cmp 0 1 2 6, .cmpi 64 1 7 0, .sta 0 1 0 1 0, .staRow 0 1 3 0, .atom 1 2 3 10 0 0 0, .atom 1 2 3 1 1 0 0,
      .atomnr 1 2 11 0 0 0, .atomnr 1 2 1 1 0 0, .atomnr 1 2 0 0 0 1, .cas 1 2 31 0 0 0, .fence 4 0, .push 12 0 0 0, .push 0 31 1 0,
      .popr 13 0 0 0, .popr 0 28 7 0, .waitid 0 0 1, .waitid 3 0 1, .resize 5, .barrier 6, .wakewait 31, .fcvt 6 0 0 0 0 0,
      .fcvt 0 0 0 0 0 3, .bcast 0 0 0 3, .lshift 0 0 0 0 3, .lrot 0 0 0 0 3, .rowset 0 0 0 0 2, .twid 0 0 0 0 2,
      .rngrow 0 0 31].all fun i => !i.fieldsOk && !i.WellFormed) = true := by decide

theorem test_fieldsAdmitted :
    ([Instr.cmp 0 1 2 5, .cmpi 64 1 5 0, .sta 1 1 0 1 0, .staRow 0 1 0 0, .atom 1 2 3 9 1 0 0, .atom 1 2 3 1 0 0 0,
      .atomnr 1 2 9 0 0 2, .cas 1 2 30 0 0 0, .fence 2 0, .push 11 31 0 0, .popr 11 24 7 0, .waitid 1 0 1, .waitid 2 3 31, .resize 4,
      .barrier 5, .wakewait 30, .fcvt 5 0 0 0 0 2, .bcast 0 0 0 2, .lshift 0 0 0 0 2, .rowset 0 0 0 0 1, .twid 0 0 0 0 1,
      .rngrow 0 0 30].all fun i => i.WellFormed) = true := by decide

/-- 03 R67 order 5: scopes above 10. -/
theorem test_scopesRefused :
    ([Instr.lda 1 2 0 11 0, .str 1 2 0 15 0, .sta 1 1 0 12 0, .staRow 1 1 11 0, .atom 1 2 3 0 0 11 0, .atomnr 1 2 0 0 13 0,
      .cas 1 2 3 0 14 0, .fence 0 11, .push 1 0 0 11, .popr 1 0 0 15, .semw 1 2 11, .semp 1 2 12,
      .barrier 11].all fun i => !i.scopeOk && !i.WellFormed) = true := by decide

/-- 03 R67 orders 2 and 4: words in the stream that may not issue them. -/
theorem test_halvesRefused :
    ([(Stream.a, Instr.rotclr), (.a, .loopE 1 1 0), (.e, .fqpop 1), (.e, .loopA 1 0), (.e, .bqpush 64), (.a, .bqpush 64), (.a, .ifp 64 0),
      (.e, .cmp 63 1 2 0), (.e, .cmpi 0 1 0 0), (.a, .br 64 0 0), (.e, .selp 1 2 3 63), (.a, .pand 64 0 0), (.e, .por 64 63 64),
      (.e, .pnot 63 64), (.a, .pset 127), (.e, .pclr 0)].all fun x => !x.2.halvesOk x.1 && !x.2.issuesIn x.1) = true := by decide

/-- 01 R15: units past the package's own. -/
theorem test_unitsRefused :
    ([Instr.tileResultLand 256 0 0, .storePerform 0 16 0, .resultElementPlace 12 0, .ckick 0 3, .copy 0 1 4, .mmul 256, .frameTick 2,
      .scoreboardRebuild 0 64 0 false, .tdesc 258, .treeReclaim 0 16, .hopIssue 32 0, .hopReadDone 32 0 true, .mergeDone 64 true,
      .portRead 192 0 0 0, .bankActivate 0 16, .flitReceive 178 false, .laneFail 160 0, .fabricLaneFail 18 0, .routeFail 64 0,
      .withdrawNotice 256, .islandThermal 40 0, .domainBringUp 64 0 []].all fun i => !i.unitOk && !i.WellFormed) = true := by decide

/-! ### Words -/

/-- The words of 03 R61-R66, field by field. -/
theorem test_decodeCommon :
    decode .e 0x00000000 = .ok (.nop) ∧ decode .e 0x00200000 = .ok (.rotclr) ∧ decode .a 0x00454000 = .ok (.bqpush 21) ∧
    decode .a 0x00601E00 = .ok (.fqpop 15) ∧ decode .e 0x06840000 = .ok (.ifp 80 1) ∧
    decode .e 0x0A412200 = .ok (.rep 144 4 8 8) := by decide

/-- The words of 03 R61-R66, field by field. -/
theorem test_decodeRegisterAlu :
    decode .e 0x12CD4000 = .ok (.add 22 13 8) ∧ decode .e 0x12D32801 = .ok (.sub 22 19 5) ∧
    decode .e 0x13989802 = .ok (.mul 28 24 19) ∧ decode .e 0x11326803 = .ok (.mulh 9 18 13) ∧
    decode .e 0x1035A004 = .ok (.mulhu 1 21 20) ∧ decode .e 0x11EA2805 = .ok (.div 15 10 5) ∧
    decode .e 0x11FCD006 = .ok (.divu 15 28 26) ∧ decode .e 0x12AF6807 = .ok (.rem 21 15 13) ∧
    decode .e 0x13BFF808 = .ok (.remu 29 31 31) ∧ decode .e 0x103F1809 = .ok (.and 1 31 3) ∧
    decode .e 0x11B2580A = .ok (.or 13 18 11) ∧ decode .e 0x1323E80B = .ok (.xor 25 3 29) ∧
    decode .e 0x11DF700C = .ok (.andn 14 31 14) ∧ decode .e 0x13D3900D = .ok (.orn 30 19 18) ∧
    decode .e 0x1331400E = .ok (.shl 25 17 8) ∧ decode .e 0x1192880F = .ok (.shr 12 18 17) ∧
    decode .e 0x12EA1810 = .ok (.sar 23 10 3) ∧ decode .e 0x136D3811 = .ok (.min 27 13 7) ∧
    decode .e 0x132BA812 = .ok (.max 25 11 21) ∧ decode .e 0x103FE813 = .ok (.minu 1 31 29) ∧
    decode .e 0x13B21014 = .ok (.maxu 29 18 2) ∧ decode .e 0x118F0015 = .ok (.clz 12 15) ∧
    decode .e 0x12CE0016 = .ok (.ctz 22 14) ∧ decode .e 0x12B80017 = .ok (.popc 21 24) ∧
    decode .e 0x116F0018 = .ok (.bswap 11 15) := by decide

/-- The words of 03 R61-R66, field by field. -/
theorem test_decodeImmediate :
    decode .e 0x1684618B = .ok (.addi 20 4 24971) ∧ decode .e 0x1A25505E = .ok (.andi 17 5 20574) ∧
    decode .e 0x1E7F98C3 = .ok (.ori 19 31 39107) ∧ decode .e 0x227F2E06 = .ok (.xori 19 31 11782) ∧
    decode .e 0x256F002A = .ok (.shli 11 15 42) ∧ decode .e 0x2659401E = .ok (.shri 18 25 30) ∧
    decode .e 0x262E8009 = .ok (.sari 17 14 9) ∧ decode .e 0x29601030 = .ok (.movhi 11 4144) ∧
    decode .e 0x2D0202A3 = .ok (.movk 8 2 675) := by decide

/-- The words of 03 R61-R66, field by field. -/
theorem test_decodePredicate :
    decode .e 0x3230D405 = .ok (.cmp 70 3 10 5) ∧ decode .e 0x36075C12 = .ok (.cmpi 64 29 3 1042) ∧
    decode .e 0x3A341B40 = .ok (.pand 70 65 90) ∧ decode .e 0x3A254B01 = .ok (.por 68 84 88) ∧
    decode .e 0x3A4E4942 = .ok (.pxor 73 100 74) ∧ decode .e 0x3AE45C03 = .ok (.pandn 92 69 96) ∧
    decode .e 0x3B259D64 = .ok (.porn 100 89 107) ∧ decode .e 0x3B15DB65 = .ok (.pnand 98 93 91) ∧
    decode .e 0x3ABD6E46 = .ok (.pnor 87 86 114) ∧ decode .e 0x3B765D47 = .ok (.pxnor 110 101 106) ∧
    decode .e 0x3AFDD008 = .ok (.pnot 95 93) ∧ decode .e 0x3B800009 = .ok (.pset 112) ∧ decode .e 0x3A40000A = .ok (.pclr 72) ∧
    decode .e 0x3FF5ADD0 = .ok (.selp 31 21 21 93) := by decide

/-- The words of 03 R61-R66, field by field. -/
theorem test_decodeControl :
    decode .e 0x438D2AB0 = .ok (.br 113 1 76464) ∧ decode .e 0x4413FB94 = .ok (.jmp 1309588) ∧
    decode .e 0x4835D40D = .ok (.call 3527693) ∧ decode .e 0x4C100000 = .ok (.jr 16) ∧ decode .e 0x4C000001 = .ok (.ret) ∧
    decode .e 0x4C1D0002 = .ok (.callr 29) ∧ decode .a 0x5361E131 = .ok (.loopA 27 123185) ∧
    decode .e 0x5158129C = .ok (.loopE 10 3 4764) := by decide

/-- The words of 03 R61-R66, field by field. -/
theorem test_decodeMemory :
    decode .a 0x633DEB04 = .ok (.ld 25 29 3 11012) ∧ decode .a 0x67F55BE3 = .ok (.lda 31 21 1 6 995) ∧
    decode .a 0x6BB1DBFE = .ok (.st 29 17 3 7166) ∧ decode .a 0x6C5AD351 = .ok (.str 2 26 3 4 849) ∧
    decode .a 0x711DC973 = .ok (.sta 1 29 3 2 371) ∧ decode .a 0x7316DA36 = .ok (.staRow 1 22 6 566) ∧
    decode .a 0x77FC2800 = .ok (.ldq 7 31 1 8) := by decide

/-- The words of 03 R61-R66, field by field. -/
theorem test_decodeAtomicAndEngine :
    decode .a 0x78F944C7 = .ok (.atom 7 25 8 9 1 1 3) ∧ decode .a 0x7C169C52 = .ok (.atomnr 22 19 8 1 4 2) ∧
    decode .a 0x82E4F04E = .ok (.cas 23 4 30 1 3 2) ∧ decode .a 0x84900000 = .ok (.fence 2 4) ∧
    decode .a 0x84C00000 = .ok (.fenceAtomics) ∧ decode .a 0x8979D200 = .ok (.push 11 25 6 9) ∧
    decode .a 0x8CE98400 = .ok (.popr 7 9 4 2) ∧ decode .a 0x90570000 = .ok (.waitid 2 2 28) ∧
    decode .a 0x9550B800 = .ok (.semw 21 1 7) ∧ decode .a 0x97563000 = .ok (.semp 21 12 6) ∧
    decode .a 0x98F70000 = .ok (.send 15 14) ∧ decode .a 0x9B4C0000 = .ok (.recv 20 24) ∧
    decode .a 0x9E000000 = .ok (.resize 4) := by decide

/-- The words of 03 R61-R66, field by field. -/
theorem test_decodeQueueAndSystem :
    decode .e 0xB1CA8000 = .ok (.movqRow 7 21) ∧ decode .e 0xB2C01400 = .ok (.movqScalar 3 5) ∧
    decode .e 0xB4024000 = .ok (.putsScalar 18) ∧ decode .e 0xB7D00000 = .ok (.putsRow 116) ∧
    decode .e 0xB803E58B = .ok (.brq 255371) ∧ decode .e 0xB9002F59 = .ok (.brqn 12121) ∧ decode .e 0xBAB00000 = .ok (.fqp 22) ∧
    decode .e 0xBC0009B7 = .ok (.trap 2487) ∧ decode .e 0xBC400000 = .ok (.eret) ∧ decode .e 0xBCA204DF = .ok (.mfc 17 1247) ∧
    decode .e 0xBCC1596C = .ok (.mtc 21 2412) ∧ decode .e 0xBD300000 = .ok (.time 24) ∧
    decode .e 0xBD411000 = .ok (.wakewait 17) ∧ decode .e 0xBD800009 = .ok (.barrier 9) ∧
    decode .e 0xBDC00000 = .ok (.halt) := by decide

/-- The words of 03 R61-R66, field by field. -/
theorem test_decodeFloat :
    decode .e 0xC0232EFE = .ok (.fadd 1 12 93 126) ∧ decode .e 0xC0BDCBDD = .ok (.fsub 1 119 23 93) ∧
    decode .e 0xC1747312 = .ok (.fmul 3 81 102 18) ∧ decode .e 0xC1D5EB38 = .ok (.fma 2 87 86 56) ∧
    decode .e 0xC241592D = .ok (.fmin 2 5 50 45) ∧ decode .e 0xC2A5C38B = .ok (.fmax 1 23 7 11) ∧
    decode .e 0xC36250AF = .ok (.fdiv 3 9 33 47) ∧ decode .e 0xC4658580 = .ok (.fexp2 3 22 11) ∧
    decode .e 0xC4F0DD80 = .ok (.flog2 3 67 59) ∧ decode .e 0xC57DFC80 = .ok (.frcp 3 119 121) ∧
    decode .e 0xC5F0CA80 = .ok (.frsq 3 67 21) ∧ decode .e 0xC65F3380 = .ok (.fsqrt 2 124 103) ∧
    decode .e 0xC6EDA800 = .ok (.fabs 3 54 80) ∧ decode .e 0xC7232A00 = .ok (.fneg 1 12 84) ∧
    decode .e 0xC7FFEF00 = .ok (.fclass 3 127 94) ∧ decode .e 0xCAB3256E = .ok (.fcvt 5 1 76 74 27 2) := by decide

/-- The words of 03 R61-R66, field by field. -/
theorem test_decodeInteger :
    decode .e 0xCC2B1D3C = .ok (.iadd 1 44 58 60) ∧ decode .e 0xCCE1EDC0 = .ok (.isub 3 7 91 64) ∧
    decode .e 0xCD56BC61 = .ok (.imul 2 90 120 97) ∧ decode .e 0xCDD80F3C = .ok (.imin 2 96 30 60) ∧
    decode .e 0xCE25CCAD = .ok (.imax 1 23 25 45) ∧ decode .e 0xCECE7A50 = .ok (.iand 2 57 116 80) ∧
    decode .e 0xCF70FEFF = .ok (.ior 3 67 125 127) ∧ decode .e 0xCFDC5F5A = .ok (.ixor 2 113 62 90) ∧
    decode .e 0xD06F8268 = .ok (.ishl 3 62 4 26) ∧ decode .e 0xD0FA2D70 = .ok (.ishr 3 104 90 28) ∧
    decode .e 0xD17A46EC = .ok (.isar 3 105 13 27) ∧ decode .e 0xD1DF4026 = .ok (.bcast 2 125 9 2) ∧
    decode .e 0xD262D169 = .ok (.rowset 3 11 34 26 1) := by decide

/-- The words of 03 R61-R66, field by field. -/
theorem test_decodeCompareAndReduce :
    decode .e 0xD479C90C = .ok (.fcmpeq 3 103 18 12) ∧ decode .e 0xD4F4652A = .ok (.fcmplt 3 81 74 42) ∧
    decode .e 0xD55D8361 = .ok (.fcmple 2 118 6 97) ∧ decode .e 0xD5D0A0FD = .ok (.fcmpun 2 66 65 125) ∧
    decode .e 0xD6785C09 = .ok (.icmpeq 3 97 56 9) ∧ decode .e 0xD6EFB3D3 = .ok (.icmplt 3 62 103 83) ∧
    decode .e 0xD7218565 = .ok (.icmpltu 1 6 10 101) ∧ decode .e 0xD8694E80 = .ok (.rsum 3 37 29) ∧
    decode .e 0xD8E26380 = .ok (.rsumsq 3 9 71) ∧ decode .e 0xD974D400 = .ok (.rmax 3 83 40) ∧
    decode .e 0xD9F04380 = .ok (.rmin 3 65 7) ∧ decode .e 0xDA60C580 = .ok (.rargmax 3 3 11) ∧
    decode .e 0xDAFA9A80 = .ok (.rargmin 3 106 53) := by decide

/-- The words of 03 R61-R66, field by field. -/
theorem test_decodeMove :
    decode .e 0xDC698319 = .ok (.perm 3 38 6 25) ∧ decode .e 0xDCBA421D = .ok (.sel 1 105 4 29) ∧
    decode .e 0xDD521FAE = .ok (.lshift 2 72 63 11 2) ∧ decode .e 0xDDF42A41 = .ok (.lrot 3 80 84 16 1) ∧
    decode .e 0xE0734FD7 = .ok (.bfly 3 77 31 87) ∧ decode .e 0xE0F2DE39 = .ok (.twid 3 75 60 14 1) ∧
    decode .e 0xE165433F = .ok (.cmul 3 21 6 63) ∧ decode .e 0xE1EE0D00 = .ok (.conj 3 56 26) ∧
    decode .e 0xE4600BFF = .ok (.rowget 3 23 31 3) ∧ decode .e 0xE4CABC40 = .ok (.rowput 2 42 120 16) ∧
    decode .e 0xE56D7680 = .ok (.rowmov 3 53 109) ∧ decode .e 0xE5BFC000 = .ok (.rowzero 1 127) ∧
    decode .e 0xE67B0078 = .ok (.rngrow 3 108 30) ∧ decode .e 0xE6FAB13E = .ok (.sortk 3 106 98 62) ∧
    decode .e 0xE83C0000 = .ok (.tmirror 1 7) ∧ decode .e 0xE8A80000 = .ok (.trot 1 2) := by decide

/-! ### States and operands that meet the statements' hypotheses -/

theorem test_witness_DecodeOfEncode :
    (Instr.staRow 1 31 10 0x3FF).issuesIn .a = true ∧ (Instr.staRow 1 31 10 0x3FF).fieldsOk = true ∧
    (Instr.staRow 1 31 10 0x3FF).scopeOk = true ∧ (Instr.nop).issuesIn .e = true ∧ (Instr.trot 3 7).issuesIn .e = true := by decide

theorem test_witness_DecodedWordIsEncoded : decode .e 0xC0302813 = .ok (.fadd 1 64 80 19) := by decide

/-- 03 R64: the first and last majors of each kind. -/
theorem test_witness_WordsOfTheSpec :
    ([0x03, 0x15, 0x17, 0x28, 0x2B, 0x3B, 0x3F].all fun m => majorUse (majorOf (BitVec.ofNat 32 (m * 2 ^ 26))) == .reserved) = true ∧
    ([0x18, 0x27].all fun m => majorUse (majorOf (BitVec.ofNat 32 (m * 2 ^ 26))) == .aOnly) = true ∧
    ([0x2C, 0x3A].all fun m => majorUse (majorOf (BitVec.ofNat 32 (m * 2 ^ 26))) == .eOnly) = true := by decide

/-- ADD a1, a2, a3 (03 R65) at address 0, and the turn of the A-stream. -/
theorem test_witness_StepRunsDecodedInstruction :
    let s : State := { tA (regA 0 5 7) with spad := words [0x10221800] }
    mayIssue s = true ∧ okX (curWord s) (fun x => decide (decode .a x.2 = .ok (.add 1 2 3))) = true ∧
    ran (step { s with sched := [⟨3, .issue 0 0 .a⟩] }) (fun t => t.curT.rd .a 1 == 12 && t.time == 3 && t.curT.apc == 4) = true := by
  decide

/-- A word of a reserved major, one of the other stream; an IFP that fails R67's order 4 before a reserved word, its predicate
taken and not; the reserved word under a sound IFP, the same; a REP with a spare bit before a word of the other stream; a step's row. -/
theorem test_witness_StepOtherTurns :
    let s : State := { tA with spad := words [0xFC000000] }
    let e := fun (ws : List Nat) => ({ tE with spad := words ws } : State)
    let first := fun (ws : List Nat) => step { e ws with sched := [⟨0, .issue 0 0 .e⟩] }
    let both := fun (ws : List Nat) => match first ws with
      | .next t => step { t with sched := [⟨0, .issue 0 0 .e⟩] }
      | o => o
    let fails := fun (o : Host.Outcome State Fault Refusal) (c : Code) => ran o fun t => t.curT.failed == some c
    (majorOf 0x04040000 = 1 ∧ decode .e 0x04040000 = .error ⟨4, fltWrongStream⟩ ∧ tE.curT.pred (fld 0x04040000 19 7) ≠ (fld 0x04040000 18 1 == 1) ∧
      okX (nextWord (e [0x04040000, 0xFC000000])) (fun x => decide (decode .e x.2 = .error ⟨1, fltIllegal⟩)) = true ∧
      fails (first [0x04040000, 0xFC000000]) fltIllegal = true) ∧
    (decode .e 0x04000000 = .error ⟨4, fltWrongStream⟩ ∧ tE.curT.pred (fld 0x04000000 19 7) = (fld 0x04000000 18 1 == 1) ∧
      fails (first [0x04000000, 0xFC000000]) fltWrongStream = true) ∧
    fails (both [0x06040000, 0xFC000000]) fltIllegal = true ∧
    ran (both [0x06000000, 0xFC000000, 0]) (fun t => t.curT.failed == none && t.curT.epc == 12) = true ∧
    (decode .e 0x083C4401 = .error ⟨3, fltIllegal⟩ ∧ decode .e 0x60000000 = .error ⟨2, fltWrongStream⟩ ∧
      fails (first [0x083C4401, 0x60000000]) fltWrongStream = true ∧ fails (first [0x083C4401, 0xC0302813]) fltIllegal = true) ∧
    ran (step { s with sched := [⟨0, .barRead 0x10⟩] }) (fun t => t.answer.map Prod.fst == some 0) = true ∧
    ran (step { s with sched := [⟨0, .barPoke 0 0x1234⟩] }) (fun t => t.reqbase == 0x1000) = true ∧
    ran (step { s with sched := [⟨0, .hostReset⟩] }) (fun t => t.threads == []) = true ∧
    mayIssue s = true ∧
    okX (curWord s) (fun x => decide (decode .a x.2 = .error ⟨1, fltIllegal⟩) && majorOf x.2 != 2) = true ∧
    ran (step { s with sched := [⟨0, .issue 0 0 .a⟩] }) (fun t => t.curT.failed == some fltIllegal) = true ∧
    acts .shutterTrap = true ∧ (Instr.shutterTrap).WellFormed = true ∧ acts (.add 1 2 3) = false ∧ acts (.matFlush 0) = false := by
  decide

theorem test_witness_StepKeepsMemories :
    MemoriesOk (State.reset.withFetchWord 32 0) ∧ ran (step (State.reset.withFetchWord 32 0)) (fun _ => true) = true := by
  unfold MemoriesOk; decide

theorem test_witness_RegisterAluResults : mayIssue tA = true ∧ mayIssue tE = true := by decide

/-- Division by zero, the corner, and plain operands. -/
theorem test_witness_DivisionNeverFaults :
    mayIssue (tA (regA 0 5 0)) = true ∧ (tA (regA 0 5 0)).curT.rd .a 3 = 0 ∧
    (tE (regE 0 (BitVec.intMin 64) (-1))).curT.rd .e 2 = BitVec.intMin 64 ∧ (tE (regE 0 (BitVec.intMin 64) (-1))).curT.rd .e 3 = -1 ∧
    (tA (regA 0 (-7) 2)).curT.rd .a 3 ≠ 0 ∧
    ran (exec (.div 1 2 3) (tA (regA 0 (-7) 2))) (fun t => t.curT.rd .a 1 == -3) = true ∧
    ran (exec (.rem 1 2 3) (tA (regA 0 (-7) 2))) (fun t => t.curT.rd .a 1 == -1) = true ∧
    ran (exec (.divu 1 2 3) (tA (regA 0 5 0))) (fun t => t.curT.rd .a 1 == -1) = true := by decide

theorem test_witness_ImmediateResults :
    mayIssue tE = true ∧ ran (exec (.addi 1 1 0x8000) tE) (fun t => t.curT.rd .e 1 == -32768) = true ∧
    ran (exec (.sari 1 2 63) (tA (regA 0 (BitVec.intMin 64) 0))) (fun t => t.curT.rd .a 1 == -1) = true := by decide

/-- 05 R131: bits 63-32 of MOVHI copy bit 31; MOVK's lane 3. -/
theorem test_witness_MoveImmediateResults :
    mayIssue tA = true ∧ ran (exec (.movhi 1 0x8000) tA) (fun t => t.curT.rd .a 1 == 0xFFFFFFFF80000000) = true ∧
    ran (exec (.movk 1 3 0xABCD) (tA (regA 7 0 0))) (fun t => t.curT.rd .a 1 == 0xABCD000000000007) = true := by decide

theorem test_witness_PredicateResults :
    mayIssue tE = true ∧ ran (exec (.cmpi 70 1 2 0x7FF) (tE (regE (-2) 0 0))) (fun t => t.curT.pred 70) = true ∧
    ran (exec (.cmp 64 1 2 4) (tE (regE 1 0 0))) (fun t => !t.curT.pred 64) = true := by decide

/-- Targets that are multiples of 4 and one that is not. -/
theorem test_witness_BranchResults :
    mayIssue (tA (regA 8 6 0)) = true ∧ ((tA (regA 8 6 0)).curT.rd .a 1).toNat % 4 = 0 ∧ ((tA (regA 8 6 0)).curT.rd .a 2).toNat % 4 ≠ 0 ∧
    ((tA { a := (Vector.replicate 32 0).set 31 2 }).curT.rd .a 31).toNat % 4 ≠ 0 ∧ tA.cur.st = .a ∧ tE.cur.st = .e ∧
    ran (exec (.br 0 1 0x3FFFF) (tA { apc := 8 })) (fun t => t.curT.apc == 4) = true ∧
    ran (exec (.loopE 1 3 (-2)) (tE { regE 2 0 0 with epc := 16, rotbase := 2 }))
      (fun t => t.curT.epc == 8 && t.curT.rd .e 1 == 1 && t.curT.rotbase == 1) = true := by decide

theorem test_witness_ScalarWordFrames :
    ran (exec (.selp 1 2 3 64) (tE (regE 0 5 7))) (fun t => t.curT.rd .e 1 == 7 && t.curT.rd .e 2 == 5) = true ∧
    ran (exec (.pnot 64 65) tE) (fun t => t.curT.pred 64 && !t.curT.pred 65) = true := by decide

/-- The word after IFP: another IFP, a REP, and an ADD; a REP before an FADD, its index within the count. -/
theorem test_witness_PrefixResults :
    let next := fun (w : Nat) => okX (nextWord { tE with spad := words [0, w] }) (fun x => x.2.toNat == w)
    (Issues tE .e ∧ Issues tA .a) ∧ next 0x04000000 = true ∧ majorOf 0x04000000 = 1 ∧ next 0x083C4400 = true ∧ majorOf 0x083C4400 = 2 ∧
    next 0x10221800 = true ∧ tE.curT.repActive .e = false ∧ (tE { repidx := 0x8002 }).curT.repActive .e = true ∧
    decode .e 0xC0302813 = .ok (.fadd 1 64 80 19) ∧ repSteps (.fadd 1 64 80 19) = some (true, true, true) ∧
    (tE { repidx := 0x8002 }).curT.repIndex ≤ 2 ∧
    ran (exec (.ifp 64 0) { tE with spad := words [0, 0x083C4400] }) (fun t => t.curT.epc == 12) = true := by
  unfold Issues; decide

/-- The first and the last eight bytes of a scratchpad; a queued store that covers a load; a load from package 1. -/
theorem test_witness_LoadResults :
    let t := tA { saq := [.store { ea := 8, size := .b4, data := some 0x1122, pc := 0 }] }
    (Issues tA .a ∧ IssuesStrong tA ∧ OwnSpad tA 0 0 8 .read ∧ OwnSpad tA 0 0x3FFFF8 8 .read ∧ Unhindered tA 0 8) ∧
    forward t.curT.saq 12 4 = .memory ∧ okX (resolve t (curWho t) 12 4 .read) (fun x => wordBehind x.1 0 1 t.curT.saq true x.2) = true ∧
    ran (exec (.ld 5 0 2 3) t) (fun u => u.curT.apc == 0) = true ∧ forward t.curT.saq 6 4 = .wait ∧
    locPoisoned tA (.spad (ownKey 0 0)) 8 = false ∧ forward t.curT.saq 8 2 = .bytes 0x1122 ∧ fencedAll t.curT.saq = false ∧
    okX (resolve t (curWho t) 8 2 .read) = true ∧ forward tA.curT.saq 0x40 8 = .memory ∧
    okX (resolve tA (curWho tA) 0x40 8 .read) (fun x => outside x.2 == none && okX (readAll x.1 0x40 x.2)) = true ∧
    okX (resolve { tA with indom := true } (curWho tA) (2 ^ 51 + 0x400000) 8 .read)
      (fun x => outside x.2 == some (3, 2 ^ 51 + 0x400000) && x.1.curT.out == none) = true := by
  unfold IssuesStrong Issues NoneHeld OwnSpad Unhindered; decide +kernel

theorem test_witness_StoresQueue :
    let q := tA { queues := { sq := [⟨false, 5⟩] } }
    (Issues tA .a ∧ IssuesStrong tA) ∧ storeCount tA.curT.saq < storeDepth tA.curT ∧ (effAddr tA.curT 1 (0 : BitVec 14) 8).toNat % 8 = 0 ∧
    okX (resolve tA (curWho tA) 0 8 .write) (fun x => decide (storeCount x.1.curT.saq < storeDepth x.1.curT) && x.1.curT.queues.sq == [])
      = true ∧
    okX (resolve tA (curWho tA) 0 256 .write) = true ∧ q.curT.queues.sq ≠ [] ∧ awaitingSq q.curT.saq = false ∧
    releaseHeld tA 0 0 2 = false ∧ tA.curT.saq = [] ∧ tA.curT.atomsOut = 0 ∧
    okX (resolve { q with indom := true } (curWho q) (2 ^ 51 + 0x400000) 8 .write)
      (fun x => isRemote x.2 == some (2 ^ 51 + 0x400000) && x.1.curT.out == none && x.1.curT.queues.sq == [⟨false, 5⟩]) = true ∧
    okX (resolve tA (curWho tA) 0 8 .write) (fun x => isRemote x.2 == none) = true ∧
    ran (exec (.str 1 2 3 2 0) { tA (regA 7 (2 ^ 51 + 0x400000) 0) with indom := true })
      (fun t => t.curT.out.map OutReq.kind == some 5 && t.curT.apc == 0) = true := by
  unfold IssuesStrong Issues NoneHeld; decide +kernel

theorem test_witness_MisalignedAccessFaults :
    let s := tA (regA 0 1 0)
    (Issues s .a ∧ IssuesStrong s) ∧ fencedAll s.curT.saq = false ∧ (effAddr s.curT 2 (0 : BitVec 14) 2).toNat % 2 ≠ 0 ∧
    (effAddr s.curT 2 (0 : BitVec 10) 256).toNat % 64 ≠ 0 ∧ (s.curT.rd .a 2).toNat % atomSize 0 ≠ 0 := by
  unfold IssuesStrong Issues NoneHeld; decide

/-- A store ready to be performed at the top of its core's scratchpad; LDQ of one row from scratchpad. -/
theorem test_witness_StoresAndQueueLoadsPerform :
    let e : StoreEnt := { ea := 0x3FFFFC, size := .b4, data := some 0x01020304, rel := some 2, pc := 0 }
    let s := tA { saq := [.store e] }
    let two := tA { saq := [.store { e with ea := 0x3FFFF8 }, .store e] }
    let bad := tA { saq := [.store { e with ea := 0x500000 }] }
    let after := tA { saq := [.store { e with ea := 0x500000, rel := none }, .store { e with ea := 0x500008 }] }
    (OwnSpad s 0 0x3FFFFC 4 .write ∧ Issues tA .a) ∧ storeReady s.curT 0 = true ∧ releaseHeld s 0 0 2 = false ∧ s.shut.phase = 0 ∧
    s.curT.heldUncorr = none ∧ s.curT.handUncorr = none ∧ faultHeld s.curT e.ea = false ∧
    wordBehind s 0 1 (s.curT.saq.take 0) false [(.spad (ownKey 0 e.ea), 4)] = false ∧
    okX (e.now s 0 1) (fun x => isRemote x.2 == none && !wordBehind x.1 0 1 [] false x.2) = true ∧
    okX (e.now two 0 1) (fun x => wordBehind x.1 0 1 (two.curT.saq.take 1) false x.2) = true ∧
    (match StoreEnt.now bad 0 1 { e with ea := 0x500000 } with | .error (.flt c _ _) => c == fltXlate | _ => false) = true ∧
    guardOf bad 0 bad.curT 0 [] = .clear ∧ (tA { cancelled := true }).curT.cancelled = true ∧
    (match guardOf after 0 after.curT 0 (after.curT.saq.take 1) with | .fault c .. => c == fltXlate | _ => false) = true ∧
    ran (exec (.storePerform 0 0 0) s) (fun t => t.spad.readLE 0x3FFFFC 4 == 0x01020304 && t.curT.saq == []) = true ∧
    ran (exec (.storePerform 0 0 0) bad) (fun t => t.curT.pends.any Pend.weak) = true ∧
    fencedAll tA.curT.saq = false ∧ tA.curT.ldqRow = 0 ∧ tA.curT.ldqAt = [] ∧
    okX (ldqCheck tA 1 2 0 1) (fun x => okX (ldqRows 0 1 2 1 (x.1.setCurT { x.1.curT with ldqAt := x.2 }))
      (fun s2 => decide (1 ≤ s2.curT.ldqRow))) = true ∧
    ran (exec (.ldq 0 0 1 2) tA) (fun u => u.curT.queues.q[0].length == 1 && u.curT.apc == 4 && u.curT.ldqAt == []) = true ∧
    (let full := tA { queues := { q := (Vector.replicate 8 []).set 0 (List.replicate 7 {}) } }
     ran (exec (.ldq 0 1 1 2) full) (fun u => u.curT.ldqRow == 1 && u.curT.ldqAt.length == 1 && u.curT.apc == 0) = true) ∧
    tA.curT.queues.q[0].length < rowDepth tA.curT ∧
    okX (resolveNow tA (curWho tA) 0 256 .read) (fun x => x.1.curT == tA.curT && okX (soundAll x.1 x.2) (fun u => u.curT == tA.curT
      && decide (u.cur = tA.cur)
      && !wordBehind u 0 1 [] true x.2 && !placesWait u 0 1 x.2 && okX (readAll u 0 x.2) (fun r => r.1.curT == u.curT))) = true ∧
    forward tA.curT.saq 0 256 = .memory := by
  unfold OwnSpad Issues
  repeat' apply And.intro
  all_goals decide +kernel

/-- A word of scratchpad for the atomics, and one of device memory with its page in the cache and its port's access granted. -/
theorem test_witness_AtomicsAndFencesResults :
    (IssuesStrong tA ∧ OwnSpad tA 0 0x100 8 .write) ∧ locPoisoned tA (.spad (ownKey 0 0x100)) 8 = false ∧
    wordBehind tA 0 1 tA.curT.saq false [(.spad (ownKey 0 0x100), 8)] = false ∧ tA.curT.saq.any (SaOp.touches 0x100 8) = false ∧ fencedStores tA.curT.saq = false ∧ tA.curT.saq = [] ∧ tA.curT.atomsOut = 0 ∧
    releaseHeld tA 0 0 2 = false ∧ atomicBad tA 0x400000 8 = false ∧ atomicBad { tA with poison := [0x10000] } 0x400000 8 = true ∧
    okX (resolve (onDev tA) (curWho tA) 0x400000 8 .write) (fun x => match x.2 with
      | [(.dev pa _, n)] => pa == 0x400000 && n == 8 && !atomicBad (settleLine x.1 (lineOf pa)) pa n && portOf x.1 pa == some (64, 43520)
          && x.1.curT.saq == [] && decide (x.1.cur = tA.cur) && !(x.1.port 64).retired
          && (({ x.1 with ports := [(64, { retired := true })] } : State).port 64).retired
      | _ => false) = true ∧
    ran (exec (.atomnr 1 2 0 1 0 0) (onDev (tA (regA 0x400000 3 0)))) (fun t => t.curT.atomsOut == 1 && t.dev == []) = true ∧
    ran (exec (.atom 3 1 2 0 1 0 0) (onDev (tA (regA 0x400000 3 0)))) (fun t => t.dev.readLE 0x400000 8 == 3) = true ∧
    ran (exec (.atom 1 0 2 0 1 0 0) { tA (regA 0 3 0) with spad := words [5] })
      (fun t => t.curT.rd .a 1 == 5 && t.spad.readLE 0 8 == 8) = true ∧
    ran (exec (.cas 1 0 2 3 0 0) { tA (regA 0 5 9) with spad := words [5] })
      (fun t => t.curT.rd .a 1 == 5 && t.spad.readLE 0 8 == 9) = true := by
  unfold IssuesStrong Issues NoneHeld OwnSpad; decide

/-- A command queued with its words, an element waiting for its thread, another held for room. -/
theorem test_witness_CommandsAndElements :
    let s := tA (regA 1 2 3)
    let r := { tA with results := [(5, [⟨[7, 8], 0, 0, false⟩])] }
    IssuesStrong s ∧ placesUsed s 0 5 < pushPlaces 5 ∧ s.curT.saq = [] ∧ s.curT.atomsOut = 0 ∧ pushBehind s 0 0 5 s.opSeq = false ∧
    (r.result 0 5).findIdx? (popsElem 0 r.curT) = some 0 ∧
    ran (exec (.push 5 1 2 0) s) (fun t => (t.estream 5 0).queue.map Cmd.words == [[1, 2, 3]]) = true ∧
    ran (exec (.popr 5 4 2 0) r) (fun t => t.curT.rd .a 4 == 7 && t.curT.rd .a 5 == 8 && t.curT.rd .a 6 == 0 && t.result 0 5 == [])
      = true ∧
    ((State.setEstream {} 5 0 { held := some ⟨[1], 0, 0, false⟩ }).estream 5 0).held.isSome = true := by
  unfold IssuesStrong Issues NoneHeld; decide +kernel

/-- 05 R151: a counter equal to the value passes, one below waits; channel numbers as well. -/
theorem test_witness_CountersCompare :
    let s := (tA (regA 0 5 6)).setCore 0 { ctr := (Vector.replicate 32 0).set 4 5 }
    let k := (tA (regA 0 0 1)).setChan 0 1 0 { done := 0 }
    (Issues s .a ∧ IssuesStrong s) ∧ (s.core 0).gate = false ∧ 0 ≤ (ctrOf s 0 4 - 5).toInt ∧ ¬ 0 ≤ (ctrOf s 0 4 - 6).toInt ∧
    ran (exec (.semw 4 2 0) s) (fun t => t.curT.apc == 4) = true ∧ ran (exec (.semw 4 3 0) s) (fun t => t.curT.apc == 0) = true ∧
    ran (exec (.waitid 1 0 2) k) (fun t => t.curT.apc == 4) = true ∧ ran (exec (.waitid 1 0 3) k) (fun t => t.curT.apc == 0) = true ∧
    ran (exec (.semp 4 2 0) s) (fun t => ctrOf t 0 4 == 10) = true := by
  unfold IssuesStrong Issues NoneHeld; decide +kernel

/-- Destinations 255 and 256; a message in flight, delivered, received. -/
theorem test_witness_MessagesMove :
    let s := tA (regA 255 0x40 256)
    let m := ({ src := 3, dst := 0, msg := 9 } : Mail)
    let r := (tA (regA 0 0x40 0)).setCore 0 { mailbox := [m] }
    let u := { s with mails := [m] }
    IssuesStrong s ∧ s.masks.cores.getLsbD 255 = false ∧ (s.core 255).owner = 0 ∧ mailBuffer s 0x40 .read = none ∧
    fencedAll s.curT.saq = false ∧ s.curT.saq.any (SaOp.touches 0x40 64) = false ∧ mailCount s 255 < 8 ∧ locPoisoned s (.spad (ownKey 0 0x40)) 64 = false ∧
    mailBuffer r 0x40 .write = none ∧ fencedAll r.curT.saq = false ∧ u.mails[0]? = some m ∧ (u.core 0).mailbox.length < 8 ∧
    (u.mails.take 0).any (fun x => x.src == m.src && x.dst == m.dst) = false ∧ (r.core 0).gate = false ∧ (255 : Nat) < (s.curT.rd .a 3).toNat ∧
    ran (exec (.recv 4 2) r) (fun t => t.curT.rd .a 4 == 3 && t.spad.readLE 0x40 64 == 9) = true ∧
    ran (exec (.mailboxDeliver 0) u) (fun t => (t.core 0).mailbox == [m] && t.mails == []) = true ∧
    (s.curT.rd .a 1).toNat % 64 ≠ 0 := by
  unfold IssuesStrong Issues NoneHeld; decide +kernel

theorem test_witness_QueuesAndCarve :
    let s := tE { queues := { bq := [true], fq := [7], q := (Vector.replicate 8 []).set 2 [⟨⟨9, 0⟩, false⟩] } }
    let a := { s with cur := ⟨0, 0, .a⟩ }
    let g := granted tA
    let w := g.setCore 0 { ways := 2 }
    (Issues s .e ∧ Issues a .a ∧ IssuesStrong g ∧ IssuesStrong w) ∧ a.curT.queues.bq.length < 32 ∧ tE.curT.queues.bq = [] ∧
    (tA.curT.queues.fq = []) ∧ s.curT.queues.sq.length < sqDepth s.curT ∧ rowFields s.curT 5 0 0 = some (5, 0, 0) ∧
    okX (readGrant g g.curT.ctx 4) (fun x => x.2 && !gated x.1 && enginesQuiet x.1 0) = true ∧ (g.core 0).ways = 0 ∧
    g.curT.saq = [] ∧ g.curT.atomsOut = 0 ∧
    ran (exec (.resize 1) w) (fun t => (t.core 0).ways == 1 && t.freeCtr == 262144 && t.curT.apc == 4) = true ∧
    ran (exec (.resize 4) g) (fun t => (t.core 0).ways == 4 && t.curT.apc == 4) = true ∧
    ran (exec (.resize 2) w) (fun t => (t.core 0).ways == 2 && t.curT.apc == 4) = true ∧
    ran (exec (.brq 5) { s with threads := [(0, { s.curT with epc := 8 })] }) (fun t => t.curT.epc == 28) = true ∧
    ran (exec (.movqScalar 2 3) s) (fun t => t.curT.rd .e 3 == 9) = true ∧
    ran (exec (.fqpop 3) a) (fun t => t.curT.rd .a 3 == 7) = true := by
  unfold IssuesStrong Issues NoneHeld; decide +kernel

/-- A word that has changed and one that has not; a sleeper; HALT's two ways. -/
theorem test_witness_TimeSleepHalt :
    let s := tE (regE (far 0) 5 0)
    let q : State := { onDev (tE (regE 0x400000 5 0)) with dev := [(0x400000, 5)] }
    let z := onDev (tE { asleep := some (0x400000, 4) })
    let h := tE { inh := true, code := 5 }
    let shut : State := { tE { inh := true, traprec := 0x1000 } with swaps := [(0, { phase := 3 })] }
    IssuesRelease tE ∧ Issues s .e ∧ s.curT.inh = false ∧ tE.curT.pends = [] ∧ (failFor h 0 0 { code := 5, stream := 1, async := false, pc := 0 }).isSome = true ∧
    (failFor (shut.setCore 0 { gate := true }) 0 0 { code := 0, stream := 1, async := false, pc := 0 }).isNone = true ∧ (tE { inh := true }).curT.inh = true ∧ q.curT.asleep = none ∧
    okX (watchWord q 0 1 0x400000) (fun x => x.2 == 5) = true ∧ okX (watchWord (onDev tE) 0 1 0x400000) (fun x => x.2 == 0) = true ∧
    ran (exec (.wakewait 1) q) (fun t => t.curT.asleep == some (0x400000, 5) && t.curT.epc == 0) = true ∧
    ran (exec (.wakewait 1) { q with dev := [(0x400000, 6)] }) (fun t => t.curT.rd .e 2 == 6 && t.curT.epc == 4) = true ∧
    ran (exec (.wakewaitWake 0 0) z) (fun t => t.curT.asleep == none) = true ∧
    ran (exec (.time 3) { tE { lastTime := 9 } with time := 7 }) (fun t => t.curT.rd .e 3 == 9) = true ∧
    ran (exec .halt tE) (fun t => t.curT.halted) = true ∧ ran (exec .halt (tE { inh := true, code := 5 })) (fun t => t.curT.failed == some 5)
      = true := by
  unfold IssuesRelease Issues NoneHeld; decide +kernel

/-- A member of core level alone, and one of two. -/
theorem test_witness_BarriersAndLevels :
    let s (n : Nat) : State := { tE { domset := 5 } with bars := [(barKey 1 2 0, { members := n })] }
    let w : State := { tE { domset := 5, arrival := some ⟨2, 0, 0⟩ } with bars := [(barKey 1 2 0, { members := 2, episode := 1 })] }
    (IssuesRelease (s 1) ∧ IssuesRelease w) ∧ (s 1).curT.ecut = none ∧ (s 1).curT.domset.getLsbD 0 = true ∧
    (s 1).curT.domset.getLsbD 2 = true ∧ (s 1).curT.inh = false ∧ (s 1).curT.arrival = none ∧
    (barInst (s 1) (barKey 1 2 0)).allArrivals + 1 = (barInst (s 1) (barKey 1 2 0)).allMembers ∧
    (barInst (s 2) (barKey 1 2 0)).allArrivals + 1 ≠ (barInst (s 2) (barKey 1 2 0)).allMembers ∧ (barInst w (barKey 1 2 0)).episode ≠ 0 ∧
    w.curT.arrival = some ⟨2, 0, 0⟩ ∧ (barInst w (barKey 1 2 0)).hasLost ⟨2, 0, 0⟩ = false ∧
    (BarInst.hasLost { lost := [0] } ⟨2, 0, 0⟩) = true ∧ trapWaits w 0 0 = false ∧
    ran (exec (.barrier 2) (s 1)) (fun t => t.curT.epc == 4 && (barInst t (barKey 1 2 0)).episode == 1) = true ∧
    ran (exec (.barrier 2) (s 2)) (fun t => t.curT.epc == 0 && (barInst t (barKey 1 2 0)).arrivals == 1) = true ∧
    ran (exec (.barrier 2) w) (fun t => t.curT.epc == 4) = true ∧ ran (exec (.barrier 0) (s 1)) (fun t => t.curT.epc == 4) = true ∧
    ran (exec (.mtc 1 5) (tE (regE 0x4 0 0))) (fun t => t.curT.domset == 5 && (barInst t (barKey 1 2 0)).members == 1) = true ∧
    ran (exec (.mtc 1 5) (s 1)) (fun t => t.curT.domset == 1 && (barInst t (barKey 1 2 0)).members == 0) = true := by
  unfold IssuesRelease Issues NoneHeld; decide +kernel

/-- A thread with a handler, its record in scratchpad. -/
theorem test_witness_TrapEntrySaves :
    let s := tE { tvece := 0x80, tveca := 0x40, traprec := 0x1000 }
    let c : Cause := { code := 0x123, stream := 1, async := false, pc := 8, addr := 0x77 }
    okX (writeRecord s 0 0 c) = true ∧ (landAll (s.thread 0 0)).inh = false ∧ (landAll (s.thread 0 0)).tvece ≠ 0 ∧
    s.curT.ctx < 2 ^ 32 ∧ c.eng < 2 ^ 16 ∧ (takeTrap s 0 0 c 4 8).spad.readLE 0x1010 2 = 0x123 ∧
    (takeTrap s 0 0 c 4 8).curT.epc = 0x80 := by decide +kernel

theorem test_witness_TrapsTakenAndReturned :
    let s := tE { tvece := 0x80, tveca := 0x40, traprec := 0x1000, pends := [{ weak := false, code := 0x2001, eng := 5, index := 3, status := 1, addr := 2 }], epc := 4 }
    let h := tE { inh := true, epca := 8, epce := 16, tsavea := 3, tstate := 0x8001_0002 }
    (IssuesE s ∧ Issues s .e ∧ Issues h .e) ∧ s.coreOn 0 = true ∧ trapWaits s 0 0 = false ∧ s.curT.pends.any Pend.weak = false ∧
    s.curT.halted = false ∧ s.curT.out = none ∧
    s.curT.inh = false ∧ h.curT.inh = true ∧ h.curT.saq = [] ∧ h.curT.out = none ∧ h.curT.tstate.getLsbD 32 = false ∧
    ran (exec (.trap 0x23) s) (fun t => t.curT.code == 0x23 && t.curT.epce == 8 && t.curT.epc == 0x80) = true ∧
    ran (exec (.trapEntry 0 0) s) (fun t => t.curT.code == 0x2001 && t.curT.pends == [] && t.spad.readLE 0x1012 2 == 5) = true ∧
    ran (exec .eret h) (fun t => t.curT.apc == 8 && t.curT.epc == 16 && t.curT.rd .a 30 == 3 && t.curT.repidx == 0x8001) = true := by
  unfold IssuesE Issues; decide +kernel

/-- Register numbers at the edges of the clauses: 4, 9, 15, an unassigned one, an engine's control register. -/
theorem test_witness_ControlRegistersReadAndWritten :
    let s := tE (regE 0x66 3 1)
    (Issues s .e ∧ IssuesRelease s) ∧ (ctlReg (landedE s) 0 (landedE s).curT 3).isSome = true ∧
    ctlReg (landedE s) 0 (landedE s).curT 0xFFF = none ∧ ctlReg s 0 s.curT 0xFFF = none ∧ s.curT.inh = false ∧
    (tE { inh := true }).curT.inh = true ∧ (s.core 0).gate = false ∧ (s.curT.rd .e 2).toNat % 8 ≤ 4 ∧
    bitsAt (s.curT.rd .e 1) 8 3 ≤ 5 ∧ bitsAt (0x66#64) 4 4 ∈ [6, 7, 8, 10] ∧ bitsAt (0x61#64) 0 4 ≤ 2 ∧ engineCtl 0x222 = none ∧
    okX (readGrant (landedE (granted tE)) 1 6) (fun x => x.2) = true ∧ okX (readGrant s 1 6) (fun x => !x.2) = true ∧
    ran (exec (.mtc 2 0x250) s) (fun t => t.curT.failed == some fltPriv) = true ∧ s.curT.rd .e 3 &&& 0xFFFFFFFF ≠ 0 ∧ s.curT.ecut = none ∧ rangeInUse s 1 0 65536 none = false ∧
    rangeInUse (s.setThread 0 1 { live := true, ctx := 1, out := some { kind := 0, addr := 0, ea := 64, size := 8 } }) 1 0 65536 none = true ∧
    ran (exec (.mtc 2 0x105) s) (fun t => ctrOf t 0 5 == 3) = true ∧
    ran (exec (.mfc 4 0x105) (s.setCore 0 { ctr := (Vector.replicate 32 0).set 5 7 })) (fun t => t.curT.rd .e 4 == 7) = true ∧
    ran (exec (.mtc 2 4) s) (fun t => t.curT.failed == some fltPriv) = true ∧
    ran (exec (.mtc 2 0x250) (granted s)) (fun t => t.hostMode) = true := by
  unfold IssuesRelease Issues NoneHeld; decide +kernel

theorem test_witness_TileFloatResults :
    IssuesE tE ∧ rowFields tE.curT 1 64 80 = some (1, 64, 80) ∧
    rowFields (tE { egrp := { rep := some ⟨3, 1, -1, 0⟩ }, repidx := 0x8002 }).curT 1 64 80 = some (3, 62, 80) ∧
    rowFields (tE { egrp := { rep := some ⟨3, 1, 0, 0⟩ }, repidx := 0x8002 }).curT 126 0 0 = none ∧ tE.curT.floatFmt = .fp32 := by
  unfold IssuesE Issues; decide +kernel

theorem test_witness_TileLaneResults : IssuesE tE ∧ rowFields tE.curT 127 0 127 = some (127, 0, 127) := by
  unfold IssuesE Issues; decide +kernel

/-- Spans of one field that end at 127 and of two that leave it; a descriptor that passes and one that does not. -/
theorem test_witness_TileReductionsAndConversions :
    IssuesE tE ∧ rowFields tE.curT 1 127 0 = some (1, 127, 0) ∧ (127 : Nat) + tE.curT.span ≤ 128 ∧
    128 < 127 + (tE { tfmt := 0x160 }).curT.span ∧ tE.curT.egrp.rep = none ∧ (cvtOf 0 0 0).isSome = true ∧ cvtOf 0 3 0 = none := by
  unfold IssuesE Issues; decide +kernel

theorem test_witness_TileMoveResults :
    IssuesE tE ∧ rowFields tE.curT 2 1 3 = some (2, 1, 3) ∧ (2#7).toNat % 2 = 0 ∧
    (let c := (tE (regE 0x101 0 0)).curT.rd .e 1
     1 ≤ bitsAt c 0 5 ∧ bitsAt c 0 5 ≤ 24 ∧ bitsAt c 5 3 = 0 ∧ bitsAt c 56 8 = 0) := by
  unfold IssuesE Issues; decide +kernel

/-- A flight that lands, and one whose row another is on its way to. -/
theorem test_witness_TileResultsLandAndFrame :
    let s := tE { flights := [⟨5, ⟨9, 0⟩, 3⟩] }
    (s.thread 0 0).flights[0]? = some ⟨5, ⟨9, 0⟩, 3⟩ ∧ (∀ g ∈ removeAt (s.thread 0 0).flights 0, g.row ≠ 5) ∧ Issues tE .e ∧
    ran (exec (.tileResultLand 0 0 0) s) (fun t => (t.curT.row 5).data == 9 && t.curT.flights == []) = true ∧
    ran (exec (.rowzero 0 5) tE) (fun t => t.curT.inh == tE.curT.inh && t.curT.failed == none) = true := by
  unfold Issues; decide +kernel

/-- A head whose checks pass, one they stop, and a running command: CSTAT, with and without its bits, and SHUTSTAT. -/
theorem test_witness_EngineCommandsRun :
    let c := cmd 3 0 []
    let bad := cmd 3 1 []
    let z := cmd 4 0 [0]
    (Heads (heading {} engChk c) engChk 0 c ∧ Heads (heading {} engChk bad) engChk 0 bad ∧ Runs (running {} engChk c) engChk 0 c
      ∧ Heads (heading {} engCtx z) engCtx 0 z) ∧ cstatCheck c = none ∧ (cstatCheck bad).isSome = true ∧ shutstatCheck {} z = none ∧
    pushDenied (heading {} engChk { c with ctx := 3 }) engChk { c with ctx := 3 } = true ∧
    ran (exec (.cstat 0) (heading {} engChk { c with ctx := 3 })) (fun t => (t.estream engChk 0).code == fltAccess) = true ∧
    ran (exec (.cstat 0) (heading {} engChk c)) (fun t => (t.estream engChk 0).run == some c) = true ∧
    ran (exec (.cstat 0) (heading {} engChk bad)) (fun t => (t.estream engChk 0).stopped) = true ∧
    ran (exec (.cstat 0) (running {} engChk c)) (fun t => (t.estream engChk 0).done) = true := by
  unfold Heads Runs; decide +kernel

theorem test_witness_EngineStreamsControlled :
    let c := cmd 4 0 [far 0, 0]
    let stop : State := State.setEstream {} engAtt 0 { run := some c, stopped := true, code := 5 }
    let done : State := State.setEstream {} engAtt 0 { run := some c, done := true, held := some ⟨[1], 0, 0, false⟩ }
    let m := cmd 3 0 []
    let late := fun (s : State) => { s with time := 100000 }
    let tre := fun (op prog : Nat) => (late (running {} engTre (cmd op 0 []))).setEstream engTre 0 { run := some (cmd op 0 []), prog := prog }
    let sch := late (running {} engSch (cmd 2 0 []))
    let crc := fun (n : Nat) => cmd 1 0 [far 0, BitVec.ofNat 64 n]
    (chkHold (crc (2 ^ 23)) = boundClocks ∧ chkHold (crc (2 ^ 23 - 128)) < boundClocks ∧
      ran (exec (.chkCmdbound 0) (running {} engChk (crc (2 ^ 23)))) (fun t => (t.estream engChk 0).code == fltCmdBound) = true) ∧
    (Done done engAtt 0 c ∧ Runs (running {} engChk (crc (2 ^ 23))) engChk 0 (crc (2 ^ 23)) ∧ Runs (running {} engAtt c) engAtt 0 c ∧ Runs (running {} engTre m) engTre 0 m ∧
      Runs (running {} engCtx m) engCtx 0 m) ∧ (stop.estream engAtt 0).stopped = true ∧ (stop.estream engAtt 0).run = some c ∧
    m.op ≠ 1 ∧ m.op ≠ 4 ∧ m.op = 3 ∧ pusherLive tA c = true ∧
    boundDue (late (running {} engAtt c)) engAtt 0 0 = true ∧ boundDue (running {} engAtt c) engAtt 0 0 = false ∧
    (sch.estream engSch 0).prog ≠ 1 ∧ boundDue sch engSch 0 (schBound sch 0 (cmd 2 0 [])) = true ∧
    boundDue { sch with time := 0 } engSch 0 (schBound { sch with time := 0 } 0 (cmd 2 0 [])) = false ∧
    ran (exec (.schCmdbound 0) sch) (fun t => (t.estream engSch 0).code == fltCmdBound) = true ∧
    ([(1, 0), (1, 2), (1, 5), (2, 0), (3, 1), (3, 2), (4, 1)].all fun p => boundDue (tre p.1 p.2) engTre 0 (treBound (tre p.1 p.2) 0 (cmd p.1 0 []))) = true ∧
    (sch.look 0).queued = false ∧ ([(1, 0), (1, 2), (1, 5), (2, 0), (3, 1), (4, 1)].all fun p =>
      ran (exec (.treCmdbound 0) (tre p.1 p.2)) fun t => (t.estream engTre 0).code == fltCmdBound) = true ∧
    boundDue (running {} engTre m) engTre 0 (treBound (running {} engTre m) 0 m) = false ∧ boundDue (late (running {} engCtx m)) engCtx 0 0 = true ∧
    ((State.setEstream {} engMat 0 { run := some m, stopped := true }).estream engMat 0).stopped = true ∧
    ((State.setEstream {} engTre 0 { run := some c, prog := 1 }).estream engTre 0).prog = 1 ∧ c.op = 4 ∧
    ran (exec (.attComplete 0) { done with threads := tA.threads }) (fun t => t.result 0 engAtt != []) = true ∧
    ran (exec (.attResume 0) stop) (fun t => (t.estream engAtt 0).queue == [c] && !(t.estream engAtt 0).stopped) = true := by
  refine ⟨by decide +kernel, ⟨⟨by decide, by decide, by decide, by decide⟩, ?_⟩, ?_⟩
  · unfold Runs; decide +kernel
  · decide +kernel

/-- CCRC and CCMP of package 1's bytes, one that starts at no package of the domain; SAMPLE's head, and its kept element. -/
theorem test_witness_CompareUnitAndSamplerResults :
    let c := cmd 1 0 [far 0, 64]
    let d := cmd 2 (2 ^ 45) [far 0, far 64, 64]
    let bad := cmd 1 0 [0, 64]
    let s := running {} engChk c
    (Runs s engChk 0 c ∧ Runs (running {} engChk d) engChk 0 d ∧ Runs (running {} engChk bad) engChk 0 bad) ∧
    okX (readRange s (whoE engChk 0 1) (far 0) 64) = true ∧ okX (readRange s (whoE engChk 0 1) (far 64) 64) = true ∧
    okX (readRange s (whoE engChk 0 1) 0 64) = false ∧ c.op = 1 ∧ d.op = 2 ∧
    (let h := heading {} engSmp (cmd 2 0 [])
     (h.estream engSmp 0).run = none ∧ (h.smp 0).kept.length < 128 ∧ mayStart h engSmp 0 = true ∧
       sampleCheck (cmd 1 0 [far 0, 1, far 0x1000, 0, 0, 0, 0]) = none ∧ (sampleCheck (cmd 1 1 [])).isSome = true) ∧
    (let q := cmd 1 (2 ^ 53) [far 0, 1, far 0x1000, far 0x2000, 0, 0, 0]
     let req : Req := ⟨far 0x3000, 4, far 0x4000, 0⟩
     let u := ((mapped {}).setSmp 0 { req := req }).setEstream engSmp 0 { run := some q, data := [1, 7] }
     let wr := ((mapped {}).setSmp 0 { req := { req with haddr := far 0x5000 } }).setEstream engSmp 0 { run := some q, wait := 2, data := [1, 7] }
     let b := heading { dev := farMem [(0x1000, 8, 7 * 2 ^ 60), (0x2000, 8, 0x403000), (0x2008, 8, 4), (0x2010, 8, 0x404000)] } engSmp q
     let kept := State.setSmp {} 0 { kept := [(q, ⟨[7, 1], 0, 0, false⟩)] }
     carried u engSmp 0 0 = 1 ∧ carried u engSmp 0 1 = 7 ∧ (u.smp 0).req.haddr = 0 ∧ q.op = 1 ∧ sampleCheck q = none ∧
       pushDenied b engSmp q = false ∧ pushDenied b engSmp { q with ctx := 3 } = true ∧ okE (sampleBegin 0 q) b = true ∧
       ran (exec (.sample 0) b) (fun t => (t.estream engSmp 0).run == some q && (t.smp 0).req == req) = true ∧
       okE (sampleBegin 0 q) (heading {} engSmp q) = false ∧
       ran (exec (.sample 0) (heading {} engSmp q)) (fun t => (t.smp 0).code == fltStage && (t.estream engSmp 0).queue == []) = true ∧
       ran (exec (.smpCmdbound 0) { u with time := 100000 }) (fun t => (t.smp 0).code == fltCmdBound) = true ∧
       elemRoom kept engSmp q ⟨[7, 1], 0, 0, false⟩ = true ∧
       ran (exec (.smpElementPlace 0 0) kept) (fun t => (t.smp 0).kept == []) = true ∧
       ran (exec (.ringWaitEnd 0) wr) (fun t => (t.estream engSmp 0).wait == 0) = true ∧
       okE (do
         let k ← engVal (whoE engSmp 0 1) (far 0x4000) 8
         engPut (whoE engSmp 0 1) (far 0x3000 + BitVec.ofNat 64 (4 * (k % 4))) 4 7
         engPut (whoE engSmp 0 1) (far 0x4000) 8 ((k + 1) % 2 ^ 64)) u = true ∧
       ran (exec (.sample 0) u) (fun t => t.dev.readLE (0x400000 + 0x3000) 4 == 7 && t.dev.readLE (0x400000 + 0x4000) 8 == 1
         && (t.estream engSmp 0).held.map Elem.words == some [7, 1]) = true) := by
  unfold Runs
  repeat' apply And.intro
  all_goals decide +kernel

/-- A pool with one block, a sequence of 64 tokens that maps it, a child of it. -/
def pools : State := { dev := farMem [
  (0x1000, 8, 0x80000000), (0x1008, 8, 0x80002000), (0x1010, 8, 1 + 2 ^ 32 + 2 ^ 36), (0x1018, 8, 0x400000 + 0x3000),
  (0x1020, 8, 1), (0x1030, 4, 1), (0x2000, 8, 64), (0x2018, 8, 0x400000 + 0x2100), (0x2020, 8, 2), (0x2028, 8, 0x400000 + 0x1000),
  (0x2100, 8, 2 ^ 32), (0x2108, 8, 2 ^ 64 - 1)] }

theorem test_witness_AttentionResults :
    let w := attWho 0 (cmd 1 0 [])
    let step := cmd 1 (2 ^ 53) [far 0x2000, far 0x5000, far 0x6000, 0, 0, 0x3F800000, 0]
    let commit := cmd 4 (2 ^ 53) [far 0x2000]
    let trim := cmd 5 (2 ^ 53) [far 0x2000, far 0x7000]
    let post := cmd 2 (2 ^ 53 + 1) [far 0x2000, 0, 1]
    let fork := cmd 3 (2 ^ 53) [far 0x2000, far 0x8000, far 0x8100]
    let stat := cmd 6 0 [far 0x2000]
    Runs (running pools engAtt commit) engAtt 0 commit ∧
    let away := withMem pools [(0x2100, 8, 3 * 2 ^ 32)]
    okE (do let sd ← readSeq w (far 0x2000); let p ← readPool w sd.pool; resolveBlk w p sd 0) (mapped pools) = true ∧ step.app = false ∧
    okE (do let r ← attBegin 0 (astepFirst 0 step); let _ ← astepLoad 0 step r.pool; pure r.blk) (running pools engAtt step) = true ∧
    ran (exec (.astep 0) (running away engAtt step)) (fun t => (t.estream engAtt 0).wait == waitArr) = true ∧
    ran (exec (.astep 0) (running {} engAtt step)) (fun t => (t.estream engAtt 0).stopped) = true ∧
    ran (exec (.astep 0) (running (withMem pools [(0x2108, 8, 1)]) engAtt step)) (fun t => (t.estream engAtt 0).done) = true ∧
    ran (exec (.btcommit 0) (running pools engAtt commit))
      (fun t => t.dev.readLE (0x400000 + 0x2000) 4 == 65 && (t.estream engAtt 0).held.map Elem.words == some [65]) = true ∧
    ran (exec (.bttrim 0) (running pools engAtt trim)) (fun t => t.dev.readLE (0x400000 + 0x2000) 4 == 0) = true ∧
    ran (exec (.btpost 0) (running (withMem pools [(0x2000, 8, 0)]) engAtt post))
      (fun t => t.dev.readLE (0x400000 + 0x2120) 8 == 2 ^ 32) = true ∧
    ran (exec (.btfork 0) (running pools engAtt fork)) (fun t => t.dev.readLE (0x400000 + 0x2014) 4 == 1) = true ∧
    ran (exec (.btstat 0) (running pools engAtt stat)) (fun t => (t.estream engAtt 0).held.map Elem.words == some [2 ^ 32, 2 ^ 64 - 1, 64, 0])
      = true ∧
    (let s := (running pools engAtt step).setEstream engAtt 0 { run := some step, wait := waitArr, data := [0, 0, 0, 0, 0, 0, 0, 0, far 0x2100] }
     let busy := s.setEstream engAtt 0 { s.estream engAtt 0 with wait := waitBusy }
     let gone := s.setEstream engAtt 0 { s.estream engAtt 0 with data := [0, 0, 0, 0, 0, 0, 0, 0, 0] }
     let cut := s.setAtt 0 { s.att 0 with cut := true }
     (Waits s engAtt 0 step waitArr ∧ Waits busy engAtt 0 step waitBusy ∧ Waits gone engAtt 0 step waitArr ∧ Waits cut engAtt 0 step waitArr) ∧
     okE (readEntry w (carried s engAtt 0 8) 0) s = true ∧ okE (readEntry w (carried gone engAtt 0 8) 0) gone = false ∧
     ran (exec (.arriveWaitEnd 0) s) (fun t => (t.estream engAtt 0).wait == waitArr) = true ∧
     ran (exec (.busyWaitEnd 0) busy) (fun t => (t.estream engAtt 0).wait == 0) = true ∧
     ran (exec (.arriveWaitEnd 0) gone) (fun t => (t.estream engAtt 0).stopped) = true ∧
     ran (exec (.arriveWaitEnd 0) cut) (fun t => (t.estream engAtt 0).wait == 0) = true) := by
  unfold Runs Waits
  repeat' apply And.intro
  all_goals decide +kernel

/-- MSWAP and MLOADW at the head, and one that waits for its counter. -/
theorem test_witness_MatrixCommandsStart :
    let c := cmd 3 0 [0]
    let l := cmd 2 (2 ^ 37) [0, BitVec.ofNat 64 (4 * 2 ^ 44)]
    let late := cmd 3 (2 ^ 57) [1]
    let s := heading {} engMat c
    (s.estream engMat 0).queue.head? = some c ∧ (s.estream engMat 0).stopped = false ∧ matGoes s 0 = true ∧ (s.mat 0).runs = [] ∧
    matHold s 0 c = .ok () ∧ c.matPen = false ∧ matHold s 0 l = .ok () ∧ matHold s 0 late = .error .wait ∧
    matHold s 0 (cmd 9 0 []) = .error (.flt fltBadCmd 0) ∧
    ran (exec (.mswap 0) s) (fun t => (t.mat 0).active == 1) = true ∧
    ran (exec (.mloadw 0) (heading {} engMat l)) (fun t => (t.mat 0).runs == [{ cmd := l, stage := 0, bank := 0 }]) = true := by
  decide +kernel

/-- MMUL, MLOADW, MDRAIN and MKAT that run; a marked line; an answered refill; one that has ended. -/
theorem test_witness_MatrixCommandsWork :
    let mul := cmd 1 (2 ^ 29) [0, 0]
    let load := cmd 2 (2 ^ 37) [0, BitVec.ofNat 64 (4 * 2 ^ 44)]
    let drain := cmd 4 0 [0, 0]
    let at_ := fun (r : MatRun) => State.setMat { spad := words [0xF0000000] } 0 { runs := [r] }
    (((at_ { cmd := mul }).mat 0).runs.findIdx? fun r => r.cmd.op == 1 && r.stage == 0) = some 0 ∧
    (match readOperand (at_ { cmd := mul }) 0 mul with | .ok rows => rows.length == 1 | .error _ => false) = true ∧
    (match readOperand { spadPoison := [0] } 0 mul with | .ok _ => false | .error l => l == 0) = true ∧
    (let held := State.setMat { spad := words [0xF0000000] } 0 { runs := [{ cmd := drain, stage := 4 }, { cmd := mul }] }
     ((held.mat 0).runs.findIdx? fun r => r.cmd.op == 1 && r.stage == 0) = some 1 ∧ (held.mat 0).drainsFirst 1 { cmd := mul } = true ∧
       ran (exec (.mmul 0) held) (fun t => (t.mat 0).runs.map MatRun.stage == [4, 0]) = true ∧
       ((at_ { cmd := mul }).mat 0).drainsFirst 0 { cmd := mul } = false) ∧
    (((at_ { cmd := load }).mat 0).runs.findIdx? fun r => r.cmd.op == 2 && r.stage == 0) = some 0 ∧
    okX (readProgram (at_ { cmd := drain }) 0 drain) (fun es => okX (epiLoads (at_ { cmd := drain }) 0 es)) = true ∧
    (((at_ { cmd := mul, stage := 1 }).mat 0).runs[0]?).map MatRun.stage = some 1 ∧
    (((at_ { cmd := mul, stage := 3, asks := some 0, answer := some true }).mat 0).runs.findIdx?
      fun r => r.stage == 3 && r.answer.isSome) = some 0 ∧ (((at_ { cmd := mul }).mat 0).runs.findIdx? MatRun.busy) = some 0 ∧
    ran (exec (.matComplete 0 0) (at_ { cmd := mul, stage := 1 })) (fun t => (t.mat 0).runs == []) = true ∧
    (((at_ { cmd := mul }).mat 0).runs.findIdx? (MatRun.late (at_ { cmd := mul }) 0)) = none ∧
    ran (exec (.matCmdbound 0) { at_ { cmd := mul } with time := 100000 }) (fun t => (t.estream engMat 0).stopped) = true ∧
    ran (exec (.mdrain 0) ((at_ { cmd := drain }).setMat 0 { (at_ { cmd := drain }).mat 0 with lost := 1 }))
      (fun t => (t.estream engMat 0).code == fltUncorr && (t.mat 0).lost == 0) = true := by decide +kernel

/-- A COPY of 64 bytes from package 1 to scratchpad, a HINGE that commits and one that runs again, a LINK that jumps and one that
ends, an entry that waits, one whose movement is done. -/
theorem test_witness_ChainEntriesRun :
    let k := cmd 1 0 [far 0]
    let kh := cmd 1 (2 ^ 55) [far 0]
    let on := fun (c : Chan) => (mapped { dev := farMem [(0, 8, 0x55)] }).setChan 0 1 0 { c with kick := some k }
    let kn := cmd 1 (2 ^ 54) [far 0]
    let full := { on {} with results := [(1, List.replicate 64 ⟨[1], 0, 0, false⟩)], threads := tA.threads }
    let toq : List W64 := [BitVec.ofNat 64 (2 ^ 60 + 2 ^ 43), 0, far 0, 0, 256, 0, 0, 0]
    let rowsIn := tA { queues := { q := (Vector.replicate 8 []).set 0 (List.replicate 64 {}) } }
    let copy : List W64 := [BitVec.ofNat 64 (2 ^ 60), 0, far 0, 0x100, 64, 0, 0, 0]
    let wait : List W64 := [BitVec.ofNat 64 (2 ^ 60 + 2 ^ 59), 1, far 0, 0x100, 64, 0, 0, 0]
    let hinge : List W64 := [BitVec.ofNat 64 (5 * 2 ^ 60), 0, 0x100, 64, 0, 0, 0, 0]
    let link : List W64 := [BitVec.ofNat 64 (6 * 2 ^ 60), 0, far 64, 0, 0, 0, 0, 0]
    let end_ : List W64 := [BitVec.ofNat 64 (6 * 2 ^ 60 + 2 ^ 43), 0, 0, 0, 0, 0, 0, 0]
    let at_ := fun (c : Chan) => (on c).chan 0 1 0
    let fetched := fun (c : Chan) (ws : List W64) => match fetchFor (on c) 1 0 (at_ c) k with | .entry _ x => x == ws | _ => false
    chanGoes (on {}) 0 1 = true ∧ fetched { state := 1, entry := copy } copy = true ∧ entryKind copy = 1 ∧
    entryReady (on {}) 0 { state := 1, entry := copy } copy = true ∧ entryReady (on {}) 0 { state := 1, entry := wait } wait = false ∧
    entryKind hinge = 5 ∧ entryReady (on {}) 0 { state := 1, entry := hinge } hinge = true ∧ entryKind link = 6 ∧ entryToq link = false ∧
    chanGoes (flushPosts (on { state := 1, entry := link }) 0 1 0) 0 1 = true ∧ entryToq end_ = true ∧ (k.w 0).getLsbD 54 = false ∧ (at_ {}).hinged = false ∧
    okX (readPiece (on {}) (chanWho 1 0 k false) (far 0) 64)
      (fun x => !x.2.2 && okX (writePiece x.1 (chanWho 1 0 k false) 0x100 x.2.1 false)) = true ∧
    ran (exec (.copy 0 1 0) (on { state := 3, entry := copy, named := true }))
      (fun t => t.spad.readLE 0x100 8 == 0x55 && (t.chan 0 1 0).moved) = true ∧
    ran (exec (.chainEntryComplete 0 1 0) (on { state := 3, entry := copy, moved := true, named := true, issued := 4 }))
      (fun t => (t.chan 0 1 0).done == 4 && (t.chan 0 1 0).state == 1) = true ∧
    ran (exec (.hinge 0 1 0) (State.setChan {} 0 1 0 { kick := some kh, state := 1, entry := hinge, issued := 3 }))
      (fun t => (t.chan 0 1 0).done == 3 && (t.chan 0 1 0).phase == 1) = true ∧
    ran (exec (.hinge 0 1 0) (State.setChan {} 0 1 0 { kick := some kh, state := 1, entry := hinge, poisoned := true }))
      (fun t => (t.chan 0 1 0).runs == 1) = true ∧
    ran (exec (.link 0 1 0) (on { state := 1, entry := link })) (fun t => (t.chan 0 1 0).ptr == far 64) = true ∧
    ran (exec (.link 0 1 0) (on { state := 1, entry := end_ })) (fun t => (t.chan 0 1 0).kick == none) = true ∧
    elemRoom full 1 kn (elemOf kn [0]) = false ∧ chainHeld (on {}) 0 1 = false ∧
    ran (exec (.link 0 1 0) (full.setChan 0 1 0 { kick := some kn, state := 1, entry := end_ }))
      (fun t => (t.chan 0 1 0).kick == some kn && chainHeld t 0 1 && !chanGoes t 0 1) = true ∧
    ran (exec (.copy 0 1 0) { on { state := 3, entry := toq, named := true } with threads := rowsIn.threads, time := 9 })
      (fun t => (t.chan 0 1 0).stall == some (engClock t 1 0)) = true ∧
    queueWait (on {}) (at_ { state := 3, entry := copy }) k = false ∧
    ran (exec (.chainCmdbound 0 1 0) { on { state := 3, entry := copy } with time := 100000 }) (fun t => (t.chan 0 1 0).state == 5) = true := by decide +kernel

theorem test_witness_ChainCommandsAct :
    let k := cmd 1 0 [far 0]
    let r := cmd 2 0 []
    let skip := cmd 2 (2 ^ 55) []
    let a := cmd 3 0 []
    let at_ := fun (q : Cmd) (c : Chan) => (heading {} 1 q).setChan 0 1 0 c
    chainCmdBad k = false ∧ chainCmdBad r = false ∧ chainCmdBad skip = false ∧ chainCmdBad a = false ∧ chainCmdBad (cmd 9 0 []) = true ∧
    chanGoes (at_ k {}) 0 1 = true ∧ pushDenied (at_ k {}) 1 k = false ∧
    ran (exec (.ckick 0 1) { at_ { k with ctx := 3 } {} with threads := tA.threads })
      (fun t => (t.thread 0 0).pends.map Pend.code == [fltAccess] && (t.chan 0 1 0).kick == none) = true ∧
    chainHeld (at_ k { note := some ⟨[1], 0, 0, false⟩ }) 0 1 = true ∧ waitsFor { mats := [(0, { runs := [{ cmd := k, stage := 3, asks := some 0 }] })] } 0 0 = some true ∧
    (holderOf (State.setChan {} 0 1 2 { held := [⟨k, far 0, 1, 0, 64, 1⟩] }) 0 0).isSome = true ∧
    ran (exec (.ckick 0 1) (at_ k {})) (fun t => (t.chan 0 1 0).kick == some k && (t.chan 0 1 0).state == 1) = true ∧
    ran (exec (.ckick 0 1) (at_ k { kick := some k })) (fun t => (t.chan 0 1 0).pend == [k]) = true ∧
    ran (exec (.ckick 0 1) (at_ k { kick := some k, pend := [k, k] })) (fun t => (t.estream 1 0).queue == [k]) = true ∧
    ran (exec (.cresume 0 1) (at_ r { kick := some k, state := 5 })) (fun t => (t.chan 0 1 0).state == 1) = true ∧
    ran (exec (.cresume 0 1) (at_ r { kick := some k, state := 5, third := true, first := 8 })) (fun t => (t.chan 0 1 0).ptr == 8) = true ∧
    ran (exec (.cresume 0 1) (at_ skip { kick := some k, state := 5, badLen := some 64 })) (fun t => (t.chan 0 1 0).ptr == 64) = true ∧
    ran (exec (.cabort 0 1) (at_ a { kick := some k, state := 3, issued := 2 }))
      (fun t => (t.chan 0 1 0).kick == none && (t.chan 0 1 0).done == 2) = true := by decide +kernel

/-- A tile task's record, with its other word 0 and its words 3 and 4. -/
def rec0 (w0 : Nat) (kind : Nat := 0) (w3 : Nat := 0x40) (w4 : Nat := 0x80) : List W64 :=
  [BitVec.ofNat 64 (2 ^ 58 + kind * 2 ^ 54 + w0), if kind = 0 then BitVec.ofNat 64 (2 ^ 48 + 0xFFF * 2 ^ 32) else BitVec.ofNat 64 (0xFFF * 2 ^ 32),
   0, BitVec.ofNat 64 w3, BitVec.ofNat 64 w4, 0, 0, 0]

/-- A timed tile task's record: due at frame 5, with a budget of 2. -/
def timed0 : List W64 := [BitVec.ofNat 64 (2 ^ 58 + 2 ^ 53), BitVec.ofNat 64 (2 ^ 48 + 0xFFF * 2 ^ 32 + 2 * 2 ^ 12), 5, 0x40, 0x80, 0, 0, 0]

/-- Grid 0 of context 1, eight tiles by eight, with its journal. -/
def grid0 : QGrid := { ctx := 1, w := 8, h := 8, journal := 0x80000000 }

/-- A task of context 1. -/
def task0 (ws : List W64) (state : Nat) : Task := { words := ws, ctx := 1, mask := [], state := state }

/-- Queue manager 0 with tasks. -/
def qmg0 (tasks : List (Nat × Task)) (q : Qmg := {}) (s : State := {}) : State :=
  (mapped s).setQmg 0 { q with tasks := tasks, grids := [(0, grid0)] }

theorem test_witness_QmgCommandsApplied :
    let pub : Cmd := { cmd 1 0 [] with words := rec0 (2 ^ 31) }
    let bad : Cmd := { cmd 1 0 [] with words := rec0 (2 ^ 31 * 9) }
    let other : Cmd := { cmd 1 0 [] with words := rec0 (2 ^ 51) }
    let at_ := fun (c : Cmd) => heading (qmg0 [(0, task0 (rec0 0) 2)]) engQmg c
    let nest := cmd 2 (1 * 2 ^ 41) [far 0x4000, 0]
    nextCmd (at_ pub) engQmg 0 = some pub ∧ pub.words.length = qmgWords pub.op ∧ recDie pub.words = 0 ∧
    publishFault ((at_ pub).qmg 0) 1 pub.words false = none ∧ publishFault ((at_ bad).qmg 0) 1 bad.words false = some fltBadCmd ∧
    recDie other.words = 1 ∧
    ran (exec (.publish 0) (at_ pub)) (fun t => ((t.qmg 0).tasks.map Prod.fst) == [0, 1]) = true ∧
    ran (exec (.publish 0) (at_ other)) (fun t => (t.qmg 1).carry == [⟨0, 1, other.words, false⟩] && (t.estream engQmg 0).prog == 1) = true ∧
    ran (exec (.nest 0) (withMem (at_ nest) ((rec0 0).zipIdx.map fun w => (0x4000 + 8 * w.2, 8, w.1.toNat)))) (fun t => (t.estream engQmg 0).data == rec0 0) = true ∧
    ran (exec (.nest 0) ((at_ nest).setEstream engQmg 0 { queue := [nest], data := rec0 0 }))
      (fun t => (t.estream engQmg 0).prog == 1 && (t.qmg 0).tasks.length == 2) = true := by
  repeat' apply And.intro
  all_goals decide +kernel

/-- The same for GRID creating. -/
theorem test_witness_QmgGridCreate :
    let at_ := fun (c : Cmd) => heading (qmg0 [(0, task0 (rec0 0) 2)]) engQmg c
    let mk := cmd 3 (2 ^ 50 + 3 * 2 ^ 42 + 3 * 2 ^ 34) [0x40000000]
    ran (exec (.gridCreate 0) (hosted (at_ mk))) (fun t => (Tab.find (t.qmg 0).grids 1).map (fun g => (g.w, g.h)) == some (4, 4)) = true := by decide +kernel

/-- The same for GRID and LATTICE. -/
theorem test_witness_QmgGridsAndLattice :
    let at_ := fun (c : Cmd) => heading (qmg0 [(0, task0 (rec0 0) 2)]) engQmg c
    let del := cmd 3 (2 ^ 56) [0]
    let rst := cmd 3 (2 ^ 57) [0]
    let lat := cmd 4 (2 ^ 50) [BitVec.ofNat 64 0x88888888888888FF, BitVec.ofNat 64 0x8888888888888888]
    let on := hosted ((heading (qmg0 []) engQmg rst).setQmg 0 { grids := [(0, { grid0 with journal := 0x40000000 })] })
    gridTasks on 0 0 = [] ∧
    ran (exec (.gridReset 0) on) (fun t => (t.estream engQmg 0).queue == []) = true ∧
    ran (exec (.gridDestroy 0) (heading (qmg0 []) engQmg del)) (fun t => (t.qmg 0).grids == []) = true ∧
    ran (exec (.gridDestroy 0) (at_ { del with ctx := 2 })) (fun t => (t.estream engQmg 0).code == fltAccess) = true ∧
    ran (exec (.gridCreate 0) (at_ { cmd 3 0 [0x80000000] with ctx := 2 })) (fun t => (t.estream engQmg 0).code == fltAccess) = true ∧
    ran (exec (.lattice 0) (at_ lat)) (fun t => Tab.find (t.qmg 0).lattice 257 == some [(-1, -1)]) = true := by
  repeat' apply And.intro
  all_goals decide +kernel

/-- The same for FRAME, and for a command that its queue's access table denies. -/
theorem test_witness_QmgFrames :
    let at_ := fun (c : Cmd) => heading (qmg0 [(0, task0 (rec0 0) 2)]) engQmg c
    let base := cmd 5 (2 ^ 57) [7]
    let lost := { at_ { base with ctx := 2 } with poison := [lineOf (0x10000 + 2 * 64)] }
    okX (readGrant (at_ base) 1 5) (fun x => x.2) = true ∧ okX (readGrant (at_ { base with ctx := 2 }) 2 5) (fun x => !x.2) = true ∧
    (readDesc lost 2).2 = some fltUncorr ∧ pushDenied lost engQmg { base with ctx := 2 } = false ∧
    ran (exec (.frameSetbase 0) lost) (fun t => (t.estream engQmg 0).code == fltUncorr) = true ∧
    ran (exec (.frameSetbase 0) (at_ { base with ctx := 2 })) (fun t => (t.estream engQmg 0).code == fltAccess) = true ∧
    pushDenied (at_ base) engQmg base = false ∧ pushDenied (at_ { base with ctx := 2 }) engQmg { base with ctx := 2 } = false ∧
    pushDenied (at_ { base with ctx := 3 }) engQmg { base with ctx := 3 } = true ∧
    ran (exec (.lattice 0) (at_ { base with ctx := 3 })) (fun t => (t.estream engQmg 0).code == fltAccess) = true ∧
    ran (exec (.frameSetbase 0) (at_ base)) (fun t => (t.qmg 0).frame == 7) = true ∧
    ran (exec (.frameGo 0) (at_ (cmd 5 0 [0]))) (fun t => !(t.qmg 0).hold) = true ∧
    ran (exec (.frameStop 0) (at_ (cmd 5 (2 ^ 56) [0]))) (fun t => (t.qmg 0).hold) = true ∧
    ran (exec (.lattice 0) (at_ (cmd 4 0 [0, 0]))) (fun t => (t.estream engQmg 0).code == fltBadCmd) = true := by decide +kernel

/-- The same for CANCEL and STATUS. -/
theorem test_witness_QmgCancelAndStatus :
    let at_ := fun (c : Cmd) => heading (qmg0 [(0, task0 (rec0 0) 2)]) engQmg c
    let can := cmd 6 0 [0]
    cancelFault (at_ can) 0 can = some fltBadCmd ∧
    cancelFault (at_ (cmd 6 0 [BitVec.ofNat 64 (2 ^ 16)])) 0 (cmd 6 0 [BitVec.ofNat 64 (2 ^ 16)]) = none ∧
    ran (exec (.cancel 0) (at_ (cmd 6 0 [BitVec.ofNat 64 (2 ^ 16)]))) (fun t => (t.qmg 0).tasks == []) = true ∧
    ran (exec (.status 0) (at_ (cmd 7 (2 ^ 55) []))) (fun t => (t.estream engQmg 0).queue == []) = true ∧
    ran (exec (.status 0) (at_ (cmd 7 0 []))) (fun t => (t.estream engQmg 0).code == 0) = true ∧
    ran (exec (.status 0) (at_ (cmd 7 (3 * 2 ^ 55) []))) (fun t => (t.estream engQmg 0).code == 0) = true ∧
    ran (exec (.status 0) (at_ (cmd 7 (2 * 2 ^ 55 + 2 ^ 36 + 2 ^ 53) [])))
      (fun t => (t.estream engQmg 0).queue == [] && Tab.get (9, 9) (t.qmg 0).place 0 == (0, 0)) = true ∧
    (let run := { task0 (rec0 0) 4 with core := 0, slot := 0 }
     let u := qmg0 [(0, run)] {} (tA { task := (0, 0), inh := true, setAside := [.fence true 0 0] })
     taskOf u 0 0 = some run ∧ recKind run.words = 0 ∧ runsEntry (u.thread run.core run.slot) 0 0 run = true ∧
       ((cancelTask u 0 0).thread 0 0).cancelled = true) := by decide +kernel

/-- A table of tasks without room, and a record that another die carries to it. -/
def crowd : List (Nat × Task) := List.replicate 65536 (0, task0 (rec0 0) 2)
theorem crowd_length : crowd.length = 65536 := List.length_replicate

theorem test_witness_QmgEventsServe_full :
    let r : Carry := ⟨0, 1, rec0 (2 ^ 31), false⟩
    let bad : Carry := ⟨0, 1, rec0 (2 ^ 31 * 9), false⟩
    let c : Cmd := { cmd 1 0 [] with words := rec0 (2 ^ 31 * 9) }
    let at_ := fun (cs : List Carry) (ts : List (Nat × Task)) => heading (qmg0 ts { carry := cs }) engQmg c
    65536 ≤ ((at_ [r] crowd).qmg 0).tasks.length ∧ [{ r with full := true }, r].findIdx (fun r => !r.full) = 1 ∧
    publishFault ((at_ [r] []).qmg 0) 1 r.words false = none ∧ publishFault ((at_ [bad] []).qmg 0) 1 bad.words false = some fltBadCmd ∧
    nextCmd (at_ [] []) engQmg 0 = some c := by
  refine ⟨?_, by decide +kernel, by decide +kernel, by decide +kernel, by decide +kernel⟩
  change 65536 ≤ crowd.length
  exact crowd_length.ge

theorem test_witness_QmgEventsServe :
    let c : Cmd := { cmd 1 0 [] with words := rec0 (2 ^ 31) }
    let carried_ := heading (qmg0 [] { carry := [⟨0, 1, c.words, false⟩] }) engQmg c
    let late := task0 timed0 1
    let ready := task0 (rec0 (2 ^ 52)) 2
    let started := { task0 (rec0 0) 4 with core := 0, slot := 0 }
    let ended_ := { tA with threads := [(0, { live := true, ctx := 1, halted := true })] }
    let engine := task0 (rec0 0 3 (0x400000 + 0x4000) 0) 2
    let at_ := qmg0 [(0, ready)]
    let queued := at_.setCore 2 { queue := [0] }
    let local_ := (qmg0 [(0, { ready with state := 3 })]).setCore 0 { queue := [0] }
    (let stray : State := { qmg0 [] with threads := [(0, { live := true, ctx := 1, halted := true, task := (0, 5), record := some started })] }
     (stray.threads.find? fun kv => kv.2.task == (0, 5) && strayEnded stray (kv.1 / 16) (kv.1 % 16)).isSome = true ∧
       ran (exec (.taskRetire 0 5) stray) (fun t => !(t.thread 0 0).live && (t.qmg 0).grids.map (fun g => g.2.rows) == [[(0, 1)]]) = true) ∧
    (let e := { engine with state := 4, ended := some 0, words := rec0 (7 * 2 ^ 45) 3 (0x400000 + 0x4000) 0 }
     engineTaskHeld (qmg0 [(0, e)]) 0 0 e = false ∧
       recKind e.words ≠ 0 ∧
       engineTaskHeld ((qmg0 [(0, e)]).setEstream engCtx 0 { queue := [{ cmd 3 0 [0] with task := some (0, 0) }] }) 0 0 e = true) ∧
    (readDesc local_ 1).2 = none ∧ (local_.core 0).owner = 0 ∧
    (match publish (qmg0 []) 0 1 c.words with | .accepted _ => true | _ => false) = true ∧
    ran (exec (.publishCarry 0) carried_) (fun t => (t.qmg 0).tasks.length == 1 && (t.estream engQmg 0).queue == []) = true ∧
    ran (exec (.frameTick 0) (qmg0 [] { hold := false } { time := 128 })) (fun t => (t.qmg 0).frame == 1) = true ∧
    (qmg0 [] { hold := false } { time := 128 }).now / 128 = 1 ∧ frameRuns {} = false ∧
    ran (exec (.frameTick 0) (qmg0 [] {} { time := 300 })) (fun t => (t.qmg 0).frame == 0 && (t.qmg 0).tick == 2) = true ∧
    recTimed timed0 = true ∧ deadline late = 7 ∧
    ran (exec (.taskOverrun 0) (qmg0 [(0, late)] { frame := 7 })) (fun t => (t.qmg 0).slips == 1) = true ∧
    (firstPlace at_ 0).map (fun x => (x.1, x.2.2)) = some (0, 0, 1) ∧
    ran (exec (.taskPlace 0) at_) (fun t => (t.core 0).queue == [0] && (t.qmg 0).rot == 1) = true ∧
    (0 / 8 * 8 + (0 % 8 + 1 + (stealNext 1).toNat % 7) % 8) = 2 ∧ slotFree queued 0 ≠ none ∧ coreTakes queued 1 0 = true ∧
    recSteal ready.words = true ∧
    ran (exec (.stealAttempt 0) queued) (fun t => (t.core 0).queue == [0] && (t.core 2).queue == []) = true ∧
    localHead local_ 0 = some 0 ∧ slotFree local_ 0 = some 0 ∧ local_.islandOn (clusterOf 0) = true ∧
    ran (exec (.tileDispatch 0 false) local_) (fun t => (t.thread 0 0).live && (t.thread 0 0).apc == 0x40 && (t.thread 0 0).epc == 0x80)
      = true ∧
    entriesUsed at_ engSmp 0 = 0 ∧ firstOfEngine (qmg0 [(0, engine)]) 0 0 engine = true ∧
    ran (exec (.engineTaskDispatch 0 0) (withMem (qmg0 [(0, engine)]) [(0x4000, 8, 0x1234)]))
      (fun t => (t.estream engSmp 0).queue.map Cmd.words == [[0x1234]]) = true ∧
    ran (exec (.taskRetire 0 0) (qmg0 [(0, started)] {} ended_)) (fun t => (t.qmg 0).tasks == [] && !(t.thread 0 0).live
      && (t.qmg 0).grids.map (fun g => g.2.rows) == [[(0, 1)]] && t.dev.readLE 0 1 == 1) = true ∧
    ran (exec (.taskRetire 0 0) (qmg0 [(0, started)] {} (tA { failed := some fltAccess }))) (fun t => (t.qmg 0).tasks == []) = true ∧
    ran (exec (.taskRetire 0 0) (qmg0 [(0, { engine with state := 4, ended := some 0 })])) (fun t => (t.qmg 0).tasks == []) = true ∧
    (setTile (qmg0 []) 0 0 0 0).2 = none ∧ (setTile (heading {} engQmg c |>.setQmg 0 { grids := [(0, { grid0 with journal := 0x500000000 })] }) 0 0 0 0).2 = some fltXlate ∧
    ran (exec (.scoreboardRebuild 0 0 1 true) (qmg0 [])) (fun t => (t.qmg 0).grids.map (fun g => g.2.dead) == [true]) = true ∧
    ran (exec (.scoreboardRebuild 0 0 1 false) ({ qmg0 [] with dev := (qmg0 []).dev.writeLE 0x20 1 5 } : State))
      (fun t => (t.qmg 0).grids.map (fun g => g.2.rows) == [[(1, 5)]]) = true ∧
    effPrio ready = 0 ∧ ran (exec (.priorityAge 0 0) { at_ with time := 4000000 }) (fun t => (t.qmg 0).tasks.map (fun k => k.2.age) == [1])
      = true ∧
    (let u := (qmg0 [(0, { started with words := rec0 (7 * 2 ^ 45) })] {} ended_).setEstream engCtx 0 { queue := [cmd 3 0 [0]] }
     releaseHeld u 0 0 (recScope (rec0 (7 * 2 ^ 45))) = true ∧ releaseHeld u 0 0 (recScope (rec0 0)) = false ∧
       ran (exec (.taskRetire 0 0) u) (fun t => (t.thread 0 0).live) = true) ∧
    (reloadTask (qmg0 [(0, started)] { qback := 0x500000 }) 0 0 started).isSome = true ∧ reloadTask (qmg0 [(0, started)]) 0 0 started = none := by
  repeat' apply And.intro
  all_goals decide +kernel

/-- A configuration block, eight nodes a group and two groups; a tree of it; its first group's nodes. -/
def cfg0 (at_ : Nat := 0x400000) : List W64 := [BitVec.ofNat 64 (at_ + 0x10000), BitVec.ofNat 64 (3 * 2 ^ 32 + 2), BitVec.ofNat 64 (at_ + 0x20000),
  BitVec.ofNat 64 (at_ + 0x30000), BitVec.ofNat 64 (at_ + 0x40000), BitVec.ofNat 64 (at_ + 0x50000), 0x3F800000,
  BitVec.ofNat 64 (4 * 2 ^ 44 + 2 ^ 40 + 3 * 2 ^ 32)]
def tree0 : Tree := { live := true, ctx := 1, words := cfg0, fcnt := 1 }
def memWords (m : Mem) (a : Nat) (ws : List W64) : Mem := ws.zipIdx.foldl (fun (m : Mem) w => m.writeLE (a + 8 * w.2) 8 w.1.toNat) m

/-- TRE's stream 0 at a phase of a command, with nodes 0 and up. -/
def tre0 (c : Cmd) (prog : Nat := 0) (k : Walk := {}) (t : Tree := tree0) (nodes : List (List W64) := []) (wait : Nat := 0) : State :=
  let node := fun (at_ : Nat) (ws : List W64) => ws.zipIdx.map fun w => (at_ + 8 * w.2, 8, w.1.toNat)
  (((withMem (qmg0 []) (nodes.zipIdx.flatMap (fun n => node (0x10000 + 32 * n.2) n.1) ++ node 0x40000 (rec0 0) ++ [(0x20000, 4, 1)])).setTree
    0 0 t).setWalk 0 k).setEstream engTre 0 { run := some c, prog := prog, wait := wait }

theorem test_witness_TreeCommandsResults :
    let root : List W64 := [0, 0x3F800000, 0xFFFFFFFF00100000, 0]
    let expanded : List W64 := [5, 0x800000000, 0xFFFFFFFF00110002, 0]
    let kid : List W64 := [0, 0x3F800000, 0, 7]
    let desc := cmd 1 0 []
    let init := cmd 5 0 [0x860000]
    let setp := cmd 5 (2 ^ 41) [0x860000]
    let local_ := mapped { qmg0 [] with dev := memWords (memWords [] 0x860000 (cfg0 0x800000)) 0x840000 (rec0 0) }
    let tinit := running local_ engTre init
    let tsetp := running (local_.setTree 0 0 { tree0 with words := cfg0 0x800000 }) engTre setp
    let exp_ := cmd 2 (2 ^ 32) [0, far 0x70000]
    let term := cmd 2 (2 ^ 42) [0, 0]
    let back := cmd 3 0 [BitVec.ofNat 64 (0x3F800000 * 2 ^ 32)]
    let reuse := cmd 4 1 []
    let k0 : Walk := { words := cfg0 }
    let snap := { k0 with snap := expanded }
    let rel := cmd 5 (2 ^ 42) [0]
    let runs := fun (i : Instr) (s : State) (p : State → Bool) => ran (exec i s) p
    Runs tinit engTre 0 init ∧ okE (readCfg 1 0x860000) tinit = true ∧
    runs (.tcfgInit 0) tinit (fun t => (t.tree 0 0).live && (t.tree 0 0).fcnt == 1 && t.dev.readLE 0x820000 4 == 1) = true ∧
    runs (.tcfgSetp 0) tsetp (fun t => (t.estream engTre 0).done) = true ∧
    runs (.tdesc 0) (tre0 desc 0 {} { tree0 with drain := true }) (fun t => (t.estream engTre 0).wait == treWaitDrain) = true ∧
    runs (.tdesc 0) (tre0 desc 0 {} { tree0 with bcnt := 1 }) (fun t => (t.tree 0 0).infl == 1 && (t.estream engTre 0).prog == 1) = true ∧
    runs (.tdesc 0) (tre0 desc 1 k0 tree0 [root]) (fun t => (t.estream engTre 0).prog == 4) = true ∧
    runs (.tdesc 0) (tre0 desc 1 k0 tree0 [expanded]) (fun t => (t.estream engTre 0).prog == 2) = true ∧
    runs (.tdesc 0) (tre0 desc 2 snap tree0 (List.replicate 9 kid)) (fun t => (t.walkOf 0).best.map Prod.snd == some 8) = true ∧
    runs (.tdesc 0) (tre0 desc 4 { k0 with status := 1, path := [0] }) (fun t => (t.estream engTre 0).done) = true ∧
    runs (.tdesc 0) (tre0 desc 4 { k0 with status := 0, path := [0], snap := root }) (fun t => (t.tree 0 0).bcnt == 1) = true ∧
    runs (.tdesc 0) (tre0 desc 4 { k0 with status := 0, path := [0], snap := root } { tree0 with closing := true, bcnt := 4 })
      (fun t => (t.estream engTre 0).prog == 4 && !(t.estream engTre 0).done) = true ∧
    runs (.tdesc 0) (tre0 desc 4 { k0 with status := 0, path := [0], snap := root } { tree0 with bcnt := 3, batch := cfg0 })
      (fun t => (t.estream engTre 0).prog == 5 && (t.tree 0 0).closing) = true ∧
    runs (.tdesc 0) (tre0 desc 5 { k0 with path := [0] } { tree0 with closing := true, bcnt := 4 })
      (fun t => (t.estream engTre 0).done && (t.tree 0 0).k == 1 && (t.qmg 0).tasks.length == 1) = true ∧
    runs (.tdesc 0) { tre0 desc 5 { k0 with path := [0] } with access := (mapped {}).access.filter fun x => x.1 != 4096 * engineTarget engQmg 0 + 1 }
      (fun t => (t.estream engTre 0).code == fltAccess) = true ∧ countBatch 0 0 (tre0 desc) = tre0 desc ∧
    runs (.batchQueueWaitEnd 0) (tre0 desc 5 { k0 with path := [0] } tree0 [] treWaitQ) (fun t => (t.qmg 0).tasks.length == 1) = true ∧
    runs (.texpand 0) (tre0 term 0 {} tree0 [root]) (fun t => t.dev.readLE (0x400000 + 0x10012) 1 == 0x14) = true ∧
    runs (.texpand 0) (tre0 exp_ 0 {} { tree0 with fcnt := 0 } [root]) (fun t => (t.estream engTre 0).code == fltNodePool) = true ∧
    runs (.texpand 0) (tre0 exp_ 0 {} { tree0 with fcnt := 0, reclaim := [1] } [root]) (fun t => (t.estream engTre 0).wait == treWaitPool)
      = true ∧
    runs (.texpand 0) (tre0 exp_ 0 {} tree0 [root]) (fun t => (t.tree 0 0).fcnt == 0 && t.dev.readLE (0x400000 + 0x1000C) 4 == 8) = true ∧
    runs (.poolWaitEnd 0) (tre0 exp_ 1 { k0 with kids := [0] } tree0 [root] treWaitPool) (fun t => (t.tree 0 0).fcnt == 0) = true ∧
    runs (.texpand 0) (tre0 exp_ 1 { k0 with kids := [0] } tree0 [expanded]) (fun t => (t.estream engTre 0).code == fltBadCmd) = true ∧
    okE (growLeaf 0 exp_ { k0 with kids := [0] }) (tre0 exp_ 1 { k0 with kids := [0] } tree0 [root]) = true ∧
    runs (.tback 0) (tre0 back) (fun t => (t.estream engTre 0).prog == 1) = true ∧ ndParent kid ≠ noNode ∧
    runs (.tback 0) (tre0 back 1 k0 tree0 [kid]) (fun t => (t.walkOf 0).path == [0]) = true ∧
    runs (.tback 0) (tre0 back 2 { k0 with path := [0], places := [.dev 0x410000 0] } tree0 [root]) (fun t => t.dev.readLE (0x400000 + 0x10000) 4 == 1) = true ∧
    (match writablePlace (back.treeRef 0 cfg0) 0 (tre0 back 1 k0 tree0 [root]) with | (.ok l, _) => l == .dev 0x410000 0 | _ => false) = true ∧
    runs (.tdesc 0) (tre0 desc 5 { k0 with path := [0], record := rec0 0 } { tree0 with closing := true, bcnt := 4 })
      (fun t => (t.estream engTre 0).done && (t.tree 0 0).k == 1 && (t.qmg 0).tasks.length == 1) = true ∧
    runs (.tdesc 0) (tre0 { desc with words := [BitVec.ofNat 64 (2 ^ 58 + 2 ^ 42)] } 4 { k0 with status := 1, path := [0] } { tree0 with closing := true, bcnt := 4 })
      (fun t => (t.estream engTre 0).wait == treWaitQ) = true ∧
    runRoom (tre0 desc 4 k0 tree0 [] treWaitQ) engTre 0 = true ∧
    runs (.tback 0) (tre0 back 2 k0 { tree0 with infl := 1 }) (fun t => (t.tree 0 0).infl == 0) = true ∧
    runs (.treuse 0) (tre0 reuse 0 {} tree0 [expanded]) (fun t => (t.tree 0 0).drain) = true ∧
    runs (.treuse 0) (tre0 reuse 1 snap { tree0 with infl := 1 }) (fun t => (t.estream engTre 0).wait == treWaitDrain) = true ∧
    okE (rerootEng 0 reuse snap) (tre0 reuse 1 snap tree0 (List.replicate 10 kid)) = true ∧
    runs (.treuse 0) (tre0 reuse 1 snap tree0 (List.replicate 10 kid)) (fun t => (t.tree 0 0).root == 9 && (t.tree 0 0).reclaim == [0]) = true ∧
    runs (.drainEnd 0) (tre0 reuse 1 snap tree0 (List.replicate 10 kid) treWaitDrain) (fun t => (t.tree 0 0).root == 9) = true ∧
    runs (.treeReclaim 0 0) (tre0 desc 0 {} { tree0 with reclaim := [1] }) (fun t => (t.tree 0 0).fcnt == 2) = true ∧
    runs (.tcfgRelease 0) (tre0 rel) (fun t => !(t.tree 0 0).live) = true ∧
    runs (.tcfgRelease 0) (tre0 rel 0 {} { tree0 with infl := 1 }) (fun t => (t.estream engTre 0).wait == treWaitDrain) = true ∧
    runs (.tstat 0) (tre0 (cmd 6 (2 ^ 42) [0])) (fun t => (t.estream engTre 0).held.isSome) = true ∧
    runs (.tstat 0) (tre0 (cmd 6 0 [0]) 0 {} tree0 [root]) (fun t => (t.estream engTre 0).held.map Elem.words == some root) = true := by
  unfold Runs
  repeat' apply And.intro
  all_goals decide +kernel

/-- A retrieval object of context 1: binary codes of four bytes, one vector, a log of four entries in package 1, one passage. -/
def page0 : Page := { num := 5, ctl := 0, nand := 2 }
def set0 : SegSet := { vecs := [{ id := 3, code := [1, 0, 0, 0], nbrs := [], list := 0, page := page0 }], entry := 3 }
def img0 (kind : Nat := 0) : ObjImage :=
  { kind := kind, ck := 4, metric := 0, degm1 := 0, dq := 0, cent := far 0xD000, logbase := far 0xA000, logcap := 4, pgeom := 17, set := {}
    passages := [{ id := 7, blocks := [{ mask := 5, keys := List.replicate 4096 0, vals := List.replicate 4096 0, pages := [page0] }] }] }
def obj0 : Obj := { live := true, owner := 1, pstore := true, img := img0, set := set0 }

/-- SCH's stream 0 at a phase of a command. -/
def sch0 (c : Cmd) (o : Obj := obj0) (prog : Nat := 0) (k : Look := {}) (wait : Nat := 0) : State :=
  (((mapped (withMem pools [(0x9000, 8, 7)])).setObj 0 o).setLook 0 k).setEstream engSch 0
    { run := some c, prog := prog, wait := wait }

theorem test_witness_SearchRuns :
    let c := cmd 1 (2 ^ 16) [far 0xB000, far 0xC000]
    let ci := cmd 1 0 [far 0xB000, far 0xC000]
    let oi : Obj := { obj0 with img := img0 1, set := { set0 with entry := 1 } }
    let k : Look := { set := set0, front := [(3, negInf32)], keys := [(3, negInf32)], query := [0, 0, 0, 0] }
    let h : Hop := { xid := 0, page := page0, riders := [0] }
    let reads := fun (h : Hop) => (sch0 c obj0 1 { k with left := 1 }).setCtlr 0 { reading := [h] }
    Runs (sch0 c) engSch 0 c ∧ okE (nextRound 0 c k) (sch0 c) = true ∧ okE (centroids oi [0, 0, 0, 0] 1 0) (sch0 ci oi) = true ∧
    (let hd := (heading (withMem pools [(0x9000, 8, 7)]) engSch c).setObj 0 obj0
     let sealing := (hd.setEstream engSch 1 { run := some (cmd 5 0 [0]) }).setObj 0 { obj0 with order := [1] }
     let begun := fun (u : State) => enterOrder ((startCmd u engSch 0).setLook 0 {}) 0 c
     nextCmd hd engSch 0 = some c ∧ pushDenied hd engSch c = false ∧ c.op = 1 ∧ searchCheck hd c = none ∧ schTurn (begun hd) 0 c = true ∧
       okE (readLog 0 obj0 0 0) (begun hd) = true ∧ ((begun hd).obj 0).set = set0 ∧ schTurn (begun sealing) 0 c = false ∧
       ran (exec (.search 0) hd) (fun t => (t.estream engSch 0).prog == 4 && (t.look 0).set == set0 && (t.obj 0).order == []) = true ∧
       ran (exec (.search 0) sealing) (fun t => (t.estream engSch 0).prog == 0 && (t.obj 0).order == [1, 0] && (t.look 0).queued) = true) ∧
    schTurn (sch0 c) 0 c = true ∧ okE (readLog 0 obj0 0 0) (takeTurn (sch0 c) 0) = true ∧
    ran (exec (.search 0) (sch0 c)) (fun t => (t.estream engSch 0).prog == 4 && (t.look 0).set == set0) = true ∧
    ran (exec (.search 0) (sch0 c obj0 4 k)) (fun t => (t.estream engSch 0).prog == 1 && (t.look 0).left == 1 && (t.ctlr 0).queue == [h]) = true ∧
    ran (exec (.search 0) (sch0 ci oi 4 { k with set := { set0 with entry := 1 } })) (fun t => (t.look 0).lists == [0] && (t.look 0).left == 1)
      = true ∧
    (0 < c.maxr ∧ frontier c k ≠ []) ∧ frontier c { k with keys := [] } = [] ∧
    ran (exec (.search 0) (sch0 c obj0 2 { k with seen := [(3, 0x3F800000)] }))
      (fun t => t.dev.readLE (0x400000 + 0xC000) 2 == 1 && t.dev.readLE (0x400000 + 0xC040) 8 == 3) = true ∧
    okE (spoilResults c [0, 0]) (sch0 c) = true ∧
    ((sch0 c obj0 2 { k with wild := true }).look 0).wild = true ∧
    ran (exec (.searchRoundEnd 0) (sch0 c obj0 1 k)) (fun t => (t.estream engSch 0).prog == 2 && (t.look 0).seen == [(3, 0x3F800000)]) = true ∧
    ran (exec (.searchRoundEnd 0) (sch0 ci oi 1 { k with lists := [0] })) (fun t => (t.estream engSch 0).prog == 2) = true ∧
    ran (exec (.hopIssue 0 2) ((sch0 c).setCtlr 0 { queue := [h] })) (fun t => (t.ctlr 0).reading == [h]) = true ∧
    (sch0 c).islandOn 36 = true ∧ (State.islandOn { islands := [(36, 2)] } 36) = false ∧ (sch0 c).masks.ctls.getLsbD 0 = false ∧
    ran (exec (.hopIssue 0 2) { (sch0 c).setCtlr 0 { queue := [h] } with islands := [(36, 2)] }) (fun t => (t.ctlr 0).queue == [h]) = true ∧
    ran (exec (.hopReadDone 0 0 true) (reads h)) (fun t => (t.look 0).left == 0 && (t.look 0).pages == 1) = true ∧
    ran (exec (.hopReadDone 0 0 false) (reads h)) (fun t => (t.ctlr 0).queue.map Hop.retries == [1]) = true ∧
    ran (exec (.hopReadDone 0 0 false) (reads { h with retries := 8 })) (fun t => (t.estream engSch 0).code == fltReadRetry) = true := by
  unfold Runs
  repeat' apply And.intro
  all_goals decide +kernel

theorem test_witness_IndexCommandsResults :
    let app := cmd 3 0 [far 0xE000]
    let del := cmd 4 0 [far 0xE000]
    let full : Obj := { obj0 with head := 4 }
    let seal_ := cmd 5 (2 ^ 40) [0]
    let late := cmd 5 0 [9]
    let mrg := cmd 6 0 []
    let ahead : Obj := { obj0 with head := 2, sealPos := 2 }
    let fetch := cmd 2 (2 ^ 8) [far 0x2000, far 0x9000]
    let k : Look := { index := 1, cur := some { mask := 5, keys := List.replicate 4096 0, vals := List.replicate 4096 0, pages := [page0] } }
    let w := whoS 1
    let desc : Option (SeqDesc × Pool) := some (
      { addr := far 0x2000, len := 64, depth := 0, parent := 0, children := 0, forklen := 0,
        tbl := far 0x2100, tcap := 2, pool := far 0x1000, words := [] },
      { addr := far 0x1000, kbase := 0x80000000, vbase := 0x80002000, d := 32, heads := 1, layers := 1, kfmt := 1, vfmt := 1, nblk := 1,
        free := far 0x3000, fcap := 1 })
    let later := (sch0 app { obj0 with order := [1, 0] }).setEstream engSch 1 { run := some (cmd 3 0 [far 0xE000]) }
    Runs (sch0 app) engSch 0 app ∧ okE (readRecords w obj0 false (far 0xE000) 1 0) (sch0 app) = true ∧
    okE (recordsOf false 0 app) (sch0 app) = true ∧ schTurn (sch0 app) 0 app = true ∧ schTurn later 0 app = false ∧
    ran (exec (.idxappend 0) later) (fun t => (t.obj 0).head == 0 && !(t.estream engSch 0).done) = true ∧
    ran (exec (.idxappend 0) (sch0 app)) (fun t => (t.obj 0).head == 1 && (t.estream engSch 0).held.isNone) = true ∧
    ran (exec (.idxdelete 0) (sch0 del)) (fun t => (t.obj 0).head == 1 && t.dev.readLE (0x400000 + 0xA007) 1 == 128) = true ∧
    ran (exec (.idxappend 0) (sch0 app full)) (fun t => (t.estream engSch 0).code == fltSeal) = true ∧
    ran (exec (.idxappend 0) (sch0 app { full with merging := true })) (fun t => (t.estream engSch 0).wait == waitLog) = true ∧
    logFrees obj0 1 = true ∧ ran (exec (.waitlogEnd 0) (sch0 app obj0 0 {} waitLog)) (fun t => (t.obj 0).head == 1) = true ∧
    ran (exec (.idxseal 0) (sch0 seal_ ahead)) (fun t => (t.obj 0).sealPos == 2) = true ∧
    ran (exec (.idxseal 0) (sch0 late ahead)) (fun t => (t.estream engSch 0).code == fltSeal) = true ∧
    ran (exec (.idxmerge 0) (sch0 mrg)) (fun t => (t.estream engSch 0).done && !(t.obj 0).merging) = true ∧
    ran (exec (.idxmerge 0) (sch0 mrg ahead)) (fun t => (t.obj 0).merging && (t.obj 0).target == 2) = true ∧
    ran (exec (.idxmerge 0) (sch0 mrg { ahead with merging := true })) (fun t => (t.estream engSch 0).wait == waitMerge) = true ∧
    ran (exec (.waitmergeEnd 0) (sch0 mrg ahead 0 {} waitMerge)) (fun t => (t.obj 0).merging) = true ∧
    okE (readLogEnt 0 ahead 0) (sch0 mrg ahead) = true ∧
    ran (exec (.logEntryProgram 0) (sch0 mrg { ahead with restoring := true })) (fun t => (t.obj 0).flushed == 0) = true ∧
    ((sch0 app).look 0).queued = false ∧ ((sch0 app obj0 0 { recs := some [] }).look 0).recs = some [] ∧
    ran (exec (.idxappend 0) (sch0 app obj0 0 { queued := true })) (fun t => (t.obj 0).head == 1 && !(t.look 0).queued) = true ∧
    ran (exec (.logEntryProgram 0) (sch0 mrg ahead)) (fun t => (t.obj 0).flushed == 1) = true ∧
    ran (exec (.mergeDone 0 true) (sch0 mrg { ahead with merging := true, target := 0 })) (fun t => !(t.obj 0).merging) = true ∧
    ran (exec (.mergeDone 0 false) (sch0 mrg { ahead with merging := true, target := 0 })) (fun t => (t.obj 0).mfail) = true ∧
    ran (exec (.fetchkv 0) (sch0 fetch)) (fun t => (t.estream engSch 0).prog == 1 && (t.look 0).left == 1) = true ∧
    ran (exec (.fetchkv 0) (sch0 fetch obj0 3 { passage := 1, desc := desc })) (fun t => (t.estream engSch 0).done) = true ∧
    okE (nextBlock w obj0 fetch 257 { passage := 1 }) (sch0 fetch) = true ∧
    ran (exec (.fetchkv 0) (sch0 fetch obj0 1 k)) (fun t => (t.estream engSch 0).prog == 2) = true ∧
    ran (exec (.fetchkv 0) (sch0 fetch obj0 2 { k with cur := some { mask := 5, keys := [], vals := [], pages := [page0] }, desc := desc })) (fun t => (t.estream engSch 0).prog == 3 && (t.look 0).posted == 1) = true ∧
    vectorsBeside (sch0 mrg ahead) 0 = 0 := by
  unfold Runs
  repeat' apply And.intro
  all_goals decide +kernel

theorem test_witness_PortsServe :
    let line := 65536
    let pa := 0x400000
    let on := fun (p : Port) => State.setPort {} 64 p
    let held : PEntry := { line := line, valid := BitVec.allOnes 64 }
    let add : PReq := .atomic pa 8 0 1 0 none
    let fill : PEntry := { line := line, valid := 0, state := 2, pend := [add] }
    let bank := fun (b : Bank) => on { banks := [(5, b)] }
    let part : PEntry := { line := line, valid := 1 }
    let full := { on { entries := (List.range 64).map (fun i => { line := i, valid := 0 }), arr := [add] } with time := 9 }
    portOf {} (line * 64) = some (64, 43520) ∧ bankOf 43520 = 5 ∧ rowOf 43520 = 1 ∧
    wholeEntry (on { entries := [held] }) 64 line = true ∧ wholeEntry {} 64 line = false ∧ linePoisoned {} line = false ∧
    ((on { slices := [line] }).port 64).slices.contains line = true ∧ (Tab.get {} ({} : State).mplog 0).base = 0 ∧
    portBusy (on { arr := [.write pa [7]] }) 64 (lineOf pa) = false ∧ portBusy (on { arr := [add], entries := [held] }) 64 (lineOf pa) = false ∧
    wordValid (on { arr := [add], entries := [held] }) pa 8 = true ∧ wordValid (on { arr := [add], entries := [part] }) pa 8 = false ∧
    ran (exec (.portRead 64 line 1 0) {}) (fun t => (t.port 64).ce == 1 && (t.port 64).banks.map Prod.fst == [5]) = true ∧
    ran (exec (.portRead 64 line 9 0) (on { entries := [held] })) (fun t => t.poison == []) = true ∧
    ran (exec (.portRead 64 line 0 4) {}) (fun t => t.poison == [line] && (t.port 64).ue == 1) = true ∧
    ran (exec (.patrolScrub 64 line 2) {}) (fun t => (t.port 64).ce == 2 && t.poison == []) = true ∧
    ran (exec (.patrolScrub 64 line 9) {}) (fun t => t.poison == [line]) = true ∧
    ran (exec (.portWrite 64) (on { arr := [.write pa [7]], retired := true })) (fun t => t.dev == [] && (t.port 64).arr == []) = true ∧
    ran (exec (.portAtomic 64) (on { arr := [add], entries := [part] }))
      (fun t => t.dev == [] && (t.port 64).entries.map PEntry.state == [2] && (t.port 64).banks.map (fun b => b.2.queue) == [[⟨2, line⟩]]) = true ∧
    ran (exec (.fillReturn 64 line) { on { entries := [fill] } with poison := [line] }) (fun t => t.dev == []) = true ∧
    entryWanted full 64 = true ∧ (idlest (full.port 64).entries).map PEntry.line = some 0 ∧
    ran (exec (.entryDrain 64 0) full) (fun t => (t.port 64).entries.countP (fun e => e.state == 3) == 1) = true ∧
    ran (exec (.entryDrain 64 1) full) (fun t => (t.port 64).entries.countP (fun e => e.state == 3) == 0) = true ∧
    ran (exec (.portWrite 64) (on { arr := [.write pa [7]] })) (fun t => t.dev.readLE pa 1 == 7 && (t.port 64).arr == []) = true ∧
    ran (exec (.portAtomic 64) (on { arr := [add], entries := [held] })) (fun t => t.dev.readLE pa 8 == 1) = true ∧
    ran (exec (.portAtomic 64) (on { arr := [add], entries := [fill] })) (fun t => (t.port 64).entries.map (fun e => e.pend.length) == [2])
      = true ∧
    linePoisoned (on { entries := [fill] }) line = false ∧
    ran (exec (.fillReturn 64 line) (on { entries := [fill] })) (fun t => t.dev.readLE pa 8 == 1) = true ∧
    ran (exec (.entryDrain 64 line) { on { entries := [held] } with time := 2000 }) (fun t => (t.port 64).entries.map PEntry.state == [3])
      = true ∧
    ran (exec (.drainDone 64 line) (on { entries := [{ held with state := 3 }] })) (fun t => (t.port 64).entries == []) = true ∧
    ran (exec (.bankActivate 64 5) (bank { queue := [⟨0, line⟩], openRow := some 1 })) (fun t => (t.port 64).banks.map (fun b => b.2.queue)
      == [[]]) = true ∧ (countRow [] 1).2 < 2048 ∧
    ran (exec (.bankActivate 64 5) (bank { queue := [⟨0, line⟩] })) (fun t => (t.port 64).banks.map (fun b => b.2.openRow) == [some 1])
      = true ∧
    ran (exec (.bankActivate 64 5) (bank { queue := [⟨0, line⟩], rows := [(1, 2047)] })) (fun t => (t.port 64).alerts == 1) = true ∧
    ran (exec (.rfmWindowEnd 64 5) (bank { rfm := some 0 })) (fun t => (t.port 64).banks.map (fun b => b.2.rfm) == [none]) = true ∧
    ran (exec (.rfmWindowEnd 64 5) { bank { rfm := some 270, rfmWait := some 100 } with time := 270 }) (fun t => (t.port 64).boff == 170) = true ∧
    ran (exec (.refresh 64 5) (bank { openRow := some 1 })) (fun t => (t.port 64).banks.map (fun b => (b.2.openRow, b.2.busy)) == [(some 1, 120)])
      = true ∧
    ran (exec (.refresh 64 5) (bank { rfm := some 270 })) (fun t => (t.port 64).banks.map (fun b => b.2.rfm) == [some 330]) = true ∧
    ran (exec (.refresh 64 5) { bank { rfm := some 270 } with time := 60 }) (fun t => (t.port 64).banks.map (fun b => b.2.rfm) == [some 270]) = true ∧
    ran (exec (.countWindowEnd 64 5) { bank { rows := [(1, 5)] } with time := 32000000 }) (fun t => (t.port 64).banks.map (fun b => b.2.rows) == [[]]) = true ∧
    ran (exec (.countWindowEnd 64 5) (bank { rows := [(1, 5)] })) (fun t => (t.port 64).banks.map (fun b => b.2.rows) == [[(1, 5)]]) = true ∧
    ran (exec (.refresh 64 5) { bank { refreshed := some 9 } with time := 3908 }) (fun t => (t.port 64).banks.map (fun b => b.2.busy) == [0]) = true ∧
    ran (exec (.refresh 64 5) { bank { refreshed := some 9 } with time := 3909 }) (fun t => (t.port 64).banks.map (fun b => b.2.busy) == [4029]) = true ∧
    (let waits := fun (k : Nat) (e : PEntry) => on { entries := [e], banks := [(5, { queue := [⟨k, line⟩] })] }
     bankHolds (waits 2 fill) 64 line 2 = true ∧ bankHolds (on { entries := [fill] }) 64 line 2 = false ∧
       ran (exec (.fillReturn 64 line) (waits 2 fill)) (fun t => t.dev == [] && (t.port 64).entries == [fill]) = true ∧
       ran (exec (.drainDone 64 line) (waits 1 { held with state := 3 })) (fun t => (t.port 64).entries.length == 1) = true) ∧
    readSeen (on { seen := [line] }) 64 line = true ∧ (noteRead (on { seen := [line] }) (line * 64) true).port 64 = {} ∧
    readSeen {} 64 line = false ∧
    (let logged := { on {} with mplog := [(0, { base := 0x100000, head := 3 })] }
     (0x100000 : Nat) % 16 = 0 ∧ ran (exec (.portRead 64 line 9 0) logged) (fun t => t.dev.readLE 0x100030 1 == 1 && t.dev.readLE 0x100032 1 == 64
       && (Tab.get {} t.mplog 0).head == 4) = true) ∧
    ran (exec (.channelRetire 64) (on { entries := [held], ueTimes := List.replicate 17 0 })) (fun t => (t.port 64).retired && (t.port 64).entries == []) = true := by
  repeat' apply And.intro
  all_goals decide +kernel

theorem test_witness_LinksServe :
    let on := fun (m : LinkMod) => State.setMod {} 3 m
    let routed : State := { routes := [(2, 1)], indom := true }
    ran (exec (.flitReceive 3 false) (on {})) (fun t => (t.mod 3).seq == 1) = true ∧
    ran (exec (.flitReceive 3 true) (on {})) (fun t => (t.mod 3).nak) = true ∧
    ran (exec (.flitReceive 3 false) (on { paused := true })) (fun t => (t.mod 3).seq == 0) = true ∧
    ran (exec (.flitReplay 3) (on { nak := true })) (fun t => (t.mod 3).count == 1 && !(t.mod 3).retrain) = true ∧
    ran (exec (.flitReplay 3) (on { nak := true, replays := List.replicate 64 0 })) (fun t => (t.mod 3).retrain) = true ∧
    ran (exec (.moduleRetrain 3) (on { retrain := true })) (fun t => (t.mod 3).paused) = true ∧
    ran (exec (.modulePauseEnd 3) (on { paused := true })) (fun t => !(t.mod 3).paused) = true ∧ (linkOf 3).1 = 0 ∧
    ran (exec (.laneFail 3 5) (on {})) (fun t => (t.mod 3).failed == 32 && (t.mod 3).state == 0) = true ∧
    widthState true 0 = 0 ∧ widthState true 1 = 1 ∧ widthState false 3 = 0 ∧
    ran (exec (.fabricLaneFail 1 2) {}) (fun t => (t.mod 161).state == 1) = true ∧
    ran (exec (.fabricLaneFail 1 2) (State.setMod {} 161 { failed := 16, state := 1 })) (fun t => (t.mod 161).state == 2) = true ∧
    liveRoutes { routed with routes := [(2, 3)] } 2 = [0, 1] ∧ liveRoutes routed 2 = [0] ∧
    ran (exec (.routeFail 2 0) { routed with routes := [(2, 3)] }) (fun t => t.unreach == 0) = true ∧
    ran (exec (.routeFail 2 0) routed) (fun t => t.unreach == 4) = true ∧
    ran (exec (.timeExchange 5) routed) (fun t => t.time == 5) = true ∧ ran (exec (.timeExchange 5) {}) (fun t => t.time == 0) = true := by
  decide +kernel

/-- LNK's stream 0 runs a command beside a die queue and a group. -/
def lnk0 (c : Cmd) (p : DqPair := {}) (wait : Nat := 0) (g : CollGroup := {}) (peers : List PeerColl := []) : State :=
  (mapped { pools with peers := peers } |>.setDq 0 { p with opened := true, ctx := 1 }).setGroup 0 { g with opened := true, ctx := 1, members := 1 }
    |>.setEstream engLnk 0 { run := some c, wait := wait }

theorem test_witness_LinkCommandsResults :
    let put := cmd 1 0 [0, far 0xE000]
    let ver := cmd 1 (2 ^ 46) [BitVec.ofNat 64 (2 ^ 32), 9]
    let get := cmd 2 0 [far 0xF000]
    let getv := cmd 2 (2 ^ 46) [0]
    let d : DqDraft := ⟨0, 1, [1, 0, 0, 0], 0⟩
    let v : DqVerdict := ⟨0, 1, true, 9⟩
    let coll := cmd 3 0 [far 0xE000, far 0xF000, 8]
    let bar := cmd 3 (8 * 2 ^ 43) [0, 0, 0]
    let post := cmd 4 (2 ^ 46) [5, 0]
    let store := cmd 4 0 [far 0xF000, 7]
    let add := cmd 4 (2 ^ 45) [far 0xF000, 7]
    let peer : PeerColl := ⟨0, 0, 0, coll.collOp, coll.root, List.replicate coll.len 0⟩
    Runs (lnk0 put) engLnk 0 put ∧ put.kind1 = false ∧ ver.kind1 = true ∧ get.kind1 = false ∧ getv.kind1 = true ∧ winDiff 0 0xFFFFFFFF = 1 ∧
    ran (exec (.dqputDraft 0) (lnk0 put)) (fun t => (t.dq 0).nextw == 1 && (t.dq 0).drafts.length == 1) = true ∧
    ran (exec (.dqputDraft 0) (lnk0 put { drafts := [d, d, d, d] })) (fun t => (t.estream engLnk 0).wait == waitDq) = true ∧
    ran (exec (.dqputDraft 0) (lnk0 put { nextw := 3 })) (fun t => (t.estream engLnk 0).code == fltBadCmd) = true ∧
    ran (exec (.dqputVerdict 0) (lnk0 ver { tw := 0, taken := [(0, 1)] })) (fun t => (t.dq 0).verdicts.map DqVerdict.full == [true]) = true ∧
    ran (exec (.dqputVerdict 0) (lnk0 ver { tw := 0, taken := [(0, 1)], verdicts := [v, v, v, v] })) (fun t => (t.estream engLnk 0).wait == waitDq)
      = true ∧
    (takeDraft 0 [] 0).1 = none ∧ (takeDraft 0 [d] 0).1 = some d ∧
    ran (exec (.dqgetDraft 0) (lnk0 get)) (fun t => (t.estream engLnk 0).wait == waitDq) = true ∧
    ran (exec (.dqgetDraft 0) (lnk0 get { drafts := [d] })) (fun t => t.dev.readLE (0x400000 + 0xF004) 1 == 1 && (t.dq 0).tw == 0) = true ∧
    ran (exec (.dqgetVerdict 0) (lnk0 getv)) (fun t => (t.estream engLnk 0).wait == waitDq) = true ∧
    ran (exec (.dqgetVerdict 0) (lnk0 getv { verdicts := [v] })) (fun t => (t.dq 0).verdicts == []) = true ∧
    ran (exec (.waitdqEnd 0) (lnk0 get { drafts := [d] } waitDq)) (fun t => (t.dq 0).drafts == []) = true ∧
    ran (exec (.coll 0) (lnk0 coll)) (fun t => t.peers == [peer] && (t.group 0).seq == 1) = true ∧
    ran (exec (.coll 0) (lnk0 bar)) (fun t => t.peers.length == 1) = true ∧ ((lnk0 coll).group 0).list = [0] ∧
    ran (exec (.collComplete 0) (lnk0 coll {} waitPeer {} [peer])) (fun t => t.peers == [] && (t.estream engLnk 0).done) = true ∧
    ran (exec (.collComplete 0) (lnk0 coll {} waitPeer {} [{ peer with op := 8 }])) (fun t => (t.estream engLnk 0).code == fltBadCmd) = true ∧
    ran (exec (.withdrawNotice 0) (State.setGroup {} 0 { opened := true })) (fun t => (t.group 0).withdrawn) = true ∧
    (let coll := cmd 3 0 [far 0xE000, far 0xF000, 64]
     let u := (heading pools engLnk coll).setGroup 0 { opened := true, withdrawn := true, ctx := 1, members := 1 }
     nextCmd u engLnk 0 = some coll ∧ pushDenied u engLnk coll = false ∧ coll.op = 3 ∧ collCheck u coll = some (fltWithdrawn, 0) ∧
       nextCmd (freeRange u (whoL 1) (coll.w 2) (collSpan u coll)) engLnk 0 = some coll ∧
       collCheck (freeRange u (whoL 1) (coll.w 2) (collSpan u coll)) coll = some (fltWithdrawn, 0)) ∧
    ran (exec (.wakepost 0) (lnk0 post)) (fun t => t.msix == [5]) = true ∧
    ran (exec (.wakepost 0) (lnk0 store)) (fun t => t.dev.readLE (0x400000 + 0xF000) 8 == 7) = true ∧
    ran (exec (.wakepost 0) (lnk0 add)) (fun t => t.dev.readLE (0x400000 + 0xF000) 8 == 7) = true ∧
    ran (exec (.wakepost 0) (hosted (lnk0 (cmd 4 (2 ^ 45) [0x40001000, 7]))))
      (fun t => (t.estream engLnk 0).wait == waitHost && (Tab.find t.hostReqs 0).map OutReq.addr == some 0x40001000) = true ∧
    ran (exec (.lnkstat 0) (lnk0 (cmd 5 (2 ^ 44) []))) (fun t => (t.estream engLnk 0).held.isSome) = true ∧
    ran (exec (.lnkstat 0) (lnk0 (cmd 5 (2 ^ 45) []))) (fun t => (t.estream engLnk 0).held.isSome) = true := by
  unfold Runs
  repeat' apply And.intro
  all_goals decide +kernel

/-- XFERL's stream 0: block 0 of a sequence goes to block 1 of another over pools of two blocks. -/
def xfr0 (x : Xrun := {}) (wait : Nat := 0) (data : List W64 := []) (arrive : Nat := 0) : State :=
  let m := farMem [
    (0x1000, 8, 0x80000000), (0x1008, 8, 0x80004000), (0x1010, 8, 2 + 2 ^ 32 + 2 ^ 36), (0x1018, 8, 0x400000 + 0x3000),
    (0x1020, 8, 1), (0x2000, 8, 64), (0x2018, 8, 0x400000 + 0x2100), (0x2020, 8, 2), (0x2028, 8, 0x400000 + 0x1000), (0x2100, 8, 2 ^ 32),
    (0x2108, 8, 2 ^ 64 - 1), (0x4018, 8, 0x400000 + 0x4100), (0x4020, 8, 2), (0x4028, 8, 0x400000 + 0x1000), (0x4100, 8, 3 * 2 ^ 32 + 1),
    (0x4110, 8, arrive)]
  (State.setXrun (mapped { dev := m.writeLE 0 8 0x77 }) 0 x).setEstream engXfr 0
    { run := some (cmd 1 0 [far 0x2000, far 0x4000]), prog := 1, wait := wait, data := data }

/-- The rows of a block are read and written. -/
theorem test_witness_TransferSendsBlocks_rows :
    okE (engRead (whoX 1) 0x80000000 4096) xfr0 = true ∧ okE (engWrite (whoX 1) 0x80001000 (List.replicate 4096 0)) xfr0 = true := by
  repeat' apply And.intro
  all_goals decide +kernel

theorem test_witness_TransferSendsBlocks :
    let c := cmd 1 0 [far 0x2000, far 0x4000]
    let arr : List W64 := [0, 0, 0, 0, 0, 0, 0, 0, far 0x4100]
    let away := (withMem (xfr0) [(0x2100, 8, 3 * 2 ^ 32)])
    let dp : Pool := (match (readPool (whoX 1) (far 0x1000)) xfr0 with | (.ok p, _) => p | _ => default)
    let sent : Xrun := { next := 1, ors := [⟨c, far 0x4110 - 16, dp, 1⟩] }
    Runs (xfr0) engXfr 0 c ∧ okE (xferFirst 0 c) xfr0 = true ∧
    (match (do
        let ss ← readSeq (whoX 1) (far 0x2000)
        let sp ← readPool (whoX 1) ss.pool
        let ds ← readSeq (whoX 1) (far 0x4000)
        let dp ← readPool (whoX 1) ds.pool
        let e ← resolveBlk (whoX 1) sp ss 0
        let d ← readEntry (whoX 1) ds.tbl 0
        pure (e.isSome && (e.map fun x => x.1.xfr) == some false && d.v && d.xfr && decide (d.pblk < dp.nblk) && sp.geom == dp.geom
          && decide (0 < ds.tcap) && decide (c.layer < sp.layers)) : Eng Bool) xfr0 with | (.ok b, _) => b | _ => false) = true ∧
    ran (exec (.xferl 0) away) (fun t => (t.estream engXfr 0).wait == waitArr && (t.xrun 0).found.isSome && (t.xrun 0).seqs.isSome) = true ∧
    ran (exec (.xferl 0) (xfr0 { next := 1 })) (fun t => (t.estream engXfr 0).done) = true ∧
    ran (exec (.xferl 0) (xfr0 sent)) (fun t => !(t.estream engXfr 0).done) = true ∧
    ran (exec (.arriveOr 0) (xfr0 sent)) (fun t => t.dev.readLE (0x400000 + 0x4110) 1 == 1 && (t.xrun 0).ors == []) = true ∧
    (match readEntry (whoX 1) (far 0x4100) 0 xfr0 with | (.ok d, _) => d.v && d.pblk == 1 | _ => false) = true ∧
    ran (exec (.arriveOr 0) (xfr0 { sent with ors := [⟨c, 0, dp, 1⟩] })) (fun t => (t.estream engXfr 0).stopped && (t.xrun 0).ors == []) = true ∧
    okE (readEntry (whoX 1) (carried (xfr0 {} waitArr arr) engXfr 0 8) 0) (xfr0 {} waitArr arr) = true ∧
    runRoom (xfr0 {} waitArr arr) engXfr 0 = true ∧ okE (readEntry (whoX 1) 0 0) (xfr0 {} waitArr [0, 0, 0, 0, 0, 0, 0, 0, 0]) = false ∧
    ran (exec (.xfrArriveWaitEnd 0) (xfr0 {} waitArr [0, 0, 0, 0, 0, 0, 0, 0, 0])) (fun t => (t.estream engXfr 0).stopped) = true ∧
    ran (exec (.xfrArriveWaitEnd 0) (xfr0 {} waitArr arr)) (fun t => (t.estream engXfr 0).wait == waitArr) = true ∧
    ran (exec (.xfrArriveWaitEnd 0) (xfr0 {} waitArr arr 1)) (fun t => (t.estream engXfr 0).wait == 0) = true := by
  unfold Runs
  repeat' apply And.intro
  all_goals decide +kernel

theorem test_witness_RemoteRequestsServed :
    let s := mapped {}
    let asks := fun (r : OutReq) => tA { out := some r }
    let far8 : OutReq := { kind := 3, addr := 2 ^ 51, size := 8 }
    ctxLive s 1 = true ∧ ctxLive {} 1 = false ∧
    (match arriving s 1 0 0x900000 8 .read with | (_, .ok _) => true | _ => false) = true ∧
    (match arriving { s with dev := s.dev.writeLE 0x30000 8 0xA0000000000000C3 } 1 1 0x900000 8 .fetch with | (_, .ok _) => true | _ => false) = true ∧
    (match arriving s 1 0 0x900000 8 .write with | (u, .ok (.dev pa _)) => (portAtomic u pa 8 0 5 0).2.isSome | _ => false) = true ∧
    (match arriving { s with poison := [0x24000] } 1 0 0x900000 8 .write with
      | (u, .ok (.dev pa _)) => (portAtomic u pa 8 0 5 0).2.isNone | _ => false) = true ∧
    (match arriving (hosted {}) 1 0 0x40000000 8 .write with | (_, .ok (.host _)) => true | _ => false) = true ∧
    ran (exec (.remoteRequest 1 0 0x40000000 2 0 8 5 0) (hosted {})) (fun t => t.answer == some (fltAccess.toNat, [])) = true ∧
    (match arriving s 2 0 0x900000 8 .read with | (_, .error c) => c == fltRemote | _ => false) = true ∧ (readDesc s 2).2 = none ∧ ctxLive s 2 = false ∧
    ran (exec (.remoteRequest 1 0 0x900000 0 0 8 0 0) s) (fun t => t.answer == some (0, List.replicate 8 0)) = true ∧
    ran (exec (.remoteRequest 1 0 0x900000 1 0 8 7 0) s) (fun t => t.dev.readLE 0x900000 8 == 7) = true ∧
    ran (exec (.remoteRequest 1 0 0x900000 2 0 8 5 0) s) (fun t => t.dev.readLE 0x900000 8 == 5 && t.answer == some (0, List.replicate 8 0)) = true ∧
    ran (exec (.remoteResponse 0 0 0 0) (asks far8)) (fun t => (t.thread 0 0).out.map OutReq.reply == some (some (0, 0))) = true ∧
    ran (exec (.remoteResponse 0 0 0 0) (asks { far8 with kind := 4, val := 5 })) (fun t => t.remote.readLE (2 ^ 51) 8 == 5) = true ∧
    ran (exec (.remoteResponse 0 0 0 0) (asks { far8 with kind := 5, val := 5 })) (fun t => t.remote == [] && (t.thread 0 0).out.map OutReq.reply == some (some (0, 0))) = true ∧
    (let ent : StoreEnt := { ea := BitVec.ofNat 64 (2 ^ 51 + 0x400000), size := .b8, data := some 9, pc := 0, sent := true }
     let sent : SaOp := .store ent
     let u := tA { out := some far8, saq := [sent] }
     let w := tA { out := some far8, saq := [.store { ent with ea := 0x500000, sent := false }, sent] }
     u.curT.saq[0]? = some sent ∧ guardOf u 0 u.curT 0 (u.curT.saq.take 0) = .clear ∧ w.curT.saq[1]? = some sent ∧ w.curT.cancelled = false ∧
       (match guardOf w 0 w.curT 0 (w.curT.saq.take 1) with | .fault .. => true | _ => false) = true ∧
       ran (exec (.remoteResponse 0 0 2 2) w) (fun t => t.curT.pends == [] && t.curT.saq.length == 2) = true ∧
       ran (exec (.remoteResponse 0 0 1 0) u) (fun t => t.remote.readLE (2 ^ 51 + 0x400000) 8 == 9 && t.curT.saq == []) = true ∧
       ran (exec (.remoteResponse 0 0 1 2) u) (fun t => t.curT.pends.any Pend.weak) = true) ∧
    ran (exec (.remoteResponse 0 0 0 2) (asks far8)) (fun t => (t.thread 0 0).out.map OutReq.reply == some (some (fltAccess, 0))) = true := by
  decide +kernel

theorem test_witness_HostRequestsServed :
    let bar := fun (mode : Nat) => ({ bar2 := [(0, (0x900000, mode))] } : State)
    let asks := fun (r : OutReq) => tA { out := some r }
    let r : OutReq := { kind := 0, addr := 64, size := 8 }
    barPlace (bar 2) 8 1 = (0x900008, 2) ∧ barPlace (bar 1) 8 1 = (0x900008, 1) ∧ barPlace {} 8 1 = (8, 0) ∧
    (portAtomic (bar 2) 0x900008 8 0 3 0).2.isSome = true ∧ (portAtomic { bar 2 with poison := [0x24000] } 0x900008 8 0 3 0).2.isNone = true ∧
    barPlace { bar 2 with svState := 4 } 8 1 = (0, 0) ∧
    ran (exec (.hostMemWrite 8 [7]) (bar 2)) (fun t => t.dev.readLE 0x900008 1 == 7) = true ∧
    ran (exec (.hostMemWrite 8 [7]) (bar 1)) (fun t => t.dev == []) = true ∧
    ran (exec (.hostMemWrite 8 [7]) {}) (fun t => t.answer == some (unsupported, [])) = true ∧
    ran (exec (.hostMemRead 8 1) (bar 1)) (fun t => t.answer == some (0, [0])) = true ∧
    ran (exec (.hostAtomicop 8 0 8 3 0) (bar 2)) (fun t => t.dev.readLE 0x900008 8 == 3) = true ∧
    ran (exec (.hostReadCompletion 0 0) { asks r with host := [(64, 9)] }) (fun t => (t.thread 0 0).out.map OutReq.reply == some (some (0, 9)))
      = true ∧
    hostReq (asks { r with kind := 1 }) 0 = some { r with kind := 1 } ∧
    ran (exec (.hostAtomicCompletion 0 0) (asks { r with kind := 1, val := 4 })) (fun t => t.host.readLE 64 8 == 4) = true ∧
    ran (exec (.hostAtomicCompletion 0 1) (asks { r with kind := 1 })) (fun t => (t.thread 0 0).out.map OutReq.reply == some (some (fltHostUr, 0)))
      = true ∧
    ran (exec (.hostAtomicTimeout 0 true) { asks { r with kind := 1, val := 4 } with hostMode := true }) (fun t => t.host.readLE 64 8 == 4
      && t.fbq == [0]) = true ∧
    ran (exec (.fallbackReadDone 0 0) { asks { r with kind := 2, val := 4 } with fbq := [0] }) (fun t => t.host == [] && t.fbcnt == 0 &&
      (t.thread 0 0).out == some { r with kind := 6, val := 4 }) = true ∧
    ran (exec (.fallbackReadDone 0 0) { asks { r with kind := 6, val := 4, val2 := 3 } with fbq := [0], host := [(64, 9)] })
      (fun t => t.host.readLE 64 8 == 7 && t.fbcnt == 1 && t.fbq == []) = true ∧
    ran (exec (.fallbackReadDone 0 1) { asks { r with kind := 2 } with fbq := [0] }) (fun t => t.fbq == []) = true := by decide +kernel

/-- CTX's stream 0 runs a command, beside core 1's exchange. -/
def ctx0 (c : Cmd) (w : Swap := {}) (s : State := {}) : State := (running (mapped s) engCtx c).setSwap 1 w

/-- Clauses that read a whole image are witnessed by their first steps alone: an image is over a megabyte. -/
theorem test_witness_ContextExchangeRuns :
    let c := cmd 1 (2 ^ 38) [0, 0]
    let out := cmd 1 (2 ^ 38) [0x1000000, 0]
    let spill := cmd 2 (2 ^ 38) [0x1000000]
    let inn := cmd 1 (2 ^ 38) [0, 0x1000000]
    let swap : Swap := {
      phase := 3, swaps := true, bank := [{ live := true, ctx := 1 }], image := { threads := [], elems := [(5, ⟨[7], 0, 0, false⟩)] } }
    let far_ := cmd 1 (2 ^ 38) [0, 0x500000000]
    let start := fun (c : Cmd) => heading (mapped {}) engCtx c
    let at_ := fun (c : Cmd) (p : Nat) => ctx0 c { phase := p }
    let park : Park := { core := 1, slot := 0, disp := 3, hand := false, isElem := false, arg := 2, words := [5] }
    let left : OutThread := { core := 1, slot := 0, disp := 3, ctx := 1, image := 0x1000000 }
    swapCheck (start c) c = none ∧ swapCheck (start (cmd 1 0 [0, 0])) (cmd 1 0 [0, 0]) = some (fltBadCmd, 0) ∧
    ran (exec (.ctxswap 0) (start c)) (fun t => (t.estream engCtx 0).run == some c && (t.swap 1).line == [0]) = true ∧
    ran (exec (.ctxspill 0) (start spill)) (fun t => (t.estream engCtx 0).run == some spill) = true ∧
    ran (exec (.ctxswap 0) (start (cmd 1 0 [0, 0]))) (fun t => (t.estream engCtx 0).code == fltBadCmd) = true ∧
    (Heads (start c) engCtx 0 c ∧ Heads (start spill) engCtx 0 spill) ∧ Runs (ctx0 c) engCtx 0 c ∧ okX (readGrant (ctx0 c) 1 3) (fun x => x.2) = true ∧
    okX (readGrant (State.setEstream {} engCtx 0 { run := some c }) 1 3) (fun x => !x.2) = true ∧
    (out.inAt = 0 ∧ inn.inAt ≠ 0 ∧ c.swaps = true ∧ spill.swaps = false ∧ Swaps (ctx0 spill { phase := 3 }) 1 3 spill) ∧
    (match parkArea (whoC 1) inn.inAt (ctx0 inn) with | (.ok ps, _) => ps == [] | _ => false) = true ∧
    (match parkArea (whoC 1) far_.inAt (ctx0 far_) with | (.error _, _) => true | _ => false) = true ∧
    ran (exec (.bankExchangeDone 1) ((ctx0 spill { phase := 3 }).setThread 1 0 { live := true })) (fun t => (t.swap 1).phase == 4 && (t.thread 1 0).live) = true ∧
    ran (exec (.bankExchangeDone 1) (ctx0 inn swap))
      (fun t => (t.thread 1 0).live && (t.result 1 5) == [⟨[7], 0, 0, false⟩] && (t.swap 1).phase == 4) = true ∧
    ran (exec (.ctxswap 0) (State.setEstream {} engCtx 0 { run := some c })) (fun t => (t.estream engCtx 0).code == fltPriv) = true ∧
    ran (exec (.ctxswap 0) (ctx0 c)) (fun t => (t.swap 1).phase == 2 && (t.core 1).stopped) = true ∧
    ran (exec (.ctxswap 0) (ctx0 out)) (fun t => (t.swap 1).phase == 2) = true ∧
    ran (exec (.ctxspill 0) ((ctx0 spill).setCore 1 { owner := 1 })) (fun t => (t.swap 1).phase == 2 && (t.swap 1).cid == 1) = true ∧
    Swaps (at_ c 1) 1 1 c ∧ Swaps (at_ c 6) 1 6 c ∧
    ran (exec (.slotsStopped 1) (at_ c 2)) (fun t => (t.swap 1).phase == 3 && (t.swap 1).bankEnd == 46) = true ∧
    ran (exec (.slotsStopped 1) ((at_ c 2).setThread 1 0 { live := true, atomsOut := 1 })) (fun t => (t.swap 1).phase == 2) = true ∧
    ran (exec (.bankExchangeDone 1) ((at_ c 3).setThread 1 0 { live := true })) (fun t => (t.swap 1).phase == 4 && !(t.thread 1 0).live) = true ∧
    ran (exec (.bankExchangeDone 1) (ctx0 c { phase := 3, bankEnd := 46 })) (fun t => (t.swap 1).phase == 3) = true ∧
    ran (exec (.coreDrainDone 1) (at_ c 4)) (fun t => (t.swap 1).phase == 5) = true ∧
    ran (exec (.imageSaveDone 1) (at_ c 5)) (fun t => (t.swap 1).phase == 6) = true ∧
    ran (exec (.imageRestoreDone 1) (at_ c 6)) (fun t => (t.swap 1).phase == 0 && (t.estream engCtx 0).done) = true ∧
    ran (exec (.parkEntry 1) { ctx0 c with parks := [park] }) (fun t => t.parks == []) = true ∧
    parkReady { ctx0 c with parks := [park], outs := [left] } left = true ∧
    ran (exec (.parkEntry 1) { ctx0 c with parks := [park], outs := [left] }) (fun t => t.parks == [] && t.dev.readLE 0x100000C 4 == 1 &&
      t.outs.map OutThread.parked == [1]) = true := by
  unfold Runs Swaps Heads; decide +kernel

theorem test_witness_DeclarationsKept :
    let add := cmd 3 0 [0x900000]
    let rem := cmd 3 (2 ^ 45) [0]
    let clr := cmd 3 (2 ^ 46) [0]
    let decl := fun (k : Nat) => ({} : State).dev.writeLE 0x900000 8 k
    let ext : Extent :=
      { handle := 0, ctx := 1, base := 0x1000000, size := 64, tag := 0, image := false, core := 0, spad := false, prio := 0, pieces := [(0x1000000, 64)] }
    let limit := fun (s : State) => { s with dev := s.dev.writeLE (0x10000 + 64 + 40) 8 4096 }
    let on := fun (c : Cmd) (size : Nat) (es : List Extent) =>
      limit (ctx0 c {} { dev := (decl 0x1000000).writeLE 0x900008 8 size, extents := es })
    let e : RptEntry :=
      { ctx := 1, tag := 0, size := 64, written := 64, handle := 0, prio := 0, cls := 0, image := false, core := 0, flags := 0, seq := 0, base := 0 }
    let load := cmd 4 (2 ^ 45) [0x900000]
    let rep := fun (e : RptEntry) => ({ ctx0 load with
      report := some ⟨1, 0, [e]⟩, halves := [(0, [{ num := 0, epoch := 1, seq := 0, idx := 0, bytes := List.replicate 128 7, moved := false }])] } : State)
    Runs (ctx0 add) engCtx 0 add ∧ ctxGrant (ctx0 add) 1 2 = true ∧
    ran (exec (.mustsaveAdd 0) (State.setEstream {} engCtx 0 { run := some add })) (fun t => (t.estream engCtx 0).code == fltPriv) = true ∧
    ran (exec (.mustsaveAdd 0) (on add 64 [])) (fun t => t.extents == [ext]) = true ∧
    ran (exec (.mustsaveAdd 0) (on add 63 [])) (fun t => (t.estream engCtx 0).code == fltBadCmd) = true ∧
    ran (exec (.mustsaveAdd 0) (on add 64 [ext])) (fun t => (t.estream engCtx 0).code == fltMustSave) = true ∧
    ran (exec (.mustsaveAdd 0) (on add 8192 [])) (fun t => (t.estream engCtx 0).code == fltMustSave) = true ∧
    ran (exec (.mustsaveRemove 0) (on rem 0 [])) (fun t => (t.estream engCtx 0).code == fltBadCmd) = true ∧
    ran (exec (.mustsaveRemove 0) (on rem 0 [{ ext with ctx := 2 }])) (fun t => (t.estream engCtx 0).code == fltAccess) = true ∧
    ran (exec (.mustsaveRemove 0) (on rem 0 [ext])) (fun t => t.extents == []) = true ∧
    ran (exec (.mustsaveClear 0) (on clr 0 [ext])) (fun t => t.extents == []) = true ∧
    ran (exec (.shutstatStatus 0) (ctx0 (cmd 4 0 [0]))) (fun t => (t.estream engCtx 0).held.isSome) = true ∧
    ran (exec (.shutstatLoad 0 0) (ctx0 load)) (fun t => (t.estream engCtx 0).code == fltBadCmd) = true ∧
    ran (exec (.shutstatLoad 0 0) (rep { e with cls := 2 })) (fun t => (t.estream engCtx 0).code == fltBadCmd) = true ∧
    ran (exec (.shutstatLoad 0 0) (rep { e with ctx := 2 })) (fun t => (t.estream engCtx 0).code == fltAccess) = true ∧
    ran (exec (.shutstatLoad 0 0) (rep e)) (fun t => t.dev.readLE 0x900000 1 == 7) = true ∧
    ran (exec (.shutstatLoad 0 1) (rep e)) (fun t => (t.estream engCtx 0).code == fltUncorr) = true := by
  unfold Runs
  repeat' apply And.intro
  all_goals decide +kernel

theorem test_witness_ShutterSequence :
    let at_ := fun (p : Nat) => ({ shut := { phase := p, planB := 64 } } : State)
    let busy : State := { at_ 1 with swaps := [(0, { phase := 3 })] }
    ran (exec .shutterTrap {}) (fun t => t.shut.phase == 1) = true ∧ ran (exec .shutterTrap (at_ 2)) (fun t => t.shut.phase == 2) = true ∧
    allAtRest (at_ 1) = true ∧ allAtRest busy = false ∧
    ran (exec (.shutterSwitchIn 2400 5400) (at_ 1)) (fun t => t.shut.phase == 2 && Tab.get 0 t.islands 35 == 2) = true ∧
    ran (exec (.bankWatchCut 64) (at_ 2)) (fun t => t.shut.cut == some 64) = true ∧
    ran (exec (.pageProgramFail 3) (at_ 2)) (fun t => t.shut.fails == [3]) = true ∧
    ran (exec (.shutterPowerDown 3000) (at_ 2)) (fun t => t.epoch == 1 && t.svState == 0 && t.vbank == 3000) = true ∧
    planBytes 1 3000 5 = 0 := by decide +kernel

/-- The supervisor's ring holds a request. -/
def asking (ws : List Nat) (s : State := {}) : State :=
  { s with svState := if s.svState = 0 then 2 else s.svState, reqtail := 1, host := ws.zipIdx.foldl (fun (m : Mem) x => m.writeLE (8 * x.2) 8 x.1) s.host }

/-- Bytes of zeros are the value 0. -/
theorem leValue_zeros (n : Nat) : leValue (List.replicate n (0 : Byte)) = 0 := by
  induction n with
  | zero => rfl
  | succ n ih => rw [List.replicate_succ, leValue, ih]; rfl

theorem hdrField_zeros (n off k : Nat) : hdrField (List.replicate n (0 : Byte)) off k = 0 := by
  simp only [hdrField, List.drop_replicate, List.take_replicate, leValue_zeros]

/-- The record of SETMASK's witness is one it takes. -/
theorem test_witness_SupervisorRequestsServed_record : recordOk (List.replicate 4096 0) = true := by
  simp only [recordOk, recModule, hdrField_zeros, Nat.zero_div, BEq.rfl, List.all_eq_true, List.drop_replicate, Bool.true_and, Bool.and_eq_true]
  exact ⟨fun _ _ => trivial, fun x hx => by rw [List.eq_of_mem_replicate hx]; rfl⟩

theorem test_witness_SupervisorRequestsServed :
    let w0 := fun (code : Nat) => code * 2 ^ 56
    let status := fun (t : State) => t.host.readLE 6 1
    let done := fun (i : Instr) (s : State) (p : State → Bool) => ran (exec i s) (fun t => status t == 0 && t.reqhead == 1 && p t)
    let refuses := fun (i : Instr) (s : State) (n : Nat) => ran (exec i s) (fun t => status t == n)
    let tab : State := { ctxtab := 0x10000 }
    Serves (asking [w0 1, 5, 0xFC] tab) 1 ∧
    done .ctxopen (asking [w0 1, 5, 0xFC] tab) (fun t => ctxLive t 5) = true ∧ refuses .ctxopen (asking [w0 1, 1, 0xFC] (granted {})) 1 = true ∧
    done .ctxclose (asking [w0 2, 1] (granted {})) (fun t => !ctxLive t 1) = true ∧ ctxTasks (endCtx (asking [w0 2, 1] (granted {})) 1) 1 = false ∧
    (let busy := asking [w0 2, 1] (granted (qmg0 [(0, { task0 (rec0 0) 4 with core := 0, slot := 0 })] {} (tA { task := (0, 0) })))
     ctxTasks (endCtx busy 1) 1 = true ∧ ran (exec .ctxclose busy) (fun t => t.reqhead == 0 && t.curT.cancelled) = true) ∧
    done .inval (asking [w0 3, 1, 0, 65536] (onDev {})) (fun _ => true) = true ∧ (accTargets 0).isSome = true ∧
    (let u := asking [w0 3, 1, 0, 65536] (tA { out := some { kind := 0, addr := 0, ea := 64, size := 8 } })
     rangeInUse u 1 0 65536 none = true ∧ rangeInUse (asking [w0 3, 1, 0, 65536]) 1 0 65536 none = false ∧
       ran (exec .inval u) (fun t => t.reqhead == 0) = true) ∧
    done .accset (asking [w0 4, 0, 1, 0x3FFF]) (fun t => accessEntry t 0 1 == 0x3FFF) = true ∧
    done .mapbar (asking [w0 5, 3, 0x10000, 2]) (fun t => Tab.get (0, 0) t.bar2 3 == (0x10000, 2)) = true ∧
    done .objopen (asking [w0 6, 3, 1]) (fun t => (t.obj 3).live) = true ∧
    refuses .objopen (asking [w0 6, 3, 1] (State.setObj {} 3 { live := true })) 1 = true ∧
    done .dqopen (asking [w0 7, 3, 1]) (fun t => (t.dq 3).opened) = true ∧
    refuses .dqopen (asking [w0 7, 3, 1] (State.setDq {} 3 { opened := true })) 1 = true ∧
    done .ownset (asking [w0 8, 0, 1] { spad := [(5, 7)] }) (fun t => (t.core 0).owner == 1 && t.spad.read 5 == 0) = true ∧
    done .ownset (asking [w0 8, 0, 0] { spad := [(5, 7)] }) (fun t => t.spad.read 5 == 7) = true ∧
    done .retire (asking [w0 9, 2]) (fun t => (t.port 2).retired) = true ∧
    done (.clrsuspect 0) (asking [w0 10, 2] (State.setCore {} 2 { suspect := true })) (fun t => !(t.core 2).suspect && (t.mat 2).katok == 16) = true ∧
    refuses (.clrsuspect 0x8000) (asking [w0 10, 2]) 1 = true ∧ ran (exec (.clrsuspect 0x8000) (asking [w0 10, 2])) (fun t => (t.core 2).suspect) = true ∧ pointOk 0 1 = true ∧ pointOk 0 9 = false ∧
    done .island (asking [w0 11, 0, 1]) (fun t => Tab.get 0 t.islands 0 == 1) = true ∧ refuses .island (asking [w0 11, 0, 9]) 2 = true ∧
    Asked (asking [w0 13]) 13 ∧ Asked (asking [w0 14]) 14 ∧ Serves (asking [w0 12, 0x1000]) 12 ∧
    done .objclose (asking [w0 15, 3] (State.setObj {} 3 { live := true })) (fun t => !(t.obj 3).live) = true ∧
    done .dqclose (asking [w0 16, 3] (State.setDq {} 3 { opened := true })) (fun t => !(t.dq 3).opened) = true ∧
    done .grpopen (asking [w0 17, 3, 1, 5]) (fun t => (t.group 3).members == 5) = true ∧
    refuses .grpopen (asking [w0 17, 3, 1, 5] (State.setGroup {} 3 { opened := true })) 1 = true ∧
    done .grpclose (asking [w0 18, 3] (State.setGroup {} 3 { opened := true })) (fun t => !(t.group 3).opened) = true ∧
    Asked (asking [w0 19]) 19 ∧ refuses .inval (asking [w0 19]) 2 = true ∧ refuses .mapbar (asking [w0 5 + 1]) 2 = true ∧
    refuses .mapbar (asking [w0 5] { svState := 3 }) 1 = true ∧ refuses .mapbar (asking [w0 5] { svState := 4 }) 1 = true ∧
    refuses .mapbar (asking [w0 6]) 0 = true := by
  unfold Serves Asked; decide +kernel

/-- An image that fails a check: its key is not the fused one (18 R483). What the checks answer is unknown otherwise, so the other branch of
the statement, for an image that passes them all, has no witness that can be computed. -/
theorem test_witness_SupervisorEventsAct_refused (img : List Byte) : firmwareAccepted { rsaHash := [] } img = false := by
  simp [firmwareAccepted, firmwareChecks, shaOf]

theorem test_witness_SupervisorEventsAct :
    let boots := Instr.boot 0 [] [] [] [] []
    let bases := [2 ^ 22, 2 ^ 22, 65536, 65536, 65536, 65536, 16384, 16384, 16384, 8192, 262144, 65536, 65536, 4096, 0]
    ran (exec boots { svState := 2 }) (fun t => t.svState == 2) = true ∧ ran (exec boots { shut := { phase := 1 } }) (fun t => t.svState == 0) = true ∧
    clusterLeft (bootMasks {} 0 [] []) 0 = true ∧ clusterLeft (bootMasks {} 0 (List.range 256) []) 0 = false ∧
    linkLeft (bootMasks {} 0 [] []) 1 = true ∧ thrsOk [] = true ∧
    linkLeft (bootMasks {} 0 [] []) 2 = true ∧ clusterLeft (bootMasks {} 0 [] []) 1 = true ∧ basesOk (bootMasks { svState := 1 } 0 [] []) bases = true ∧
    ran (exec (.boot 0 bases [] [] [] []) { svState := 1 }) (fun t => t.svState == 2 && t.health == 4096) = true ∧
    ran (exec boots { svState := 1 }) (fun t => t.svState == 1) = true ∧
    ran (exec (.boot 0 bases [] (List.range 256) [] []) { svState := 1 }) (fun t => t.svState == 4) = true ∧
    (barWord {} 0x200).isNone = false ∧ (barWord {} 0x2000).isNone = true ∧ hostReset { shut := { phase := 1 }, svState := 2 } = { shut := { phase := 1 }, svState := 2 } ∧
    (hostReset { svState := 2, dev := [(5, 1)], svn := 3 }).svState = 0 ∧
    ran (exec (.islandThermal 1 104) {}) (fun t => Tab.get 0 t.islands 1 == 0) = true ∧
    ran (exec (.islandThermal 1 105) {}) (fun t => Tab.get 0 t.islands 1 == 1) = true ∧
    ran (exec (.islandThermal 1 115) {}) (fun t => t.svState == 4) = true ∧
    ran (exec (.powerLimit 1) {}) (fun t => Tab.get 0 t.islands 1 == 1) = true ∧
    ran (exec (.healthUpdate 3 7 0 0 0) { health := 0x10000 }) (fun t => t.dev.readLE 0x10030 2 == 7) = true ∧
    ran (exec (.healthUpdate 40 1000 0 1984 5400) { health := 0x10000 }) (fun t => t.cap == 1984) = true ∧
    (List.range 4096).all (fun k => !ctxLive {} k) = true ∧
    ran (exec (.domainBringUp 3 0 [5]) {}) (fun t => t.pkg == 3 && t.indom && Tab.get 0 t.routes 0 == 5) = true ∧
    ran (exec (.domainBringUp 3 0 [5]) (granted {})) (fun t => t.pkg == 0) = true := by
  repeat' apply And.intro
  all_goals decide +kernel

/-! ### The spec's own examples -/

/-- 02 R44's example: scales 0.75 and 1.0, and the bytes of their segment. -/
theorem test_example_scales :
    scaleValue 0x7E800 = .fin false 6144 (-13) false ∧ blockScale 1 (f32 0x3F400000) = 0x7E800 ∧ blockScale 1 (f32 0x3F800000) = 0x7F000 ∧
    leBytes (0x7F000 * 2 ^ 20 + 0x7E800) 5 = [0, 0xE8, 7, 0, 0x7F] := by decide +kernel

/-- The example below 02 R58: two chunks of one query row, m, l and o after each. -/
theorem test_example_probability :
    let one := fun (t v : Int) => some ([Fl.ofInt t], [Fl.ofInt v])
    let r0 : ProbRow := { o := [0] }
    let r1 := probChunk [Fl.ofInt 1] 0x3F317218 [one 1 1, one 1 3, none, some ([f32 0xC1820000], [Fl.ofInt 5])] r0
    let r2 := probChunk [Fl.ofInt 1] 0x3F317218 [one 2 2, none] r1
    (r1.m, r1.l, r1.o) = (0x3F800000, 0x44000000, [0x44800000]) ∧ (r2.m, r2.l, r2.o) = (0x40000000, 0x44000000, [0x44800000]) := by
  decide +kernel

/-- 09 R255: the CRC of the ASCII digits 1 to 9. -/
theorem test_example_crc : crc32c ((List.range 9).map fun i => BitVec.ofNat 8 (49 + i)) = 0xE3069283 := by decide +kernel

/-- 06 R168's example, its first LOOP: e5 falls to 3, EBASE rises to 1, the branch is taken to 0x200. -/
theorem test_example_loop :
    ran (exec (.loopE 5 1 (-3)) (tE { epc := 0x20C, e := (Vector.replicate 32 0).set 5 4 }))
      (fun t => (t.thread 0 0).rd .e 5 == 3 && (t.thread 0 0).epc == 0x200 && (t.thread 0 0).rotbase == 1) = true := by decide +kernel

/-- The example below 06 R189: `trap 12` of slot 3 of core 70, its record and the state at the handler's entry. -/
theorem test_example_trap :
    let s : State := {
      threads := [(70 * 16 + 3, { live := true, ctx := 0x21, epc := 0x340, apc := 0x118, rotbase := 1, traprec := 0x30000, tvece := 0x800 })]
      time := 0x4A817C800, cur := ⟨70, 3, .e⟩ }
    let at_ := fun (t : State) (off n : Nat) => t.spad.readLE (0x400000 * 70 + 0x30000 + off) n
    ran (exec (.trap 12) s) (fun t =>
      let h := t.thread 70 3
      (at_ t 0 4, at_ t 4 2, at_ t 6 2, at_ t 8 8, at_ t 0x10 2, at_ t 0x12 2, at_ t 0x14 4) == (0x21, 0x46, 1, 0x340, 0xC, 0xFFFF, 0)
      && (at_ t 0x18 8, at_ t 0x20 8, at_ t 0x28 2, at_ t 0x2A 2, at_ t 0x2C 8, at_ t 0x34 4) == (0, 0, 0, 1, 0x4A817C800, 0)
      && h.epce == 0x344 && h.epca == 0x118 && h.tstate == 1 && h.rotbase == 0 && h.rd .a 30 == 0x30000 && h.rd .e 30 == 0x30000
      && h.epc == 0x800) = true := by decide +kernel

/-- The example below 05 R126, its loads: both from entry 0 are forwarded; the one that entry 1 covers in part waits (04 R113). -/
theorem test_example_forwarding :
    let op := fun (ea data : Nat) (sz : Size) => SaOp.store { ea := BitVec.ofNat 64 ea, size := sz, data := some data, fromSq := true, pc := 0 }
    let s := tA { a := (Vector.replicate 32 0).set 8 0x1000, saq := [op 0x1000 0x30000000C .b8, op 0x1008 0xAAAABBBB .b4] }
    ran (exec (.ld 5 8 3 0) s) (fun t => t.curT.rd .a 5 == 0x30000000C) = true ∧
    ran (exec (.ld 6 8 2 1) s) (fun t => t.curT.rd .a 6 == 3) = true ∧
    ran (exec (.ld 7 8 3 1) s) (fun t => t.curT.apc == 0 && t.curT.rd .a 7 == 0) = true := by decide +kernel

/-- Words that raise: a predicate word of fn 11, SELP with a spare bit, conditions 6, a LOOP with bit 18, one that rotates in A. -/
theorem test_words_that_raise :
    decode .a 0x3800000B = .error ⟨3, fltIllegal⟩ ∧ decode .e 0x3C000001 = .error ⟨3, fltIllegal⟩ ∧
    decode .e 0x34003000 = .error ⟨3, fltIllegal⟩ ∧ decode .e 0x30000006 = .error ⟨3, fltIllegal⟩ ∧
    decode .e 0x50040000 = .error ⟨3, fltIllegal⟩ ∧ decode .a 0x50080000 = .error ⟨4, fltWrongStream⟩ := by decide +kernel

end Sys2Proof.Tests
end

section
/-! SUPPORT. What a word and a thread's accessors read: the fields of a word by their place, a thread after its clock has moved on or
its rotating base has changed. -/

namespace Sys2Proof.Machine

@[simp] theorem Thread.here_tick (t : Thread) (st : Stream) (n : Nat) : (t.tick st n).here st = t.here st := by cases st <;> rfl

@[simp] theorem Thread.pred_tick (t : Thread) (st : Stream) (n : Nat) (p : BitVec 7) : (t.tick st n).pred p = t.pred p := by
  cases st <;> rfl

theorem Thread.rd_rotbase (t : Thread) (st : Stream) (r : W64) (i : BitVec 5) :
    ({ t with rotbase := r } : Thread).rd st i = t.rd st i := by cases st <;> rfl

theorem Thread.here_rotbase (t : Thread) (st : Stream) (r : W64) : ({ t with rotbase := r } : Thread).here st = t.here st := by
  cases st <;> rfl

end Sys2Proof.Machine

namespace Sys2Proof

open Sys2Proof.Machine

theorem bitsAt_eq_fld (w : W32) (lo len : Nat) : bitsAt (w.setWidth 64) lo len = (fld w lo len).toNat := by
  rw [bitsAt, fld, BitVec.extractLsb'_toNat, BitVec.toNat_setWidth_of_le (by decide)]

/-- Two fields that meet are one field. -/
theorem fld_append_fld (w : W32) (lo m n : Nat) : fld w (lo + m) n ++ fld w lo m = fld w lo (n + m) :=
  BitVec.extractLsb'_append_extractLsb'_eq_extractLsb' rfl

/-- 03 R67 order 3: a word of a major of both streams raises FLT_ILLEGAL when its fields name no instruction, one whose own word it is
not, or one with a field out of range. -/
theorem decode_illegal {st : Stream} {w : W32} (hu : majorUse (majorOf w) = .both)
    (hc : ∀ i, candCommon st w = some i → encode i ≠ w ∨ i.fieldsOk = false) : decode st w = .error ⟨3, fltIllegal⟩ := by
  have hcand : candidate st w = candCommon st w := by rw [candidate, hu]
  simp only [decode, hu, hcand, majorIn]
  rcases hi : candCommon st w with _ | i
  · simp
  · rcases hc i hi with hw | hf
    · simp [hw]
    · simp [hf]

end Sys2Proof
end

section
/-! SUPPORT. Division (05 R129): the model's quotients and remainders by the integers', for every pair of operands. -/

namespace Sys2Proof

open Sys2Proof.Machine

section
variable {a b : W64}

theorem divSigned_of_eq_zero (hb : b = 0) : divSigned a b = -1 := if_pos hb

theorem divUnsigned_of_eq_zero (hb : b = 0) : divUnsigned a b = BitVec.ofNat 64 (2 ^ 64 - 1) := if_pos hb

theorem remSigned_of_eq_zero (hb : b = 0) : remSigned a b = a := if_pos hb

theorem remUnsigned_of_eq_zero (hb : b = 0) : remUnsigned a b = a := if_pos hb

theorem divUnsigned_of_ne_zero (hb : b ≠ 0) : divUnsigned a b = BitVec.ofNat 64 (a.toNat / b.toNat) :=
  (if_neg hb).trans BitVec.udiv_def

theorem remUnsigned_of_ne_zero (hb : b ≠ 0) : remUnsigned a b = BitVec.ofNat 64 (a.toNat % b.toNat) :=
  (if_neg hb).trans BitVec.umod_def

theorem divSigned_of_ne_zero (hb : b ≠ 0) : divSigned a b = BitVec.ofInt 64 (a.toInt.tdiv b.toInt) := by
  apply BitVec.eq_of_toInt_eq
  rw [divSigned, if_neg hb, BitVec.toInt_sdiv, BitVec.toInt_ofInt]

theorem remSigned_of_ne_zero (hb : b ≠ 0) : remSigned a b = BitVec.ofInt 64 (a.toInt.tmod b.toInt) := by
  rw [remSigned, if_neg hb, ← BitVec.toInt_srem, BitVec.ofInt_toInt]

/-- The one quotient out of range, −2^63 / −1, wraps. -/
theorem divSigned_intMin_neg_one (ha : a = BitVec.intMin 64) (hb : b = -1) : divSigned a b = BitVec.intMin 64 := by
  subst ha hb
  exact (if_neg (by decide)).trans BitVec.intMin_sdiv_neg_one

theorem remSigned_neg_one (hb : b = -1) : remSigned a b = 0 := by
  subst hb
  have hi : (-1 : W64).toInt = -1 := by decide
  rw [remSigned_of_ne_zero (by decide), hi, Int.tmod_neg, Int.tmod_one]
  rfl

end

/-- Settles O11, by the divisor: zero, not zero, and the one quotient out of range. -/
theorem divisionNeverFaults : Obligations.DivisionNeverFaults := by
  intro s d a b h t st A B gives corner
  refine ⟨fun hB => ⟨?_, ?_, ?_, ?_⟩, fun ⟨hA, hB⟩ => ⟨?_, ?_⟩, fun hB => ⟨?_, ?_⟩, fun hB _ => ⟨?_, ?_⟩⟩
  · exact alu_next h (divSigned_of_eq_zero hB)
  · exact alu_next h (divUnsigned_of_eq_zero hB)
  · exact alu_next h (remSigned_of_eq_zero hB)
  · exact alu_next h (remUnsigned_of_eq_zero hB)
  · exact alu_next h (divSigned_intMin_neg_one hA hB)
  · exact alu_next h (remSigned_neg_one hB)
  · exact alu_next h (divUnsigned_of_ne_zero hB)
  · exact alu_next h (remUnsigned_of_ne_zero hB)
  · exact alu_next h (divSigned_of_ne_zero hB)
  · exact alu_next h (remSigned_of_ne_zero hB)

end Sys2Proof
end

section
/-! SUPPORT. MOVHI and MOVK (05 R131): what they write, bit by bit. -/

namespace Sys2Proof

open Sys2Proof.Machine

/-- The value MOVHI writes (`movhi_next`). -/
def highImm (im : BitVec 16) : W64 := (im ++ 0#16).signExtend 64

theorem movhi_next {s : State} (h : mayIssue s = true) (d : BitVec 5) (im : BitVec 16) :
    exec (.movhi d im) s = .next (s.setCurT (((s.curT.wr s.cur.st d (highImm im)).tick s.cur.st).advance s.cur.st)) :=
  scalar_next h fun st t => t.wr st d (highImm im)

theorem getLsbD_highImm (im : BitVec 16) {k : Nat} (hk : k < 64) :
    (highImm im).getLsbD k = if k < 16 then false else if k < 32 then im.getLsbD (k - 16) else im.msb := by
  rw [highImm, BitVec.getLsbD_signExtend, BitVec.getLsbD_append, BitVec.msb_append, decide_eq_true hk]
  by_cases h16 : k < 16
  · simp [h16, show k < 32 by omega]
  by_cases h32 : k < 32
  · simp [h16, h32]
  · simp [h16, h32]

theorem highImm_low (im : BitVec 16) : (highImm im).extractLsb' 0 16 = 0 := by
  ext k hk
  simp [getLsbD_highImm im (show k < 64 by omega), hk]

theorem highImm_mid (im : BitVec 16) : (highImm im).extractLsb' 16 16 = im := by
  ext k hk
  simp [getLsbD_highImm im (show 16 + k < 64 by omega), hk, show 16 + k < 32 by omega]

theorem highImm_sign (im : BitVec 16) {k : Nat} (h32 : 32 ≤ k) (h64 : k < 64) :
    (highImm im).getLsbD k = (highImm im).getLsbD 31 := by
  rw [getLsbD_highImm im h64, getLsbD_highImm im (by decide)]
  simp [Nat.not_lt.mpr h32, show ¬ k < 16 by omega, BitVec.msb_eq_getLsbD_last]

theorem getLsbD_laneOnes (k : Nat) : (0xFFFF : W64).getLsbD k = decide (k < 16) := by
  rw [show (0xFFFF : W64) = (BitVec.allOnes 16).setWidth 64 by decide, BitVec.getLsbD_setWidth, BitVec.getLsbD_allOnes,
    ← Bool.decide_and]
  exact decide_eq_decide.mpr (by omega)

theorem getLsbD_putLane (x : W64) (l : BitVec 2) (im : BitVec 16) {k : Nat} (hk : k < 64) :
    (putLane x l im).getLsbD k =
      if 16 * l.toNat ≤ k ∧ k < 16 * l.toNat + 16 then im.getLsbD (k - 16 * l.toNat) else x.getLsbD k := by
  simp only [putLane, BitVec.getLsbD_or, BitVec.getLsbD_and, BitVec.getLsbD_not, BitVec.getLsbD_shiftLeft, BitVec.getLsbD_setWidth,
    getLsbD_laneOnes, decide_eq_true hk, BitVec.zeroExtend]
  by_cases below : k < 16 * l.toNat
  · simp [below]
  by_cases inside : k < 16 * l.toNat + 16
  · simp [below, inside, Nat.le_of_not_lt below, show k - 16 * l.toNat < 16 by omega, show k - 16 * l.toNat < 64 by omega]
  · simp [below, inside, show ¬ k - 16 * l.toNat < 16 by omega, BitVec.getLsbD_of_ge im (k - 16 * l.toNat) (by omega)]

/-- Settles O13: the bits of `highImm` and of `putLane`. -/
theorem moveImmediateResults : Obligations.MoveImmediateResults := by
  intro s d im l h t st gives
  exact ⟨⟨highImm im, highImm_low im, highImm_mid im, fun _ => highImm_sign im, movhi_next h d im⟩,
    ⟨putLane (t.rd st d) l im, fun _ => getLsbD_putLane _ l im, alu1_next h (f := fun x => putLane x l im) rfl⟩⟩

end Sys2Proof
end

section
/-! SUPPORT. Compares, predicate logic and SELP (05 R132-R134): the conditions by the integers' orders, CMPI's immediate, and the
words of their majors that hold no instruction. -/

namespace Sys2Proof

open Sys2Proof.Machine

/-! ### Conditions (05 R132) -/

theorem condHolds_eq (a b : W64) : condHolds 0 a b = decide (a = b) := beq_eq_decide ..

theorem condHolds_ne (a b : W64) : condHolds 1 a b = decide (a ≠ b) := by
  rw [show condHolds 1 a b = !(a == b) from rfl, beq_eq_decide, decide_not]

theorem condHolds_lt (a b : W64) : condHolds 2 a b = decide (a.toInt < b.toInt) := BitVec.slt_eq_decide

theorem condHolds_ge (a b : W64) : condHolds 3 a b = decide (b.toInt ≤ a.toInt) := by
  rw [show condHolds 3 a b = !BitVec.slt a b from rfl, BitVec.slt_eq_decide, ← decide_not]
  simp only [not_lt]

theorem condHolds_ltu (a b : W64) : condHolds 4 a b = decide (a.toNat < b.toNat) := BitVec.ult_eq_decide

theorem condHolds_geu (a b : W64) : condHolds 5 a b = decide (b.toNat ≤ a.toNat) := by
  rw [show condHolds 5 a b = !BitVec.ult a b from rfl, BitVec.ult_eq_decide, ← decide_not]
  simp only [not_lt]

theorem toInt_cmpImm {c : BitVec 3} (hc : c.toNat < 4) (im : BitVec 11) : (cmpImm c im).toInt = im.toInt := by
  rw [cmpImm, if_pos hc, BitVec.toInt_signExtend_of_le (by decide)]

theorem toNat_cmpImm {c : BitVec 3} (hc : ¬ c.toNat < 4) (im : BitVec 11) : (cmpImm c im).toNat = im.toNat := by
  rw [cmpImm, if_neg hc, BitVec.toNat_setWidth_of_le (by decide)]

theorem eq_cmpImm_iff {c : BitVec 3} (hc : c.toNat < 4) (a : W64) (im : BitVec 11) : a = cmpImm c im ↔ a.toInt = im.toInt := by
  rw [← BitVec.toInt_inj, toInt_cmpImm hc]

theorem cmp_next {s : State} (h : mayIssue s = true) {p : BitVec 7} {a b : BitVec 5} {c : BitVec 3} {v : Bool}
    (e : condHolds c (s.curT.rd s.cur.st a) (s.curT.rd s.cur.st b) = v) :
    exec (.cmp p a b c) s = .next (s.setCurT (((s.curT.setPred p v).tick s.cur.st).advance s.cur.st)) := by
  rw [← e]; exact scalar_next h fun st t => t.setPred p (condHolds c (t.rd st a) (t.rd st b))

theorem cmpi_next {s : State} (h : mayIssue s = true) {p : BitVec 7} {a : BitVec 5} {c : BitVec 3} {im : BitVec 11} {v : Bool}
    (e : condHolds c (s.curT.rd s.cur.st a) (cmpImm c im) = v) :
    exec (.cmpi p a c im) s = .next (s.setCurT (((s.curT.setPred p v).tick s.cur.st).advance s.cur.st)) := by
  rw [← e]; exact scalar_next h fun st t => t.setPred p (condHolds c (t.rd st a) (cmpImm c im))

/-! ### Words that hold no instruction (03 R65, R67) -/

section
variable {st : Stream} {w : W32}

theorem candCommon_cmp (h : majorOf w = 0x0C) :
    candCommon st w = some (.cmp (fld w 19 7) (fld w 14 5) (fld w 9 5) (fld w 0 3)) := by simp only [candCommon, h]

theorem candCommon_cmpi (h : majorOf w = 0x0D) :
    candCommon st w = some (.cmpi (fld w 19 7) (fld w 14 5) (fld w 11 3) (fld w 0 11)) := by simp only [candCommon, h]

theorem candCommon_plog (h : majorOf w = 0x0E) : candCommon st w = candPlog w := by simp only [candCommon, h]

theorem candCommon_selp (h : majorOf w = 0x0F) :
    candCommon st w = some (.selp (fld w 21 5) (fld w 16 5) (fld w 11 5) (fld w 4 7)) := by simp only [candCommon, h]

theorem candPlog_none (h : 11 ≤ (fld w 0 5).toNat) : candPlog w = none := by
  simp only [candPlog]
  split
  on_goal 12 => rfl
  all_goals omega

/-- SELP's word ends in four zeros (03 R65). -/
theorem fld_encode_selp (d a b : BitVec 5) (p : BitVec 7) : fld (encode (.selp d a b p)) 0 4 = 0 := by
  show (0x0F#6 ++ d ++ a ++ b ++ p ++ 0#4 : BitVec (6 + 5 + 5 + 5 + 7 + 4)).extractLsb' 0 4 = 0
  rw [Laws.fieldBelow (by decide)]
  rfl

theorem decode_cmp_illegal (hm : majorOf w = 0x0C) (hc : 6 ≤ (fld w 0 3).toNat) : decode st w = .error ⟨3, fltIllegal⟩ := by
  refine decode_illegal (by rw [hm]; rfl) fun i hi => .inr ?_
  cases (candCommon_cmp hm).symm.trans hi
  exact decide_eq_false (by omega)

theorem decode_cmpi_illegal (hm : majorOf w = 0x0D) (hc : 6 ≤ (fld w 11 3).toNat) : decode st w = .error ⟨3, fltIllegal⟩ := by
  refine decode_illegal (by rw [hm]; rfl) fun i hi => .inr ?_
  cases (candCommon_cmpi hm).symm.trans hi
  exact decide_eq_false (by omega)

theorem decode_plog_illegal (hm : majorOf w = 0x0E) (hf : 11 ≤ (fld w 0 5).toNat) : decode st w = .error ⟨3, fltIllegal⟩ := by
  refine decode_illegal (by rw [hm]; rfl) fun i hi => ?_
  rw [candCommon_plog hm, candPlog_none hf] at hi
  cases hi

theorem decode_selp_illegal (hm : majorOf w = 0x0F) (hz : (fld w 0 4).toNat ≠ 0) : decode st w = .error ⟨3, fltIllegal⟩ := by
  refine decode_illegal (by rw [hm]; rfl) fun i hi => .inl fun hw => hz ?_
  cases (candCommon_selp hm).symm.trans hi
  rw [← hw, fld_encode_selp]
  rfl

end

/-- Settles O14: each compare by its condition, each predicate word by its function, and the words by their major. -/
theorem predicateResults : Obligations.PredicateResults := by
  refine ⟨fun s d a b p q r im h => ?_, fun st w => ?_⟩
  · refine ⟨cmp_next h (condHolds_eq _ _), cmp_next h (condHolds_ne _ _), cmp_next h (condHolds_lt _ _),
      cmp_next h (condHolds_ge _ _), cmp_next h (condHolds_ltu _ _), cmp_next h (condHolds_geu _ _),
      cmpi_next h ?eq, cmpi_next h ?ne, cmpi_next h ?lt, cmpi_next h ?ge, cmpi_next h ?ltu, cmpi_next h ?geu,
      plog_next h (f := fun P Q => P && Q) rfl, plog_next h (f := fun P Q => P || Q) rfl,
      plog_next h (f := fun P Q => P != Q) rfl, plog_next h (f := fun P Q => P && !Q) rfl,
      plog_next h (f := fun P Q => P || !Q) rfl, plog_next h (f := fun P Q => !(P && Q)) rfl,
      plog_next h (f := fun P Q => !(P || Q)) rfl, plog_next h (f := fun P Q => P == Q) (Bool.not_not _).symm,
      scalar_next h fun _ t => t.setPred p !t.pred q, scalar_next h fun _ t => t.setPred p true,
      scalar_next h fun _ t => t.setPred p false,
      scalar_next h fun st t => t.wr st d (if t.pred q then t.rd st a else t.rd st b)⟩
    case eq => rw [condHolds_eq, decide_eq_decide]; exact eq_cmpImm_iff (by decide) _ im
    case ne => rw [condHolds_ne, decide_eq_decide]; exact not_congr (eq_cmpImm_iff (by decide) _ im)
    case lt => rw [condHolds_lt, toInt_cmpImm (by decide)]
    case ge => rw [condHolds_ge, toInt_cmpImm (by decide)]
    case ltu => rw [condHolds_ltu, toNat_cmpImm (by decide)]
    case geu => rw [condHolds_geu, toNat_cmpImm (by decide)]
  · simp only [bitsAt_eq_fld]
    exact ⟨decode_cmp_illegal, decode_cmpi_illegal, decode_plog_illegal, decode_selp_illegal⟩

end Sys2Proof
end

section
/-! SUPPORT. Transfers of control (05 R135-R138, 06 R167, R168): where a branch, a jump and a LOOP go and what they write, and LOOP's
words that raise. -/

namespace Sys2Proof

open Sys2Proof.Machine

/-! ### Branches and jumps (05 R135-R137) -/

/-- A displacement counts words from the instruction's address. -/
theorem target_eq {n : Nat} (hn : n ≤ 64) (t : Thread) (st : Stream) (disp : BitVec n) :
    target t st disp = BitVec.ofInt 64 ((t.here st).toInt + 4 * disp.toInt) := by
  rw [BitVec.ofInt_add, BitVec.ofInt_mul, BitVec.ofInt_toInt, ← BitVec.toInt_signExtend_of_le hn, BitVec.ofInt_toInt, mul_comm,
    target, BitVec.shiftLeft_eq_mul_twoPow]
  rfl

/-- A branch writes what `f` says and goes to its target when `taken` holds of the thread after that, and to the next word
otherwise. -/
theorem branch_next {s : State} (h : mayIssue s = true) {n : Nat} (disp : BitVec n) (hn : n ≤ 64) {f : Stream → Thread → Thread}
    {taken : Stream → Thread → Bool} {c : Prop} [Decidable c]
    (hc : taken s.cur.st ((f s.cur.st s.curT).tick s.cur.st) = true ↔ c) :
    branch s disp f taken = .next (s.setCurT (((f s.cur.st s.curT).tick s.cur.st).goto s.cur.st
      (if c then BitVec.ofInt 64 ((s.curT.here s.cur.st).toInt + 4 * disp.toInt) else s.curT.here s.cur.st + 4))) := by
  refine runWord_ok h ?_
  rw [← target_eq hn]
  by_cases hb : c
  · simp only [hc.mpr hb, if_pos hb, if_true]
  · simp only [mt hc.mp hb, if_neg hb, if_false, Bool.false_eq_true]

theorem branch_always {s : State} (h : mayIssue s = true) {n : Nat} (disp : BitVec n) (hn : n ≤ 64) (f : Stream → Thread → Thread) :
    branch s disp f (fun _ _ => true) = .next (s.setCurT (((f s.cur.st s.curT).tick s.cur.st).goto s.cur.st
      (BitVec.ofInt 64 ((s.curT.here s.cur.st).toInt + 4 * disp.toInt)))) :=
  branch_next h disp hn (c := True) (iff_of_true rfl trivial)

theorem jumpTo_aligned {s : State} (h : mayIssue s = true) {r : BitVec 5} (link : Bool)
    (ha : (s.curT.rd s.cur.st r).toNat % 4 = 0) :
    jumpTo s r link = .next (s.setCurT (((if link then s.curT.wr s.cur.st linkReg (s.curT.here s.cur.st + 4) else s.curT).tick
      s.cur.st).goto s.cur.st (s.curT.rd s.cur.st r))) := runWord_ok h (if_neg (not_not.mpr ha))

theorem jumpTo_misaligned {s : State} (h : mayIssue s = true) {r : BitVec 5} (link : Bool)
    (ha : (s.curT.rd s.cur.st r).toNat % 4 ≠ 0) :
    jumpTo s r link = .next (raise s fltAlign (s.curT.rd s.cur.st r)) := runWord_fault h (if_pos ha)

/-- A word of one thread that leaves its stream's place goes on to the next word. -/
theorem scalar_goesOn {s : State} (h : mayIssue s = true) {f : Stream → Thread → Thread}
    (hf : (f s.cur.st s.curT).here s.cur.st = s.curT.here s.cur.st) :
    scalar s f = .next (s.setCurT (((f s.cur.st s.curT).tick s.cur.st).goto s.cur.st (s.curT.here s.cur.st + 4))) := by
  rw [scalar_next h, Thread.advance, Thread.here_tick, hf]

/-- LOOP tests the count it has just written. -/
theorem count_ne_zero_iff {u : Thread} {st : Stream} {c : BitVec 5} {v : W64} (hu : u.rd st c = v) :
    ((u.tick st).rd st c != 0) = true ↔ v ≠ 0 := by
  rw [Thread.rd_tick, hu]
  exact bne_iff_ne

theorem loopA_next {s : State} (h : mayIssue s = true) (c : BitVec 5) (d : BitVec 18) :
    let t := s.curT
    let st := s.cur.st
    let left := t.rd st c - 1
    exec (.loopA c d) s = .next (s.setCurT (((t.wr st c left).tick st).goto st
      (if left ≠ 0 then BitVec.ofInt 64 ((t.here st).toInt + 4 * d.toInt) else t.here st + 4))) :=
  branch_next h d (by decide) (f := fun st t => t.wr st c (t.rd st c - 1)) (taken := fun st t => t.rd st c != 0)
    (count_ne_zero_iff (Thread.rd_wr _ _ _ _))

theorem loopE_next {s : State} (h : mayIssue s = true) (c : BitVec 5) (r : BitVec 2) (d : BitVec 18) :
    let t := s.curT
    let st := s.cur.st
    let left := t.rd st c - 1
    exec (.loopE c r d) s = .next (s.setCurT ((Thread.tick
      { t.wr st c left with rotbase := setBits t.rotbase 0 2 ((bitsAt t.rotbase 0 2 + r.toNat) % 4) } st).goto st
      (if left ≠ 0 then BitVec.ofInt 64 ((t.here st).toInt + 4 * d.toInt) else t.here st + 4))) := by
  intro t st left
  rw [← Thread.wr_rotbase t st c left]
  exact branch_next h d (by decide)
    (f := fun st t => let u := t.wr st c (t.rd st c - 1); { u with rotbase := rotateBase u.rotbase r.toNat })
    (taken := fun st t => t.rd st c != 0) (count_ne_zero_iff ((Thread.rd_rotbase _ _ _ _).trans (Thread.rd_wr t st c left)))

/-! ### LOOP's words (03 R65, R67) -/

theorem candCommon_loop {st : Stream} {w : W32} (h : majorOf w = 0x14) :
    candCommon st w = if st = .a ∧ fld w 19 2 = 0 then some (.loopA (fld w 21 5) (fld w 0 18))
      else some (.loopE (fld w 21 5) (fld w 19 2) (fld w 0 18)) := by simp only [candCommon, h]

theorem fld_encode_loopE (c : BitVec 5) (r : BitVec 2) (d : BitVec 18) : fld (encode (.loopE c r d)) 18 1 = 0 := by
  show (0x14#6 ++ c ++ r ++ 0#1 ++ d : BitVec (6 + 5 + 2 + 1 + 18)).extractLsb' 18 1 = 0
  rw [Laws.fieldAbove (by decide), Laws.fieldBelow (by decide)]
  rfl

/-- A LOOP word with bit 18 clear is the word of its fields. -/
theorem encode_loopE_fields {w : W32} (h : majorOf w = 0x14) (h18 : fld w 18 1 = 0) :
    encode (.loopE (fld w 21 5) (fld w 19 2) (fld w 0 18)) = w := by
  have hmaj : fld w 26 6 = 0x14#6 := BitVec.eq_of_toNat_eq (y := 0x14#6) h
  calc (0x14#6 ++ fld w 21 5 ++ fld w 19 2 ++ 0#1 ++ fld w 0 18 : BitVec (6 + 5 + 2 + 1 + 18))
    _ = fld w 26 6 ++ fld w 21 5 ++ fld w 19 2 ++ fld w 18 1 ++ fld w 0 18 := by rw [hmaj, h18]; rfl
    _ = fld w 21 (6 + 5) ++ fld w 19 2 ++ fld w 18 1 ++ fld w 0 18 := by rw [← fld_append_fld w 21 5 6]
    _ = fld w 19 (6 + 5 + 2) ++ fld w 18 1 ++ fld w 0 18 := by rw [← fld_append_fld w 19 2 (6 + 5)]
    _ = fld w 18 (6 + 5 + 2 + 1) ++ fld w 0 18 := by rw [← fld_append_fld w 18 1 (6 + 5 + 2)]
    _ = fld w 0 (6 + 5 + 2 + 1 + 18) := fld_append_fld w 0 18 _
    _ = w := BitVec.extractLsb'_eq_self

/-- A LOOP word that sets bit 18 holds no instruction: neither LOOP's word does. -/
theorem decode_loop_illegal {st : Stream} {w : W32} (h : majorOf w = 0x14) (h18 : fld w 18 1 ≠ 0) :
    decode st w = .error ⟨3, fltIllegal⟩ := by
  refine decode_illegal (by rw [h]; rfl) fun i hi => .inl fun hw => h18 ?_
  rw [candCommon_loop h] at hi
  split at hi <;> cases hi
  · rw [← hw]; exact fld_encode_loopE _ 0 _
  · rw [← hw]; exact fld_encode_loopE _ _ _

theorem decode_loop_rotating {w : W32} (h : majorOf w = 0x14) (h18 : fld w 18 1 = 0) (hrot : fld w 19 2 ≠ 0) :
    decode .a w = .error ⟨4, fltWrongStream⟩ := by
  have hu : majorUse (majorOf w) = .both := by rw [h]; rfl
  have hc : candidate .a w = some (.loopE (fld w 21 5) (fld w 19 2) (fld w 0 18)) := by
    rw [candidate, hu]
    exact (candCommon_loop h).trans (if_neg fun hr => hrot hr.2)
  simp [decode, hu, hc, encode_loopE_fields h h18, majorIn, Instr.fieldsOk, Instr.halvesOk]

/-- Settles O15: the branches by what they write and when they are taken, the jumps by their target's alignment, LOOP's words by
bit 18 and the rotation. -/
theorem branchResults : Obligations.BranchResults := by
  refine ⟨fun s p n d18 d26 a r h => ?_, fun s a h => ⟨fun ha => ?_, fun ha => ?_⟩,
    fun st w hm => ⟨fun h18 => ?_, fun h18 hrot => ?_⟩⟩
  · intro t st here far goes less left
    refine ⟨?br, ?jmp, ?call, fun ha => ⟨?jr, ?callr⟩, fun ha => ?ret, fun _ => ?loopA, fun _ => ?loopE, ?nop, ?rotclr⟩
    case br =>
      exact branch_next h d18 (by decide) (f := fun _ t => t) (taken := fun _ t => t.pred p != (n == 1)) (by rw [Thread.pred_tick])
    case jmp => exact branch_always h d26 (by decide) fun _ t => t
    case call => exact branch_always h d26 (by decide) fun st t => t.wr st linkReg (t.here st + 4)
    case jr => exact jumpTo_aligned h false ha
    case callr => exact jumpTo_aligned h true ha
    case ret => exact jumpTo_aligned h false ha
    case loopA => exact loopA_next h a d18
    case loopE => exact loopE_next h a r d18
    case nop => exact scalar_goesOn h (f := fun _ t => t) rfl
    case rotclr =>
      exact scalar_goesOn h (f := fun _ t => { t with rotbase := setBits t.rotbase 0 2 0 }) (Thread.here_rotbase _ _ _)
  · exact ⟨jumpTo_misaligned h false ha, jumpTo_misaligned h true ha⟩
  · exact jumpTo_misaligned h false ha
  · exact decode_loop_illegal hm fun h0 => h18 (by rw [bitsAt_eq_fld, h0]; rfl)
  · rw [bitsAt_eq_fld] at h18 hrot
    exact decode_loop_rotating hm (BitVec.eq_of_toNat_eq h18) fun h0 => hrot (by rw [h0]; rfl)

end Sys2Proof
end
